-- ==== Sys2Proof/Word.lean ====
section
/-!
DEFINITION. The word types of the GLK-9650 and the one container the state is built from: a sparse map,
a list of (key, value) pairs with rising keys. Plain data, so that states can be compared and written out.
-/

namespace Sys2Proof

abbrev Byte := BitVec 8
abbrev Word := BitVec 32
abbrev DWord := BitVec 64
/-- One bit per lane of a wave (R6). -/
abbrev Mask := BitVec 64

/-- A sparse map from natural keys, in rising key order. -/
abbrev SMap (α : Type) := List (Nat × α)

/-- The value listed at a key. -/
def SMap.find? {α : Type} : SMap α → Nat → Option α
  | [], _ => none
  | (j, v) :: m, k => if j = k then some v else SMap.find? m k

/-- The value at a key, or the default where the key is not listed. -/
def SMap.get {α : Type} (d : α) (m : SMap α) (k : Nat) : α :=
  match SMap.find? m k with
  | some v => v
  | none => d

/-- List a value at a key, in order, replacing what the key held. -/
def SMap.insert {α : Type} (k : Nat) (v : α) : SMap α → SMap α
  | [] => [(k, v)]
  | (j, u) :: m =>
    if k < j then (k, v) :: (j, u) :: m
    else if k = j then (k, v) :: m
    else (j, u) :: SMap.insert k v m

/-- Remove a key. -/
def SMap.erase {α : Type} (k : Nat) : SMap α → SMap α
  | [] => []
  | (j, u) :: m => if k = j then m else (j, u) :: SMap.erase k m

/-- Set a key, keeping the canonical form: the default value is never listed. -/
def SMap.set {α : Type} [DecidableEq α] (d : α) (k : Nat) (v : α) (m : SMap α) : SMap α :=
  if v = d then SMap.erase k m else SMap.insert k v m

/-- Change the value listed at a key, where it is listed. -/
def SMap.modify {α : Type} (k : Nat) (f : α → α) : SMap α → SMap α
  | [] => []
  | (j, u) :: m => if j = k then (j, f u) :: m else (j, u) :: SMap.modify k f m

/-- Keys strictly rise, all of them above a bound. -/
def SMap.sortedFrom {α : Type} : Nat → SMap α → Bool
  | _, [] => true
  | lo, (j, _) :: m => decide (lo ≤ j) && SMap.sortedFrom (j + 1) m

/-- The canonical form: rising keys and no entry equal to the default. -/
def SMap.wf {α : Type} [DecidableEq α] (d : α) (m : SMap α) : Bool :=
  SMap.sortedFrom 0 m && m.all (fun e => decide (e.2 ≠ d))

/-- The lanes of a mask, in ascending order (R15). -/
def lanesOf (e : Mask) : List Nat := (List.range 64).filter (fun l => e.getLsbD l)

/-- The mask of the lanes 0 to n − 1. -/
def lowMask (n : Nat) : Mask := BitVec.ofNat 64 (2 ^ n - 1)

/-- The mask of a list of lanes. -/
def maskOf (ls : List Nat) : Mask := ls.foldl (fun m l => m ||| BitVec.ofNat 64 (2 ^ l)) 0

def setBit (m : Mask) (l : Nat) (b : Bool) : Mask :=
  if b then m ||| BitVec.ofNat 64 (2 ^ l) else m &&& ~~~ (BitVec.ofNat 64 (2 ^ l))

/-- Little-endian bytes of a number (R10). -/
def bytesOf : Nat → Nat → List Byte
  | 0, _ => []
  | n + 1, v => BitVec.ofNat 8 v :: bytesOf n (v / 256)

/-- The number little-endian bytes spell (R10). -/
def natOfBytes : List Byte → Nat
  | [] => 0
  | b :: bs => b.toNat + 256 * natOfBytes bs

/-- A bit field of a number: bits [lo + n − 1 : lo]. -/
def bits (v lo n : Nat) : Nat := v / 2 ^ lo % 2 ^ n

/-- One bit of a number. -/
def bit (v i : Nat) : Bool := v / 2 ^ i % 2 == 1

/-- The two's-complement reading of the low n bits of a number (R11). -/
def sext (n v : Nat) : Int :=
  let x := v % 2 ^ n
  if n ≠ 0 ∧ 2 ^ (n - 1) ≤ x then (x : Int) - (2 : Int) ^ n else x

/-- An integer modulo 2^n, as a natural number. -/
def wrapN (n : Nat) (i : Int) : Nat := (i % (2 : Int) ^ n).toNat

/-- ceil(a / b). -/
def ceilDiv (a b : Nat) : Nat := (a + b - 1) / b

end Sys2Proof
end

