-- ==== Sys2Proof/Machine/Numerics.lean ====
section
/-!
DEFINITION. Number formats and roundings (spec/07). A real is held exactly as a fraction of naturals with a sign; an
irrational result is held to `prec` binary digits with a sticky digit below them, which rounds as the real does (R231,
R352). Every function is total on numerals the kernel can evaluate.
-/

namespace Sys2Proof.Machine

/-- A binary floating-point format (R224): widths of exponent and fraction, bias, and whether it is E4M3. -/
structure Fmt where
  e    : Nat
  f    : Nat
  bias : Nat
  e4m3 : Bool
  deriving DecidableEq, Repr

def fp64 : Fmt := ⟨11, 52, 1023, false⟩
def fp32 : Fmt := ⟨8, 23, 127, false⟩
def fp16 : Fmt := ⟨5, 10, 15, false⟩
def bf16 : Fmt := ⟨8, 7, 127, false⟩
def e4m3 : Fmt := ⟨4, 3, 7, true⟩
def e5m2 : Fmt := ⟨5, 2, 15, false⟩

def Fmt.width (t : Fmt) : Nat := t.e + t.f + 1
def Fmt.sign (t : Fmt) : Nat := 2 ^ (t.e + t.f)
/-- The code of +infinity; in E4M3, one above the NaN code's place. -/
def Fmt.infCode (t : Fmt) : Nat := (2 ^ t.e - 1) * 2 ^ t.f
/-- The code of the largest finite magnitude (R224). -/
def Fmt.maxCode (t : Fmt) : Nat := if t.e4m3 then 0x7E else t.infCode - 1
/-- The canonical NaN (R224). -/
def Fmt.nan (t : Fmt) : Nat := if t.e4m3 then 0x7F else t.infCode + 2 ^ (t.f - 1)

/-- A decoded value: NaN, an infinity, or sign and magnitude p / q. -/
inductive FVal
  | nan
  | inf (neg : Bool)
  | fin (neg : Bool) (p q : Nat)
  deriving DecidableEq, Repr

/-- p × 2^e as a fraction. -/
def dyad (m : Nat) (e : Int) : Nat × Nat :=
  if 0 ≤ e then (m * 2 ^ e.toNat, 1) else (m, 2 ^ (-e).toNat)

/-- FloatDecode of R224. -/
def fDecode (t : Fmt) (x : Nat) : FVal :=
  let neg := bit x (t.e + t.f)
  let e := bits x t.f t.e
  let m := bits x 0 t.f
  if t.e4m3 && e == 15 && m == 7 then .nan
  else if !t.e4m3 && e == 2 ^ t.e - 1 then (if m = 0 then .inf neg else .nan)
  else
    let (p, q) := if e = 0 then dyad m (1 - (t.bias : Int) - t.f) else dyad (2 ^ t.f + m) ((e : Int) - t.bias - t.f)
    .fin neg p q

/-- Rounding modes (R231, R233): the stochastic mode carries its 16-bit random word. -/
inductive Rm
  | ne
  | sr (rnd : Nat)
  | rz
  | rp
  | rm
  deriving DecidableEq, Repr

/-- The rounding modifier of floating-point words (R299). -/
def rmOf (n : Nat) : Rm :=
  match n with
  | 0 => .ne
  | 1 => .rz
  | 2 => .rp
  | _ => .rm

/-- floor(log2(p / q)) for positive p and q. -/
def ilog (p q : Nat) : Int :=
  let k : Int := (Nat.log2 p : Int) - Nat.log2 q
  let ok := if 0 ≤ k then decide (q * 2 ^ k.toNat ≤ p) else decide (q ≤ p * 2 ^ (-k).toNat)
  if ok then k else k - 1

/-- The number of binary digits of r / q after the point, where q is a power of two (R233: d); 16 where it is longer
or does not end. -/
def fracDigits (r q : Nat) : Nat :=
  if (r * 2 ^ 16) % q = 0 then
    (List.range 17).foldl (fun best j => if (r * 2 ^ j) % q = 0 ∧ j < best then j else best) 16
  else 16

/-- Whether the discarded part r / q of a magnitude rounds up, where `keep` is the part kept (R231, R233). -/
def roundsUp (mode : Rm) (neg : Bool) (keep r q : Nat) : Bool :=
  match mode with
  | .ne => decide (q < 2 * r) || (decide (q = 2 * r) && keep % 2 == 1)
  | .rz => false
  | .rp => decide (r ≠ 0) && !neg
  | .rm => decide (r ≠ 0) && neg
  | .sr rnd =>
    if r = 0 then false
    else
      let d := fracDigits r q
      if d ≥ 16 then decide (r * 2 ^ 16 / q > rnd) else decide (r * 2 ^ d / q > rnd / 2 ^ (16 - d))

/-- p / q rounded to an integer magnitude. -/
def roundInt (mode : Rm) (neg : Bool) (p q : Nat) : Nat :=
  let keep := p / q
  if roundsUp mode neg keep (p % q) q then keep + 1 else keep

/-- The magnitude p / q rounded to the format, as a code without sign, the exponent unbounded above (R231). -/
def roundMag (t : Fmt) (mode : Rm) (neg : Bool) (p q : Nat) : Nat :=
  if p = 0 then 0
  else
    let emin : Int := 1 - t.bias
    let e := max (ilog p q) emin
    let g : Int := e - t.f
    let (p', q') := if 0 ≤ g then (p, q * 2 ^ g.toNat) else (p * 2 ^ (-g).toNat, q)
    (e + t.bias - 1).toNat * 2 ^ t.f + roundInt mode neg p' q'

/-- The overflow result of R232: with SAT the largest finite value, else infinity, E4M3's NaN, or the largest finite
value in a mode that rounds toward zero for this sign. -/
def overflowCode (t : Fmt) (mode : Rm) (sat neg : Bool) : Nat :=
  if sat then t.maxCode + (if neg then t.sign else 0)
  else if t.e4m3 then t.nan
  else
    let big := match mode with
      | .ne => t.infCode
      | .sr _ => t.infCode
      | .rz => t.maxCode
      | .rp => if neg then t.maxCode else t.infCode
      | .rm => if neg then t.infCode else t.maxCode
    big + (if neg then t.sign else 0)

/-- RoundFP of R231 with R232; the flag says the result overflowed. -/
def roundFP (t : Fmt) (mode : Rm) (sat neg : Bool) (p q : Nat) : Nat × Bool :=
  let c := roundMag t mode neg p q
  if c > t.maxCode then (overflowCode t mode sat neg, true)
  else (c + (if neg then t.sign else 0), false)

/-! ### Arithmetic of floating-point words (R249-R251, R349-R353) -/

/-- What a numeric-behaviour version changes for one format (R250): flushing and the NaN result. -/
structure NumRules where
  flush : Bool
  nan   : Nat
  n     : Nat
  deriving DecidableEq, Repr

/-- The rules of version n for format t (R250): N1 and N2 flush and return a NaN with every fraction bit set. -/
def rulesOf (n : Nat) (t : Fmt) : NumRules :=
  { flush := decide (n ≤ 2), nan := if n ≤ 2 then t.infCode + (2 ^ t.f - 1) else t.nan, n := n }

/-- Rules of N4, which words outside R249's list follow under every version. -/
def n4 (t : Fmt) : NumRules := { flush := false, nan := t.nan, n := 4 }

/-- An operand, flushed where the version flushes (R251). -/
def readOp (t : Fmt) (k : NumRules) (x : Nat) : FVal :=
  match fDecode t x with
  | .fin neg p q => if k.flush && bits x t.f t.e == 0 then .fin neg 0 1 else .fin neg p q
  | v => v

/-- A result, flushed where the version flushes (R251). -/
def flushCode (t : Fmt) (k : NumRules) (c : Nat) : Nat :=
  if k.flush && bits c t.f t.e == 0 then (if bit c (t.e + t.f) then t.sign else 0) else c

def signed (t : Fmt) (neg : Bool) (c : Nat) : Nat := c + (if neg then t.sign else 0)

/-- Round and flush a finite result of a floating-point word. -/
def finish (t : Fmt) (k : NumRules) (mode : Rm) (neg : Bool) (p q : Nat) : Nat :=
  flushCode t k (roundFP t mode false neg p q).1

/-- The exact sum of two finite values, as sign and magnitude; the sign of an exact zero follows IEEE 754 (R349). -/
def addFin (mode : Rm) (na : Bool) (pa qa : Nat) (nb : Bool) (pb qb : Nat) : Bool × Nat × Nat :=
  let x := pa * qb
  let y := pb * qa
  let q := qa * qb
  if na == nb then (na, x + y, q)
  else if x > y then (na, x - y, q)
  else if y > x then (nb, y - x, q)
  else ((match mode with | .rm => true | _ => false), 0, q)

/-- The exact sum of two values; NaN for infinities of opposite signs. -/
def sumExact (mode : Rm) (a b : FVal) : FVal :=
  match a, b with
  | .nan, _ => .nan
  | _, .nan => .nan
  | .inf na, .inf nb => if na == nb then .inf na else .nan
  | .inf na, .fin _ _ _ => .inf na
  | .fin _ _ _, .inf nb => .inf nb
  | .fin na pa qa, .fin nb pb qb =>
    let (n, p, q) := addFin mode na pa qa nb pb qb
    .fin n p q

def negVal : FVal → FVal
  | .nan => .nan
  | .inf n => .inf (!n)
  | .fin n p q => .fin (!n) p q

/-- The exact product of two values; NaN for zero times infinity. -/
def mulExact (a b : FVal) : FVal :=
  match a, b with
  | .nan, _ => .nan
  | _, .nan => .nan
  | .inf na, .inf nb => .inf (na != nb)
  | .inf na, .fin nb p _ => if p = 0 then .nan else .inf (na != nb)
  | .fin na p _, .inf nb => if p = 0 then .nan else .inf (na != nb)
  | .fin na pa qa, .fin nb pb qb => .fin (na != nb) (pa * pb) (qa * qb)

/-- A value encoded in a format, rounded once. -/
def encVal (t : Fmt) (k : NumRules) (mode : Rm) (v : FVal) : Nat :=
  match v with
  | .nan => k.nan
  | .inf n => signed t n t.infCode
  | .fin n p q => finish t k mode n p q

def addVal (t : Fmt) (k : NumRules) (mode : Rm) (a b : FVal) : Nat := encVal t k mode (sumExact mode a b)

/-- An exact zero of an instruction that states no sign for it is +0 (R231). -/
def plusZero : FVal → FVal
  | .fin n p q => .fin (n && p != 0) p q
  | v => v

/-- FADD, FSUB, FMUL, FFMA and their FP64 forms (R349, R354). -/
def fAdd (t : Fmt) (k : NumRules) (mode : Rm) (a b : Nat) : Nat := addVal t k mode (readOp t k a) (readOp t k b)
def fSub (t : Fmt) (k : NumRules) (mode : Rm) (a b : Nat) : Nat := addVal t k mode (readOp t k a) (negVal (readOp t k b))
def fMul (t : Fmt) (k : NumRules) (mode : Rm) (a b : Nat) : Nat :=
  encVal t k mode (mulExact (readOp t k a) (readOp t k b))
def fFma (t : Fmt) (k : NumRules) (mode : Rm) (a b c : Nat) : Nat :=
  let p := mulExact (readOp t k a) (readOp t k b)
  let p := if k.n = 1 then readOp t k (encVal t k mode p) else p
  addVal t k mode p (readOp t k c)

/-- The signed comparison of two values that are not NaN: a < b. -/
def fLt (a b : FVal) : Bool :=
  match a, b with
  | .inf na, .inf nb => na && !nb
  | .inf na, .fin _ _ _ => na
  | .fin _ _ _, .inf nb => !nb
  | .fin na pa qa, .fin nb pb qb =>
    let x : Int := if na then -((pa * qb : Nat) : Int) else (pa * qb : Nat)
    let y : Int := if nb then -((pb * qa : Nat) : Int) else (pb * qa : Nat)
    decide (x < y)
  | _, _ => false

def fEq (a b : FVal) : Bool :=
  match a, b with
  | .nan, _ => false
  | _, .nan => false
  | a, b => !fLt a b && !fLt b a

/-- The code an operand of FMIN or FMAX returns: flushed, unrounded (R350). -/
def opCode (t : Fmt) (k : NumRules) (x : Nat) : Nat := flushCode t k x

/-- FMIN (`mx` false) and FMAX (R350, and the rows of R250). -/
def fMinMax (t : Fmt) (k : NumRules) (mx : Bool) (a b : Nat) : Nat :=
  let va := readOp t k a
  let vb := readOp t k b
  match va, vb with
  | .nan, .nan => k.nan
  | .nan, _ => opCode t k b
  | _, .nan => if k.n = 1 then k.nan else opCode t k a
  | _, _ =>
    if fLt va vb then (if mx then opCode t k b else opCode t k a)
    else if fLt vb va then (if mx then opCode t k a else opCode t k b)
    else if k.n ≤ 3 then opCode t k a
    else if mx then (if bit a (t.e + t.f) then opCode t k b else opCode t k a)
    else (if bit a (t.e + t.f) then opCode t k a else opCode t k b)

/-- FCMP's outcome (R351), conditions in FUNC order. -/
def fCmp (t : Fmt) (k : NumRules) (cc : Nat) (a b : Nat) : Bool :=
  let va := readOp t k a
  let vb := readOp t k b
  let un := va == .nan || vb == .nan
  match cc with
  | 0 => fEq va vb
  | 1 => !fEq va vb
  | 2 => !un && fLt va vb
  | 3 => !un && !fLt vb va
  | 4 => !un && fLt vb va
  | 5 => !un && !fLt va vb
  | 6 => un
  | _ => !un

/-! ### Elementary functions -/

/-- Binary digits carried for an irrational value. -/
def prec : Nat := 384

/-- floor(√n), by bits from the top. -/
def isqrt (n : Nat) : Nat :=
  (List.range (Nat.log2 n / 2 + 1)).foldr (fun j r => let c := r + 2 ^ j; if c * c ≤ n then c else r) 0

/-- Fixed-point Taylor sum Σ term_j with term_{j+1} = term_j × x / (j+1), scaled by 2^prec. -/
def expLoop : Nat → Nat → Nat → Nat → Nat → Nat
  | 0, _, _, _, acc => acc
  | k + 1, j, x, term, acc =>
    let term' := term * x / 2 ^ prec / (j + 1)
    expLoop k (j + 1) x term' (acc + term')

/-- atanh-like sum Σ z^(2j+1) / (2j+1), scaled by 2^prec; alternating for arctangent. -/
def atanLoop (alt : Bool) : Nat → Nat → Int → Int → Int → Int
  | 0, _, _, _, acc => acc
  | k + 1, j, z2, pow, acc =>
    let t := pow / (2 * j + 1 : Nat)
    let acc' := if alt && j % 2 == 1 then acc - t else acc + t
    atanLoop alt k (j + 1) z2 (pow * z2 / (2 : Int) ^ prec) acc'

/-- ln 2 and π, scaled by 2^prec. -/
def ln2Fix : Nat := (2 * atanLoop false 250 0 ((2 : Int) ^ prec / 9) ((2 : Int) ^ prec / 3) 0).toNat
/-- 4 × (4 arctan(1/5) − arctan(1/239)). -/
def piFix : Nat :=
  (16 * atanLoop true 180 0 ((2 : Int) ^ prec / 25) ((2 : Int) ^ prec / 5) 0 -
    4 * atanLoop true 60 0 ((2 : Int) ^ prec / 57121) ((2 : Int) ^ prec / 239) 0).toNat

/-- 2^(a / 2^b) for a < 2^b, scaled by 2^prec. -/
def exp2Frac (a b : Nat) : Nat :=
  let x := a * ln2Fix / 2 ^ b
  expLoop 120 0 x (2 ^ prec) (2 ^ prec)

/-- log2 of m / 2^k for 1 ≤ m / 2^k < 2, scaled by 2^prec: 2 atanh((m − 1) / (m + 1)) / ln 2. -/
def log2Frac (m k : Nat) : Nat :=
  let z : Int := ((m : Int) - 2 ^ k) * 2 ^ prec / ((m : Int) + 2 ^ k)
  (2 * atanLoop false 250 0 (z * z / (2 : Int) ^ prec) z 0 * (2 : Int) ^ prec / (ln2Fix : Int)).toNat

/-- The table entry T[i] of R235. -/
def tEntry (i : Nat) : Nat :=
  if i = 0 then 2 ^ 31 else roundInt .ne false (exp2Frac i 10 * 2 ^ 31) (2 ^ prec)

/-- The magnitude p / q × 2^(σ / 1024), exact for whole powers and with a sticky digit otherwise (R228). -/
def scaleMag (p q : Nat) (σ : Int) : Nat × Nat :=
  let i := σ / 1024
  let f := (σ % 1024).toNat
  let (p1, q1) := if f = 0 then (p, q) else (p * (2 * exp2Frac f 10 + 1), q * 2 ^ (prec + 1))
  if 0 ≤ i then (p1 * 2 ^ i.toNat, q1) else (p1, q1 * 2 ^ (-i).toNat)

/-- Trunc_P of R352: toward zero to P significant bits. -/
def truncP (n : Nat) (p q : Nat) : Nat × Nat :=
  if p = 0 then (0, 1)
  else
    let g : Int := ilog p q - (n : Int) + 1
    if 0 ≤ g then (p / (q * 2 ^ g.toNat) * 2 ^ g.toNat, 1) else (p * 2 ^ (-g).toNat / q, 2 ^ (-g).toNat)

/-- The single-operand functions of R352, in FUNC order FRCP to FCOS. -/
inductive Fn | rcp | rsq | sqrt | exp2 | log2 | sin | cos
  deriving DecidableEq, Repr

/-- An exact result, or one with its exactness flag: sign, p / q. -/
inductive FnRes
  | special (v : FVal)
  | val (neg : Bool) (p q : Nat) (exact_ : Bool)
  deriving DecidableEq, Repr

/-- √(p / q): floor to prec digits below its leading bit, with a sticky digit when inexact. -/
def sqrtMag (p q : Nat) : Nat × Nat × Bool :=
  let n := p * 4 ^ (prec + 200) / q
  let r := isqrt n
  let ex := decide (r * r * q = p * 4 ^ (prec + 200))
  if ex then (r, 2 ^ (prec + 200), true) else (2 * r + 1, 2 ^ (prec + 201), false)

/-- Taylor sum of sin or cos of x / 2^prec, by term recursion with alternating sign. -/
def trigLoop : Nat → Nat → Int → Int → Int → Int
  | 0, _, _, _, acc => acc
  | k + 1, j, x2, term, acc =>
    let term' := -(term * x2 / (2 : Int) ^ prec) / ((j + 1) * (j + 2) : Nat)
    trigLoop k (j + 2) x2 term' (acc + term')

/-- sin (`c` false) or cos of a magnitude p / q, q a power of two, as sign and fixed point (R352). The argument is
reduced by multiples of π / 2 with π to prec digits below the argument's own scale. -/
def sinCos (c : Bool) (p q : Nat) : Bool × Nat :=
  let half := piFix / 2
  let x := p * 2 ^ prec / q
  let k := x / half
  let r : Int := x - k * half
  let quad := (k + (if c then 1 else 0)) % 4
  let v := if quad % 2 = 0 then trigLoop 70 1 (r * r / (2 : Int) ^ prec) r r
           else trigLoop 70 0 (r * r / (2 : Int) ^ prec) ((2 : Int) ^ prec) ((2 : Int) ^ prec)
  let v := if quad ≥ 2 then -v else v
  (decide (v < 0), v.natAbs)

/-- The exact function and its special operands (R352). -/
def fnEval (f : Fn) (v : FVal) : FnRes :=
  match f, v with
  | _, .nan => .special .nan
  | .rcp, .inf n => .special (.fin n 0 1)
  | .rcp, .fin n p q => if p = 0 then .special (.inf n) else .val n q p true
  | .rsq, .inf n => if n then .special .nan else .special (.fin false 0 1)
  | .rsq, .fin n p q =>
    if p = 0 then .special (.inf n) else if n then .special .nan
    else let (a, b, e) := sqrtMag q p; .val false a b e
  | .sqrt, .inf n => if n then .special .nan else .special (.inf false)
  | .sqrt, .fin n p q =>
    if p = 0 then .special (.fin n 0 1) else if n then .special .nan
    else let (a, b, e) := sqrtMag p q; .val false a b e
  | .exp2, .inf n => if n then .special (.fin false 0 1) else .special (.inf false)
  | .exp2, .fin n p q =>
    let i : Int := if n then -((p + q - 1) / q : Nat) else ((p / q : Nat) : Int)
    let fnum : Nat := if n then (q - p % q) % q else p % q
    let i' : Int := max (-5000) (min 5000 i)
    if fnum = 0 then (let (a, b) := dyad 1 i'; .val false a b true)
    else
      let m := exp2Frac fnum (Nat.log2 q)
      let (a, b) := dyad (2 * m + 1) (i' - ((prec + 1 : Nat) : Int)); .val false a b false
  | .log2, .inf n => if n then .special .nan else .special (.inf false)
  | .log2, .fin n p q =>
    if p = 0 then .special (.inf true) else if n then .special .nan
    else
      let e := ilog p q
      let k := Nat.log2 p
      if 2 ^ k = p then .val (decide (e < 0)) e.natAbs 1 true
      else
        let y : Int := e * (2 : Int) ^ (prec + 1) + 2 * (log2Frac p k : Int) + 1
        .val (decide (y < 0)) y.natAbs (2 ^ (prec + 1)) false
  | .sin, .inf _ => .special .nan
  | .sin, .fin n p q =>
    if p = 0 then .special (.fin n 0 1)
    else let (s, m) := sinCos false p q; .val (s != n) (2 * m + 1) (2 ^ (prec + 1)) false
  | .cos, .inf _ => .special .nan
  | .cos, .fin _ p q =>
    if p = 0 then .val false 1 1 true
    else let (s, m) := sinCos true p q; .val s (2 * m + 1) (2 ^ (prec + 1)) false

/-- The rules of FRCP to FCOS: N3 flushes FP32 (R250, R352). -/
def fnRules (n : Nat) (t : Fmt) : NumRules :=
  let k := rulesOf n t
  if n = 3 ∧ t = fp32 then { k with flush := true } else k

/-- A single-operand function under version n (R352). -/
def fFn (f : Fn) (n : Nat) (t : Fmt) (x : Nat) : Nat :=
  let k := fnRules n t
  let v := readOp t k x
  let tooBig := match f, v with
    | .sin, .fin _ p q => decide (n = 1 ∧ q * 2 ^ 16 ≤ p)
    | .cos, .fin _ p q => decide (n = 1 ∧ q * 2 ^ 16 ≤ p)
    | _, _ => false
  if tooBig then k.nan
  else match fnEval f v with
    | .special v => encVal t k .ne v
    | .val neg p q ex =>
      if n ≥ 4 ∨ (ex ∧ roundMag t .rz neg p q = roundMag t .rp false p q) then finish t k .ne neg p q
      else
        let (p', q') := truncP (match n with | 1 => 18 | 2 => 20 | _ => 22) p q
        finish t k .ne neg p' q'

/-- FFRC (R353). -/
def fFrc (n : Nat) (t : Fmt) (x : Nat) : Nat :=
  let k := rulesOf n t
  match readOp t k x with
  | .nan => k.nan
  | .inf _ => k.nan
  | .fin neg p q =>
    let r := if neg then (q - p % q) % q else p % q
    finish t k .rz false r q

/-- FRND (R353). -/
def fRnd (n : Nat) (t : Fmt) (mode : Rm) (x : Nat) : Nat :=
  let k := rulesOf n t
  match readOp t k x with
  | .nan => k.nan
  | .inf neg => signed t neg t.infCode
  | .fin neg p q => finish t k .rz neg (roundInt mode neg p q) 1

/-- TwoSumStep of R252 on a pair (s, e) and an addend. -/
def twoSum (t : Fmt) (s e x : Nat) : Nat × Nat :=
  let k := n4 t
  let r := fAdd t k .ne s x
  match fDecode t r with
  | .fin _ _ _ =>
    let bp := fSub t k .ne r s
    let d := fAdd t k .ne (fSub t k .ne s (fSub t k .ne r bp)) (fSub t k .ne x bp)
    (r, fAdd t k .ne e d)
  | _ => (r, e)

/-! ### Logarithmic formats (R227, R244-R246) -/

/-- An LG format: width and fraction bits. -/
structure LgFmt where
  w : Nat
  n : Nat
  deriving DecidableEq, Repr

def lg6 : LgFmt := ⟨6, 2⟩
def lg8 : LgFmt := ⟨8, 4⟩
def lg12 : LgFmt := ⟨12, 7⟩
def lg16 : LgFmt := ⟨16, 10⟩

def LgFmt.zero (t : LgFmt) : Nat := 2 ^ (t.w - 2)
def LgFmt.nar (t : LgFmt) : Nat := 2 ^ (t.w - 1) + 2 ^ (t.w - 2)
def LgFmt.qmax (t : LgFmt) : Int := 2 ^ (t.w - 2) - 1
/-- The code of a sign and a field value. -/
def LgFmt.code (t : LgFmt) (neg : Bool) (q : Int) : Nat := (if neg then 2 ^ (t.w - 1) else 0) + wrapN (t.w - 1) q

/-- LGDecode of R227: zero, NaR, or sign and field. -/
inductive LVal | zero | nar | val (neg : Bool) (q : Int)
  deriving DecidableEq, Repr

def lgDecode (t : LgFmt) (c : Nat) : LVal :=
  let s := bit c (t.w - 1)
  let q := sext (t.w - 1) c
  if q = -(2 : Int) ^ (t.w - 2) then (if s then .nar else .zero) else .val s q

/-- The largest integer q with q / 2^n ≤ log2(x × 2^(−σ/1024)) × 2^... : floor(L) of R244 for x = p / q, σ in units of
2^-10, found by comparing 1024th powers; with the second component telling whether L is an integer. -/
def floorLog (n p q : Nat) (σ : Int) : Int × Bool :=
  -- (p/q)^1024 against 2^t, t in units of 1/1024
  let ge (t : Int) : Bool :=
    if 0 ≤ t then decide (q ^ 1024 * 2 ^ t.toNat ≤ p ^ 1024) else decide (q ^ 1024 ≤ p ^ 1024 * 2 ^ (-t).toNat)
  let eq (t : Int) : Bool :=
    if 0 ≤ t then decide (q ^ 1024 * 2 ^ t.toNat = p ^ 1024) else decide (q ^ 1024 = p ^ 1024 * 2 ^ (-t).toNat)
  let step : Int := 2 ^ (10 - n)
  let lo : Int := (ilog p q * 1024 - σ) / step - 1
  let r := (List.range (n + 3)).foldr (fun j (a : Int) => if ge ((a + 2 ^ j) * step + σ) then a + 2 ^ j else a) lo
  (r, eq (r * step + σ))

/-- LinToLog of R244: the code, LG_UNF and LG_OVF. x = ± p / q (q a power of two), divided by 2^(σ/1024). -/
def linToLog (t : LgFmt) (mode : Rm) (neg : Bool) (p q : Nat) (σ : Int) : Nat × Bool × Bool :=
  let (fl, ex) := floorLog t.n p q σ
  let half : Bool × Bool :=    -- L above, or exactly at, fl + 1/2
    let t2 : Int := (2 * fl + 1) * 2 ^ (10 - t.n) + 2 * σ   -- in units of 1/2048
    let a := p ^ 2048
    let b := q ^ 2048
    if 0 ≤ t2 then (decide (b * 2 ^ t2.toNat < a), decide (b * 2 ^ t2.toNat = a))
    else (decide (b < a * 2 ^ (-t2).toNat), decide (b = a * 2 ^ (-t2).toNat))
  let v : Int := match mode with
    | .ne => if half.1 then fl + 1 else if half.2 then (if fl % 2 = 0 then fl else fl + 1) else fl
    | .rz => fl
    | .rp => if neg || ex then fl else fl + 1
    | .rm => if neg && !ex then fl + 1 else fl
    | .sr rnd =>
      if ex then fl
      else
        let k := Nat.log2 p
        let num : Int :=    -- L × 2^(prec), scaled
          (ilog p q * (2 : Int) ^ prec + (if 2 ^ k = p then 0 else (log2Frac p k : Int)) - σ * (2 : Int) ^ prec / 1024) * 2 ^ t.n
        let fr := (num - fl * (2 : Int) ^ prec).toNat
        if roundsUp (.sr rnd) false 0 (if 2 ^ k = p then fr else fr + 1) (2 ^ prec) then fl + 1 else fl
  if v > t.qmax then (t.code neg t.qmax, false, true)
  else if v ≤ -(2 : Int) ^ (t.w - 2) then (t.zero, true, false)
  else (t.code neg v, false, false)

/-- The magnitude of an LG field, 2^(q / 2^n + σ / 1024), as a fraction. -/
def lgMag (t : LgFmt) (q : Int) (σ : Int) : Nat × Nat := scaleMag 1 1 (q * 2 ^ (10 - t.n) + σ)

/-! ### Element formats of a slot (R95, R229) -/

/-- The formats of ELEM. -/
inductive Elem
  | flt (t : Fmt)
  | int (w : Nat)
  | lg (t : LgFmt)
  deriving DecidableEq, Repr

/-- ELEM codes (R95): none where reserved. -/
def elemOf (n : Nat) : Option Elem :=
  match n with
  | 0 => some (.flt fp32) | 1 => some (.flt fp16) | 2 => some (.flt bf16) | 3 => some (.flt e4m3)
  | 4 => some (.flt e5m2) | 5 => some (.int 4) | 6 => some (.int 8) | 7 => some (.lg lg6) | 8 => some (.lg lg8)
  | 9 => some (.lg lg12) | 10 => some (.lg lg16) | 11 => some (.int 32)
  | _ => none

def Elem.width : Elem → Nat
  | .flt t => t.width
  | .int w => w
  | .lg t => t.w

/-- Fields of a slot word (R95). -/
def slotElem (s : DWord) : Nat := bits s.toNat 28 4
def slotBlock (s : DWord) : Nat := bits s.toNat 24 4
def slotScale (s : DWord) : Nat := bits s.toNat 22 2
def slotRound (s : DWord) : Nat := bits s.toNat 20 2
def slotSat (s : DWord) : Bool := bit s.toNat 19

/-- NSTAT bits (R248). -/
def nLgOvf : Nat := 1
def nLgUnf : Nat := 2
def nAccSat : Nat := 4
def nAccNar : Nat := 8
def nLinOvf : Nat := 16
def nNanIn : Nat := 32

/-- A linear source element (R234): floating point or integer. -/
def linDecode (e : Elem) (x : Nat) : FVal :=
  match e with
  | .flt t => fDecode t x
  | .int w => let v := sext w x; .fin (decide (v < 0)) v.natAbs 1
  | .lg _ => .nan

/-- An integer result, rounded and saturated (R234): code and whether it saturated. -/
def intEncode (w : Nat) (mode : Rm) (neg : Bool) (p q : Nat) : Nat × Bool :=
  let m := roundInt mode neg p q
  let v : Int := if neg then -(m : Int) else m
  let hi : Int := 2 ^ (w - 1) - 1
  let lo : Int := -(2 : Int) ^ (w - 1)
  if v > hi then (wrapN w hi, true) else if v < lo then (wrapN w lo, true) else (wrapN w v, false)

/-- The overflow result for an infinite source (R232, R234) and its NSTAT bits. -/
def infEncode (e : Elem) (mode : Rm) (sat neg : Bool) : Nat × Nat :=
  match e with
  | .flt t =>
    let c := overflowCode t mode sat neg
    (c, if c = signed t neg t.infCode ∧ ¬ t.e4m3 then 0 else nLinOvf)
  | .int w => ((if neg then 2 ^ (w - 1) else 2 ^ (w - 1) - 1), nLinOvf)
  | .lg t => (t.code neg t.qmax, nLgOvf)

/-- CVT of one element (R234), source scale σs, destination scale σd: code and NSTAT bits. -/
def cvtLin (src dst : Elem) (mode : Rm) (sat : Bool) (σs σd : Int) (x : Nat) : Nat × Nat :=
  match linDecode src x with
  | .nan => (match dst with | .flt t => (t.nan, nNanIn) | _ => (0, nNanIn))
  | .inf neg => infEncode dst mode sat neg
  | .fin neg p q =>
    match dst with
    | .flt t =>
      if p = 0 then (signed t neg 0, 0)
      else
        let (p, q) := scaleMag p q (σs - σd)
        let (c, o) := roundFP t mode sat neg p q
        (c, if o then nLinOvf else 0)
    | .int w =>
      let (p, q) := if p = 0 then (0, 1) else scaleMag p q (σs - σd)
      let (c, o) := intEncode w mode neg p q
      (c, if o then nLinOvf else 0)
    | .lg _ => (0, 0)

/-- CVTLG of one element (R245). -/
def cvtLg (src : Elem) (dst : LgFmt) (mode : Rm) (σs σd : Int) (x : Nat) : Nat × Nat :=
  match linDecode src x with
  | .nan => (dst.nar, nNanIn)
  | .inf neg => (dst.code neg dst.qmax, nLgOvf)
  | .fin neg p q =>
    if p = 0 then (dst.zero, 0)
    else
      let (c, u, o) := linToLog dst mode neg p q (σd - σs)
      (c, (if u then nLgUnf else 0) + (if o then nLgOvf else 0))

/-- CVTLN of one element (R246). -/
def cvtLn (src : LgFmt) (dst : Elem) (mode : Rm) (sat : Bool) (σs σd : Int) (x : Nat) : Nat × Nat :=
  match lgDecode src x with
  | .zero => (0, 0)
  | .nar => (match dst with | .flt t => (t.nan, nNanIn) | _ => (0, nNanIn))
  | .val neg q =>
    let (p, d) := lgMag src q (σs - σd)
    match dst with
    | .flt t => let (c, o) := roundFP t mode sat neg p d; (c, if o then nLinOvf else 0)
    | .int w => let (c, o) := intEncode w mode neg p d; (c, if o then nLinOvf else 0)
    | .lg _ => (0, 0)

/-! ### The logarithmic product and the accumulator (R236-R243) -/

/-- Product of R236: contribution, sat, nar. -/
def product (ea eb : Elem) (a b : Nat) (σa σb : Int) (anchor : Int) : Int × Bool × Bool :=
  let core (m : Nat) (neg : Bool) (sv : Int) : Int × Bool × Bool :=
    let i := sv / 1024
    let f := (sv % 1024).toNat
    let k := i + 33 - anchor
    let tm := m * tEntry f
    let g := if 0 ≤ k then tm * 2 ^ (min k.toNat 200) else roundInt .ne false tm (2 ^ (-k).toNat)
    if g ≥ 2 ^ 95 then ((if neg then -1 else 1) * (2 : Int) ^ 95, true, false)
    else ((if neg then -(g : Int) else g), false, false)
  match ea, eb with
  | .lg ta, .lg tb =>
    (match lgDecode ta a, lgDecode tb b with
    | .nar, _ => (0, false, true)
    | _, .nar => (0, false, true)
    | .zero, _ => (0, false, false)
    | _, .zero => (0, false, false)
    | .val na qa, .val nb qb => core 1 (na != nb) (qa * 2 ^ (10 - ta.n) + qb * 2 ^ (10 - tb.n) + σa + σb))
  | .int wa, .int wb =>
    let p := sext wa a * sext wb b
    if p = 0 then (0, false, false) else core p.natAbs (decide (p < 0)) (σa + σb)
  | _, _ => (0, false, false)

/-- AccValue of R241: NaR, OVER of a sign, or the exact sum on the grid. -/
inductive AccV | nar | over (neg : Bool) | val (neg : Bool) (p q : Nat)
  deriving DecidableEq, Repr

def accValue (sum : BitVec 128) (sat nar : Bool) (anchor : Int) : AccV :=
  let v := sum.toInt
  if nar then .nar
  else if sat || decide (v < -(2 : Int) ^ 95) || decide (v ≥ (2 : Int) ^ 95) then .over (decide (v < 0))
  else let (p, q) := dyad v.natAbs (anchor - 64); .val (decide (v < 0)) p q

/-- A drain of one element (R242, R243), σ = 0: code and NSTAT bits. -/
def drainElem (e : Elem) (mode : Rm) (sat : Bool) (v : AccV) : Nat × Nat :=
  match v, e with
  | .nar, .flt t => (t.nan, nAccNar)
  | .nar, .lg t => (t.nar, nAccNar)
  | .nar, .int _ => (0, nAccNar)
  | .over neg, .flt t => (overflowCode t mode sat neg, nAccSat)
  | .over neg, .lg t => (t.code neg t.qmax, nAccSat + nLgOvf)
  | .over _, .int _ => (0, nAccSat)
  | .val neg p q, .flt t =>
    if p = 0 then (0, 0) else let (c, o) := roundFP t mode sat neg p q; (c, if o then nLinOvf else 0)
  | .val neg p q, .lg t =>
    if p = 0 then (t.zero, 0)
    else let (c, u, o) := linToLog t mode neg p q 0; (c, (if u then nLgUnf else 0) + (if o then nLgOvf else 0))
  | .val _ _ _, .int _ => (0, 0)

end Sys2Proof.Machine
end

