-- ==== Sys2Proof/Config.lean ====
section
/-!
DEFINITION. What the spec leaves to the machine: free values, which no proof can see, and the figures of one
shipped module. A statement that rests on no particular free value holds for every one.
-/

namespace Sys2Proof.Config

/-- One free bit where the spec permits either of two outcomes (R44, R293, R385, R401): indexed by the state's
counter and by a place within the step. DESIGN CHOICE, log 6, safe. -/
opaque freeBit : Nat → Nat → Bool

/-- One free number where the spec states no value: indexed likewise. DESIGN CHOICE, log 6, safe. -/
opaque freeNat : Nat → Nat → Nat

/-- What the module derives from the fused secret, and what the firmware draws for a boot, as private keys, seeds and
identifiers (R83): indexed by the secret or the boot counter and by a place. DESIGN CHOICE, log 33, safe. -/
opaque keyNat : Nat → Nat → Nat

/-- The bytes a video engine encodes for a frame, from the session word, key-frame flag, target bits and surface
bytes; the codecs are outside the spec (R86). -/
opaque videoEncode : Nat → Bool → Nat → List Byte → List Byte

/-- The translation of a Neleel N1-N3 code object into drift words and the word offset of each byte offset's entry,
or the byte offset that cannot be decoded; the object formats are outside the spec (R107). -/
opaque legacyTranslate : Nat → List Byte → Sum Nat (List DWord × List (Nat × Nat))

/-- The L2 slices of a foundation die (R74 states no number). DESIGN CHOICE, log 18, safe. -/
opaque l2Slices : Nat

/-- The ACLK operating point after a module reset, in units of 50 MHz (R31 states none).
DESIGN CHOICE, log 4, unsafe. -/
def resetPoint : Nat := 16

end Sys2Proof.Config
end

