-- ==== Sys2Proof/Syntax.lean ====
section
/-!
DEFINITION. The instructions: one constructor for each row of spec/opcode_table.json. A row is an event of the module
(a host access, a timer, a scheduler or unit step; R40-R456), a 64-bit word of a wave or matrix sequencer (R297), or a
32-bit moraine word (R448). Words carry their fields as R280 and R447 lay them out; operand codes stay 9-bit codes
(R281, R286), because the same code names different things in a wave and in a sequencer.
-/

namespace Sys2Proof

/-- The fields of a word in format V, and of the formats that keep its places (M, S, T, X, Q; R280). -/
structure VWord where
  stall : BitVec 3
  token : BitVec 3
  d     : BitVec 9
  a     : BitVec 9
  b     : BitVec 9
  c     : BitVec 9
  msel  : BitVec 4
  reuse : Bool
  mod   : BitVec 4
  deriving DecidableEq, Repr

/-- The fields of a word in format L (R280). -/
structure LWord where
  stall : BitVec 3
  token : BitVec 3
  d     : BitVec 9
  imm   : BitVec 32
  deriving DecidableEq, Repr

/-- The fields of a word in format C (R280): a branch. -/
structure CWord where
  stall : BitVec 3
  token : BitVec 3
  d     : BitVec 9
  off   : BitVec 24
  msel  : BitVec 4
  deriving DecidableEq, Repr

/-- Moraine format R (R447). -/
structure MR where
  d    : BitVec 5
  a    : BitVec 5
  b    : BitVec 5
  pred : BitVec 3
  t    : BitVec 3
  f    : BitVec 5
  deriving DecidableEq, Repr

/-- Moraine format I (R447). -/
structure MI where
  d   : BitVec 5
  a   : BitVec 5
  imm : BitVec 16
  deriving DecidableEq, Repr

/-- Moraine format H (R447). -/
structure MH where
  d   : BitVec 5
  sh  : BitVec 2
  z   : Bool
  imm : BitVec 16
  deriving DecidableEq, Repr

/-- Moraine format J (R447). -/
structure MJ where
  test : BitVec 5
  off  : BitVec 21
  deriving DecidableEq, Repr

/-- The compare conditions of ICMP (R345). -/
inductive Cmp | eq | ne | lt | le | gt | ge
  deriving DecidableEq, Repr

/-- The compare conditions of FCMP (R348). -/
inductive FCmp | eq | ne | lt | le | gt | ge | un | ord
  deriving DecidableEq, Repr

/-- The compare conditions of SCMP (R409). -/
inductive SCmp | eq | ne | lt | ge
  deriving DecidableEq, Repr

/-- The operators of REDX and SCANX (R358). -/
inductive XOp | add | min | max | and | or | xor | fadd | fmin | fmax
  deriving DecidableEq, Repr

/-- Access sizes .B .H .W .D .Q (R368). -/
inductive Size | b | h | w | d | q
  deriving DecidableEq, Repr

/-- ATOM operators (R374); .U is part of the operator. -/
inductive AtomOp | add | min | max | and | or | xor | xchg | cas | minu | maxu
  deriving DecidableEq, Repr

/-- ATOM ordering suffixes (R374). -/
inductive Ord4 | none | acq | rel | acqrel
  deriving DecidableEq, Repr

/-- RED operators (R376). -/
inductive RedOp | add | min | max | and | or | xor | fadd | minu | maxu
  deriving DecidableEq, Repr

/-- A host write to BAR 0: offset, width (64 bits, or 32), value, and the Relaxed Ordering attribute (R52, R64). -/
structure HostWrite where
  off     : Nat
  wide    : Bool
  val     : BitVec 64
  relaxed : Bool
  deriving DecidableEq, Repr

/-- The units that run words: a wave (core × 48 + slot), a matrix sequencer (stack × 24 + cluster), a moraine core
(DRAM stack × 8 + core). -/
inductive Actor
  | wave (v : Nat)
  | seq (k : Nat)
  | mor (m : Nat)
  deriving DecidableEq, Repr

/-- The instructions, one constructor per row of the opcode table. -/
inductive Instr
  | dieResetFoundation (n : Nat)
  | dieResetCompute (n : Nat)
  | drainComplete (d : Nat)
  | initComplete (d : Nat)
  | linkFlitRetry (l : Nat) (exhausted : Bool)
  | linkRetrainDone (l : Nat)
  | aclkPointChange (p : Nat)
  | thermalAction (d : Nat)
  | thermalTrip (d : Nat)
  | attestationRequest (t : List Byte)
  | registerWrite (w : HostWrite)
  | apertureRead (o n : Nat)
  | apertureWrite (o : Nat) (bs : List Byte)
  | ringDoorbell (w : HostWrite)
  | clockLockAcquire (c : Nat)
  | ctxEnable (w : HostWrite)
  | ctxDisable (w : HostWrite)
  | stop (c : Nat)
  | abort (c : Nat)
  | replay (c : Nat)
  | tlbInvalidate (w : HostWrite)
  | flogRdWrite (w : HostWrite)
  | flogConfigWrite (w : HostWrite)
  | faultReport (i : Nat)
  | displayEnable (w : HostWrite)
  | displayDisable (w : HostWrite)
  | displayVblank (h : Nat)
  | displayScanoutFrame (h : Nat)
  | videoSessionEnable (w : HostWrite)
  | videoFrame (n : Nat)
  | launchRead (c : Nat)
  | graphUnload (c tag : Nat)
  | graphRetire (c tag : Nat)
  | entryFeedRecord (c tag : Nat)
  | recordArrival (i : Nat)
  | halfMap (q sk : Nat)
  | halfMappingDone (q sk : Nat)
  | halfEvictDone (q sk : Nat)
  | farSegmentMoveIn (q sk : Nat)
  | teamStart (sk : Nat)
  | batchSteal (sk q : Nat)
  | conditionalDelivery (c tag n : Nat)
  | priorityPreemption (sk : Nat)
  | teamWriteOut (t : Nat)
  | consumerResume (sk : Nat)
  | thermalMigration (t : Nat)
  | clauseSelect (g p : Nat)
  | wavePark (v : Nat)
  | waveRecall (v : Nat)
  | pageWalk (i : Nat)
  | tokenComplete (u : Actor) (i : Nat)
  | qwinEntryReady (v : Nat)
  | longOperationCommit (i : Nat)
  | waitlineWake (v l : Nat)
  | texOperation (k : Nat)
  | rasterTriangle (k : Nat)
  | traversalOperation (k : Nat)
  | sequencerProgramStart (sk : Nat)
  | matrixOpCommit (k : Nat)
  | moraineKernelStart (d : Nat)
  | moraineSpanCommit (m : Nat)
  | moraineKernelStop (m : Nat)
  | moraineKernelResume (d : Nat)
  | bra (w : CWord)
  | call (w : CWord)
  | brx (w : VWord)
  | ret (w : VWord)
  | nop (w : VWord)
  | yield (w : VWord)
  | mset (w : VWord)
  | mand (w : VWord)
  | mor (w : VWord)
  | mxor (w : VWord)
  | mnot (w : VWord)
  | mcpy (w : VWord)
  | mbal (w : VWord)
  | join (w : VWord)
  | leave (w : VWord)
  | waitm (w : VWord)
  | bar (w : VWord)
  | semsig (w : VWord)
  | semwait (w : VWord)
  | waitline (w : VWord)
  | npenter (w : VWord)
  | npleave (w : VWord)
  | qapp (w : VWord)
  | qrsv (w : VWord)
  | recld (w : VWord)
  | qpop (w : VWord)
  | postr (w : VWord)
  | exitW (w : VWord)
  | exitC (w : VWord)
  | iadd (w : VWord)
  | isub (w : VWord)
  | imul (w : VWord)
  | imulh (w : VWord)
  | imad (w : VWord)
  | imin (w : VWord)
  | imax (w : VWord)
  | iabs (w : VWord)
  | shl (w : VWord)
  | shr (w : VWord)
  | sar (w : VWord)
  | rot (w : VWord)
  | andB (w : VWord)
  | orB (w : VWord)
  | xorB (w : VWord)
  | notB (w : VWord)
  | bfe (w : VWord)
  | bfi (w : VWord)
  | popc (w : VWord)
  | clz (w : VWord)
  | brev (w : VWord)
  | icmp (cc : Cmp) (w : VWord)
  | sel (w : VWord)
  | mov (w : VWord)
  | movi (w : LWord)
  | aadd64 (w : VWord)
  | amad64 (w : VWord)
  | fadd (w : VWord)
  | fsub (w : VWord)
  | fmul (w : VWord)
  | ffma (w : VWord)
  | fmin (w : VWord)
  | fmax (w : VWord)
  | fcmp (cc : FCmp) (w : VWord)
  | frcp (w : VWord)
  | frsq (w : VWord)
  | fsqrt (w : VWord)
  | fexp2 (w : VWord)
  | flog2 (w : VWord)
  | fsin (w : VWord)
  | fcos (w : VWord)
  | ffrc (w : VWord)
  | frnd (w : VWord)
  | dadd (w : VWord)
  | dmul (w : VWord)
  | dfma (w : VWord)
  | cvt (w : VWord)
  | cvtlg (w : VWord)
  | cvtln (w : VWord)
  | shflIdx (w : VWord)
  | shflUp (w : VWord)
  | shflDown (w : VWord)
  | shflXor (w : VWord)
  | bcast (w : VWord)
  | redx (op : XOp) (w : VWord)
  | scanx (op : XOp) (w : VWord)
  | vldx (w : VWord)
  | vstx (w : VWord)
  | xset (w : VWord)
  | ld (z : Size) (w : VWord)
  | st (z : Size) (w : VWord)
  | ldl (z : Size) (w : VWord)
  | stl (z : Size) (w : VWord)
  | lda (z : Size) (w : VWord)
  | strl (z : Size) (w : VWord)
  | atom (op : AtomOp) (o : Ord4) (w : VWord)
  | red (op : RedOp) (w : VWord)
  | fredC2 (w : VWord)
  | fence (w : VWord)
  | fissue (w : VWord)
  | fwait (w : VWord)
  | falias (w : VWord)
  | fpath (w : VWord)
  | acopyGl (w : VWord)
  | acopyLg (w : VWord)
  | cwait (w : VWord)
  | cfence (w : VWord)
  | tcopy (w : VWord)
  | rlockSrc (w : VWord)
  | rlockDst (w : VWord)
  | runlock (w : VWord)
  | pref (w : VWord)
  | texSample (w : VWord)
  | texLoad (w : VWord)
  | texGather (w : VWord)
  | travResume (w : VWord)
  | tfeed (w : VWord)
  | ttake (w : VWord)
  | tld (w : VWord)
  | tst (w : VWord)
  | mma (w : VWord)
  | mzero (w : VWord)
  | mscale (w : VWord)
  | mcoopJoin (w : VWord)
  | mcoopSync (w : VWord)
  | mcoopLeave (w : VWord)
  | mdrain (w : VWord)
  | mdrainLg (w : VWord)
  | msync (w : VWord)
  | mwait (w : VWord)
  | sadd (w : VWord)
  | ssub (w : VWord)
  | smul (w : VWord)
  | sand (w : VWord)
  | sor (w : VWord)
  | sxor (w : VWord)
  | sshl (w : VWord)
  | sshr (w : VWord)
  | smov (w : VWord)
  | smovi (w : LWord)
  | scmp (cc : SCmp) (w : VWord)
  | sbrZ (w : CWord)
  | sbrNz (w : CWord)
  | sexit (w : VWord)
  | trap (w : VWord)
  | brk (w : VWord)
  | snapt (w : VWord)
  | getsr (w : VWord)
  | setsr (w : VWord)
  | vldS (w : MR)
  | vstS (w : MR)
  | vldG (w : MR)
  | vstG (w : MR)
  | kld (w : MI)
  | kst (w : MI)
  | viadd (w : MR)
  | visub (w : MR)
  | vimul (w : MR)
  | vfadd (w : MR)
  | vfmul (w : MR)
  | vfma (w : MR)
  | vcmp (w : MR)
  | vred (w : MR)
  | vcvt (w : MR)
  | vmov (w : MR)
  | vsplat (w : MR)
  | vsel (w : MR)
  | vlogic (w : MR)
  | viota (w : MR)
  | plogic (w : MR)
  | kalu (w : MR)
  | kaddi (w : MI)
  | kmovi (w : MH)
  | kget (w : MR)
  | br (w : MJ)
  | bz (w : MJ)
  | bnz (w : MJ)
  | bp (w : MJ)
  | mqapp (w : MR)
  | splitFenceReleaseDone (v i : Nat)
  | copyChunkRelease (v i k : Nat)
  | quarterThrottle (g : Nat)
  | pcieFundamentalReset
  | dieResetModule
  | quiesceComplete
  | quiesceTimeout
  | drainTimeout
  | heldExpiry
  | linkRetrainTimeout
  | aclkPointChangeDone
  | powerLimitExceeded
  | firmwareBoot
  | fwLoad
  | raiseSvn
  | abortReleaseDone
  | tlbInvalidateDone
  | snapFire
  | snapRearm
  | videoRdPoll
  | graphLoad
  | lingerExpiry
  | graphStall
  | budgetCharge
  | budgetPeriodStart
  | teamStop
  | safepointBound
  | npBound
  | firnTransferDone
  | waitlineTimeout
  | tileKeyTimeout
  | coopJoinTimeout
  | moraineYield
  | moraineExit
  deriving DecidableEq, Repr

end Sys2Proof
end

