-- ==== Sys2Proof/WellFormed.lean ====
section
/-!
DEFINITION. The checks on an instruction's own fields: reserved fields and modifier bits (reason 2 of R278) and token
fields (reason 4) of native words (R280, R289, R299 and the encoding tables of the instruction chapters), reserved
values of moraine words (R448, R449 reason 2), and the ranges of an event's unit numbers. A check that needs the
executor (the class of the clause, CVT's scale operand, a load to v255) is made at issue.
-/

namespace Sys2Proof

/-- Whether a word must, may or must not name a token (R289, R291). -/
inductive TokRule | fixed | need | opt | load
  deriving DecidableEq, Repr

/-- Which operand fields a word uses, the modifier bits R299 gives it, and its token, mask and REUSE rules. -/
structure Shape where
  d : Bool
  a : Bool
  b : Bool
  c : Bool
  mod : BitVec 4
  tok : TokRule
  only15 : Bool
  noReuse : Bool
  deriving DecidableEq, Repr

def Cmp.ordered : Cmp → Bool
  | .eq => false | .ne => false | .lt => true | .le => true | .gt => true | .ge => true

/-- .U is valid with MIN and MAX only (R358). -/
def XOp.hasUnsigned : XOp → Bool
  | .min => true | .max => true | _ => false

/-- The 16 bits [26:11] of a word: IMM16 of format S, the ports of EXIT.C (R280). -/
def VWord.imm16 (w : VWord) : Nat := w.b.toNat * 128 + w.c.toNat / 4
/-- TILE, [17:14] (R280). -/
def VWord.tile (w : VWord) : Nat := w.c.toNat / 32
/-- SLOT of a tile word, [13:11] (R280). -/
def VWord.slot (w : VWord) : Nat := w.c.toNat / 4 % 8
/-- The slot at C[17:15] (R299). -/
def VWord.slotA (w : VWord) : Nat := w.c.toNat / 64
/-- The slot at C[14:12] (R299). -/
def VWord.slotB (w : VWord) : Nat := w.c.toNat / 8 % 8
/-- The scope field MOD[3:1] of format M (R280). -/
def VWord.scope (w : VWord) : Nat := w.mod.toNat / 2
/-- MOD[0]. -/
def VWord.mod0 (w : VWord) : Bool := w.mod.getLsbD 0
/-- The number of ports of EXIT.C (R280). -/
def VWord.nPorts (w : VWord) : Nat := w.mod.toNat % 4 + 1
/-- PORT j of EXIT.C: PORT0 is [26:23] (R280). -/
def VWord.exitPort (w : VWord) (j : Nat) : Nat := w.imm16 / 2 ^ (12 - 4 * j) % 16

/-- EXIT.C: bits [10:9] zero, unused port fields zero (R280, R320). -/
def exitPortsOk (w : VWord) : Bool :=
  w.c.extractLsb' 0 2 == 0 && (List.range 4).all (fun j => decide (j < w.nPorts) || w.exitPort j == 0)

/-- CVT: C[11:9] zero, and MOD[1:0] zero without the override bit (R355). -/
def cvtFieldsOk (w : VWord) : Bool :=
  w.c.extractLsb' 0 3 == 0 && (w.mod.getLsbD 2 || w.mod == 0)

/-- ATOM: C is used by CAS only; the scope is zero without an ordering suffix and never 7 (R374). -/
def atomFieldsOk (op : AtomOp) (o : Ord4) (w : VWord) : Bool :=
  (op == .cas || w.c == 0) && (if o == .none then w.mod.extractLsb' 1 3 == 0 else w.mod.extractLsb' 1 3 != 7)

/-- TFEED and TTAKE: [10:9] zero, SLOT zero, no .DONE with .A, TILE zero with .A (R411). -/
def tileFieldsOk (w : VWord) : Bool :=
  w.c.extractLsb' 0 5 == 0 && !(w.mod.getLsbD 0 && w.mod.getLsbD 1) && (!w.mod.getLsbD 0 || w.tile == 0)

/-- Reason 4: the token field (R278, R289). A load to v255 may name 7 in an access wave (R289). -/
def tokenOk (r : TokRule) (d : BitVec 9) (t : BitVec 3) : Bool :=
  match r with
  | .fixed => t == 7
  | .need => t != 6 && t != 7
  | .opt => t != 6
  | .load => t != 6 && (t != 7 || d == 0x0FF)

/-- Reason 2: unused fields, modifier bits, mask selector and REUSE (R280, R299). -/
def fieldsOk (s : Shape) (w : VWord) : Bool :=
  (s.d || w.d == 0) && (s.a || w.a == 0) && (s.b || w.b == 0) && (s.c || w.c == 0) &&
    w.mod &&& ~~~ s.mod == 0 && (if s.only15 then w.msel == 15 else w.msel == 15 || decide (w.msel.toNat < 12)) &&
    (!s.noReuse || !w.reuse)

/-- The reason code of a word of format V's places, if a check fails; reason 2 before reason 4. -/
def vReason (s : Shape) (x : Bool) (w : VWord) : Option Nat :=
  if !(fieldsOk s w && x) then some 2 else if !tokenOk s.tok w.d w.token then some 4 else none

def lReason (w : LWord) : Option Nat := if w.token == 7 then none else some 4

def cReason (s : Bool) (q : Bool) (w : CWord) : Option Nat :=
  if !((q || w.d == 0) && (if s then w.msel == 15 else w.msel == 15 || decide (w.msel.toNat < 12))) then some 2
  else if w.token == 7 then none else some 4

/-- Moraine words: fields in range (R447, R448). `p` names which of D, A, B are p registers. -/
def mrOk (w : MR) (d a b pred : Bool) (tMax fMax : Nat) : Bool :=
  (d || w.d == 0) && (a || w.a == 0) && (b || w.b == 0) && (pred || w.pred == 0) &&
    decide (w.t.toNat ≤ tMax) && decide (w.f.toNat ≤ fMax)

/-- PLOGIC's fields: p positions hold 0-7, B zero for FROMK, TOK and POPC (R448, R454). -/
def plogicOk (w : MR) : Bool :=
  mrOk w true true true false 0 6 &&
    (if w.f.toNat ≤ 3 then decide (w.d.toNat < 8 ∧ w.a.toNat < 8 ∧ w.b.toNat < 8)
     else w.b == 0 && (if w.f == 4 then decide (w.d.toNat < 8) else decide (w.a.toNat < 8)))

/-- BP: condition 0-2 (R448); TEST [25:24] is the condition, [23:21] the predicate register. -/
def bpOk (w : MJ) : Bool := decide (w.test.toNat / 8 ≤ 2)

/-- The shape of each native word (R299 and the encoding tables of spec/10-13). -/
def Instr.shape : Instr → Shape
  | .brx _ => ⟨false, true, false, false, 0, .fixed, false, false⟩
  | .ret _ => ⟨false, false, false, false, 0, .fixed, false, false⟩
  | .nop _ => ⟨false, false, false, false, 0, .fixed, false, false⟩
  | .yield _ => ⟨false, false, false, false, 0, .fixed, false, false⟩
  | .mset _ => ⟨true, true, false, false, 0, .fixed, false, true⟩
  | .mand _ => ⟨true, true, true, false, 0, .fixed, false, true⟩
  | .mor _ => ⟨true, true, true, false, 0, .fixed, false, true⟩
  | .mxor _ => ⟨true, true, true, false, 0, .fixed, false, true⟩
  | .mnot _ => ⟨true, true, false, false, 0, .fixed, false, true⟩
  | .mcpy _ => ⟨true, true, false, false, 0, .fixed, false, true⟩
  | .mbal _ => ⟨true, true, false, false, 0, .fixed, false, true⟩
  | .join _ => ⟨true, false, false, false, 0, .fixed, false, true⟩
  | .leave _ => ⟨true, false, false, false, 0, .fixed, false, true⟩
  | .waitm _ => ⟨true, false, false, false, 0, .fixed, false, true⟩
  | .bar _ => ⟨false, true, false, false, 0, .fixed, false, false⟩
  | .semsig _ => ⟨false, true, true, false, 0, .fixed, false, false⟩
  | .semwait _ => ⟨false, true, true, false, 0, .fixed, false, false⟩
  | .waitline _ => ⟨false, true, true, false, 0, .fixed, false, false⟩
  | .npenter _ => ⟨false, false, false, false, 0, .fixed, true, false⟩
  | .npleave _ => ⟨false, false, false, false, 0, .fixed, true, false⟩
  | .qapp _ => ⟨false, true, false, false, 15, .fixed, false, false⟩
  | .qrsv _ => ⟨false, true, false, false, 15, .fixed, true, false⟩
  | .recld _ => ⟨true, true, false, true, 0, .need, false, false⟩
  | .qpop _ => ⟨true, false, false, false, 0, .fixed, false, false⟩
  | .postr _ => ⟨false, true, false, false, 0, .fixed, false, false⟩
  | .exitW _ => ⟨false, false, false, false, 0, .fixed, false, false⟩
  | .exitC _ => ⟨false, true, true, true, 3, .fixed, false, false⟩
  | .iadd _ => ⟨true, true, true, false, 2, .fixed, false, false⟩
  | .isub _ => ⟨true, true, true, false, 2, .fixed, false, false⟩
  | .imul _ => ⟨true, true, true, false, 0, .fixed, false, false⟩
  | .imulh _ => ⟨true, true, true, false, 1, .fixed, false, false⟩
  | .imad _ => ⟨true, true, true, true, 2, .fixed, false, false⟩
  | .imin _ => ⟨true, true, true, false, 1, .fixed, false, false⟩
  | .imax _ => ⟨true, true, true, false, 1, .fixed, false, false⟩
  | .iabs _ => ⟨true, true, false, false, 0, .fixed, false, false⟩
  | .shl _ => ⟨true, true, true, false, 0, .fixed, false, false⟩
  | .shr _ => ⟨true, true, true, false, 0, .fixed, false, false⟩
  | .sar _ => ⟨true, true, true, false, 0, .fixed, false, false⟩
  | .rot _ => ⟨true, true, true, false, 0, .fixed, false, false⟩
  | .andB _ => ⟨true, true, true, false, 0, .fixed, false, false⟩
  | .orB _ => ⟨true, true, true, false, 0, .fixed, false, false⟩
  | .xorB _ => ⟨true, true, true, false, 0, .fixed, false, false⟩
  | .notB _ => ⟨true, true, false, false, 0, .fixed, false, false⟩
  | .bfe _ => ⟨true, true, true, true, 1, .fixed, false, false⟩
  | .bfi _ => ⟨true, true, true, true, 0, .fixed, false, false⟩
  | .popc _ => ⟨true, true, false, false, 0, .fixed, false, false⟩
  | .clz _ => ⟨true, true, false, false, 0, .fixed, false, false⟩
  | .brev _ => ⟨true, true, false, false, 0, .fixed, false, false⟩
  | .icmp _ _ => ⟨true, true, true, false, 1, .fixed, false, false⟩
  | .sel _ => ⟨true, true, true, true, 0, .fixed, false, false⟩
  | .mov _ => ⟨true, true, false, false, 0, .fixed, false, false⟩
  | .aadd64 _ => ⟨true, true, true, false, 0, .fixed, false, false⟩
  | .amad64 _ => ⟨true, true, true, true, 0, .fixed, false, false⟩
  | .fadd _ => ⟨true, true, true, false, 15, .fixed, false, false⟩
  | .fsub _ => ⟨true, true, true, false, 15, .fixed, false, false⟩
  | .fmul _ => ⟨true, true, true, false, 15, .fixed, false, false⟩
  | .ffma _ => ⟨true, true, true, true, 15, .fixed, false, false⟩
  | .fmin _ => ⟨true, true, true, false, 12, .fixed, false, false⟩
  | .fmax _ => ⟨true, true, true, false, 12, .fixed, false, false⟩
  | .fcmp _ _ => ⟨true, true, true, false, 12, .fixed, false, false⟩
  | .frcp _ => ⟨true, true, false, false, 12, .need, false, false⟩
  | .frsq _ => ⟨true, true, false, false, 12, .need, false, false⟩
  | .fsqrt _ => ⟨true, true, false, false, 12, .need, false, false⟩
  | .fexp2 _ => ⟨true, true, false, false, 12, .need, false, false⟩
  | .flog2 _ => ⟨true, true, false, false, 12, .need, false, false⟩
  | .fsin _ => ⟨true, true, false, false, 12, .need, false, false⟩
  | .fcos _ => ⟨true, true, false, false, 12, .need, false, false⟩
  | .ffrc _ => ⟨true, true, false, false, 12, .fixed, false, false⟩
  | .frnd _ => ⟨true, true, false, false, 15, .fixed, false, false⟩
  | .dadd _ => ⟨true, true, true, false, 3, .need, false, false⟩
  | .dmul _ => ⟨true, true, true, false, 3, .need, false, false⟩
  | .dfma _ => ⟨true, true, true, true, 3, .need, false, false⟩
  | .cvt _ => ⟨true, true, true, true, 7, .fixed, false, false⟩
  | .cvtlg _ => ⟨true, true, true, true, 7, .fixed, false, false⟩
  | .cvtln _ => ⟨true, true, true, true, 7, .fixed, false, false⟩
  | .shflIdx _ => ⟨true, true, true, true, 7, .fixed, false, false⟩
  | .shflUp _ => ⟨true, true, true, true, 7, .fixed, false, false⟩
  | .shflDown _ => ⟨true, true, true, true, 7, .fixed, false, false⟩
  | .shflXor _ => ⟨true, true, true, true, 7, .fixed, false, false⟩
  | .bcast _ => ⟨true, true, false, false, 7, .fixed, false, false⟩
  | .redx _ _ => ⟨true, true, false, false, 15, .fixed, false, false⟩
  | .scanx _ _ => ⟨true, true, false, false, 15, .fixed, false, false⟩
  | .vldx _ => ⟨true, true, true, false, 0, .fixed, false, false⟩
  | .vstx _ => ⟨false, true, true, true, 0, .fixed, false, false⟩
  | .xset _ => ⟨true, true, true, false, 0, .fixed, false, false⟩
  | .ld _ _ => ⟨true, true, false, true, 1, .load, false, false⟩
  | .st _ _ => ⟨false, true, true, true, 1, .opt, false, false⟩
  | .ldl _ _ => ⟨true, true, false, true, 1, .need, false, false⟩
  | .stl _ _ => ⟨false, true, true, true, 1, .opt, false, false⟩
  | .lda _ _ => ⟨true, true, false, true, 15, .load, false, false⟩
  | .strl _ _ => ⟨false, true, true, true, 15, .opt, false, false⟩
  | .atom _ _ _ => ⟨true, true, true, true, 15, .need, false, false⟩
  | .red _ _ => ⟨false, true, true, false, 1, .opt, false, false⟩
  | .fredC2 _ => ⟨false, true, true, false, 1, .opt, false, false⟩
  | .fence _ => ⟨false, false, false, false, 14, .opt, false, false⟩
  | .fissue _ => ⟨true, false, false, false, 0, .need, false, false⟩
  | .fwait _ => ⟨false, true, false, false, 0, .opt, false, false⟩
  | .falias _ => ⟨false, false, false, false, 0, .opt, false, false⟩
  | .fpath _ => ⟨false, false, false, false, 0, .opt, false, false⟩
  | .acopyGl _ => ⟨false, true, true, true, 0, .opt, false, false⟩
  | .acopyLg _ => ⟨false, true, true, true, 0, .opt, false, false⟩
  | .cwait _ => ⟨false, true, true, true, 0, .opt, false, false⟩
  | .cfence _ => ⟨false, false, false, false, 14, .opt, false, false⟩
  | .tcopy _ => ⟨false, true, false, false, 0, .opt, false, false⟩
  | .rlockSrc _ => ⟨true, true, true, true, 0, .need, true, false⟩
  | .rlockDst _ => ⟨true, true, true, true, 0, .need, true, false⟩
  | .runlock _ => ⟨false, true, false, false, 0, .opt, true, false⟩
  | .pref _ => ⟨false, true, false, true, 1, .opt, false, false⟩
  | .texSample _ => ⟨true, true, true, true, 1, .need, false, false⟩
  | .texLoad _ => ⟨true, true, false, true, 0, .need, false, false⟩
  | .texGather _ => ⟨true, true, true, true, 3, .need, false, false⟩
  | .travResume _ => ⟨false, true, true, false, 0, .opt, false, false⟩
  | .tfeed _ => ⟨true, true, true, true, 3, .opt, false, false⟩
  | .ttake _ => ⟨true, true, true, true, 3, .need, false, false⟩
  | .tld _ => ⟨true, true, true, true, 1, .opt, false, false⟩
  | .tst _ => ⟨true, true, true, true, 3, .opt, false, false⟩
  | .mma _ => ⟨true, true, true, true, 12, .opt, true, false⟩
  | .mzero _ => ⟨false, true, false, false, 0, .opt, true, true⟩
  | .mscale _ => ⟨false, true, true, false, 0, .opt, true, true⟩
  | .mcoopJoin _ => ⟨false, true, false, false, 0, .opt, true, true⟩
  | .mcoopSync _ => ⟨false, true, false, false, 0, .opt, true, true⟩
  | .mcoopLeave _ => ⟨false, true, false, false, 0, .opt, true, true⟩
  | .mdrain _ => ⟨true, true, false, true, 0, .need, true, true⟩
  | .mdrainLg _ => ⟨true, true, false, true, 0, .need, true, true⟩
  | .msync _ => ⟨false, true, false, false, 0, .opt, true, true⟩
  | .mwait _ => ⟨false, true, false, false, 0, .opt, true, true⟩
  | .sadd _ => ⟨true, true, true, false, 0, .fixed, true, false⟩
  | .ssub _ => ⟨true, true, true, false, 0, .fixed, true, false⟩
  | .smul _ => ⟨true, true, true, false, 0, .fixed, true, false⟩
  | .sand _ => ⟨true, true, true, false, 0, .fixed, true, false⟩
  | .sor _ => ⟨true, true, true, false, 0, .fixed, true, false⟩
  | .sxor _ => ⟨true, true, true, false, 0, .fixed, true, false⟩
  | .sshl _ => ⟨true, true, true, false, 0, .fixed, true, false⟩
  | .sshr _ => ⟨true, true, true, false, 0, .fixed, true, false⟩
  | .smov _ => ⟨true, true, false, false, 0, .fixed, true, false⟩
  | .scmp _ _ => ⟨true, true, true, false, 0, .fixed, true, false⟩
  | .sexit _ => ⟨false, false, false, false, 0, .fixed, true, true⟩
  | .trap _ => ⟨false, true, true, true, 0, .fixed, false, true⟩
  | .brk _ => ⟨false, false, true, true, 0, .fixed, true, true⟩
  | .snapt _ => ⟨false, false, true, true, 0, .fixed, true, true⟩
  | .getsr _ => ⟨true, false, true, true, 0, .need, false, true⟩
  | .setsr _ => ⟨false, true, true, true, 0, .fixed, true, true⟩
  | _ => ⟨false, false, false, false, 0, .fixed, false, false⟩

/-- Ranges of an event's unit numbers (R2, R3, R58, R84, R86, R122, R151). -/
def dieOk (d : Nat) : Bool := decide (d < 4)
def ctxOk (c : Nat) : Bool := decide (c < 32)
def coreOk (g : Nat) : Bool := decide (g < 192)
def stackOk (s : Nat) : Bool := decide (s < 2)
def waveOk (v : Nat) : Bool := decide (v < 192 * 48)

/-- The reason code of R278 (or of R449 for a moraine word) of an instruction whose fields fail a check. -/
def Instr.reason (i : Instr) : Option Nat :=
  match i with
  | .pcieFundamentalReset => none
  | .dieResetModule => none
  | .dieResetFoundation n => if stackOk n then none else some 0
  | .dieResetCompute n => if stackOk n then none else some 0
  | .quiesceComplete => none
  | .quiesceTimeout => none
  | .drainComplete d => if dieOk d then none else some 0
  | .drainTimeout => none
  | .heldExpiry => none
  | .initComplete d => if dieOk d then none else some 0
  | .linkFlitRetry l _ => if decide (l < 3) then none else some 0
  | .linkRetrainDone l => if decide (l < 3) then none else some 0
  | .linkRetrainTimeout => none
  | .aclkPointChange p => if decide (16 ≤ p ∧ p ≤ 64) then none else some 0
  | .aclkPointChangeDone => none
  | .powerLimitExceeded => none
  | .thermalAction d => if decide (d < 10) then none else some 0
  | .thermalTrip d => if decide (d < 10) then none else some 0
  | .firmwareBoot => none
  | .fwLoad => none
  | .raiseSvn => none
  | .attestationRequest _ => none
  | .registerWrite _ => none
  | .apertureRead _ n => if decide (n = 1 ∨ n = 2 ∨ n = 4 ∨ n = 8) then none else some 0
  | .apertureWrite _ _ => none
  | .ringDoorbell _ => none
  | .clockLockAcquire c => if ctxOk c then none else some 0
  | .ctxEnable _ => none
  | .ctxDisable _ => none
  | .stop c => if ctxOk c then none else some 0
  | .abort c => if ctxOk c then none else some 0
  | .abortReleaseDone => none
  | .replay c => if ctxOk c then none else some 0
  | .tlbInvalidate _ => none
  | .tlbInvalidateDone => none
  | .snapFire => none
  | .snapRearm => none
  | .flogRdWrite _ => none
  | .flogConfigWrite _ => none
  | .faultReport _ => none
  | .displayEnable _ => none
  | .displayDisable _ => none
  | .displayVblank h => if decide (h < 4) then none else some 0
  | .displayScanoutFrame h => if decide (h < 4) then none else some 0
  | .videoSessionEnable _ => none
  | .videoFrame n => if decide (n < 32) then none else some 0
  | .videoRdPoll => none
  | .launchRead c => if ctxOk c then none else some 0
  | .graphLoad => none
  | .graphUnload c _ => if ctxOk c then none else some 0
  | .graphRetire c _ => if ctxOk c then none else some 0
  | .entryFeedRecord c _ => if ctxOk c then none else some 0
  | .recordArrival _ => none
  | .halfMap _ sk => if stackOk sk then none else some 0
  | .halfMappingDone _ sk => if stackOk sk then none else some 0
  | .halfEvictDone _ sk => if stackOk sk then none else some 0
  | .farSegmentMoveIn _ sk => if stackOk sk then none else some 0
  | .lingerExpiry => none
  | .teamStart sk => if stackOk sk then none else some 0
  | .batchSteal sk _ => if stackOk sk then none else some 0
  | .conditionalDelivery c _ _ => if ctxOk c then none else some 0
  | .graphStall => none
  | .budgetCharge => none
  | .budgetPeriodStart => none
  | .priorityPreemption sk => if stackOk sk then none else some 0
  | .teamStop => none
  | .teamWriteOut _ => none
  | .consumerResume sk => if stackOk sk then none else some 0
  | .thermalMigration _ => none
  | .clauseSelect g p => if coreOk g && decide (p < 4) then none else some 0
  | .safepointBound => none
  | .npBound => none
  | .wavePark v => if waveOk v then none else some 0
  | .waveRecall v => if waveOk v then none else some 0
  | .firnTransferDone => none
  | .pageWalk _ => none
  | .tokenComplete _ _ => none
  | .qwinEntryReady v => if waveOk v then none else some 0
  | .longOperationCommit _ => none
  | .waitlineWake v _ => if waveOk v then none else some 0
  | .waitlineTimeout => none
  | .tileKeyTimeout => none
  | .texOperation k => if decide (k < 48) then none else some 0
  | .rasterTriangle k => if decide (k < 48) then none else some 0
  | .traversalOperation k => if decide (k < 48) then none else some 0
  | .sequencerProgramStart sk => if stackOk sk then none else some 0
  | .matrixOpCommit k => if decide (k < 48) then none else some 0
  | .coopJoinTimeout => none
  | .moraineKernelStart d => if dieOk d then none else some 0
  | .moraineSpanCommit m => if decide (m < 32) then none else some 0
  | .moraineKernelStop m => if decide (m < 32) then none else some 0
  | .moraineKernelResume d => if dieOk d then none else some 0
  | .bra w => cReason false false w
  | .call w => cReason false false w
  | .brx w => vReason i.shape (true) w
  | .ret w => vReason i.shape (true) w
  | .nop w => vReason i.shape (true) w
  | .yield w => vReason i.shape (true) w
  | .mset w => vReason i.shape (true) w
  | .mand w => vReason i.shape (true) w
  | .mor w => vReason i.shape (true) w
  | .mxor w => vReason i.shape (true) w
  | .mnot w => vReason i.shape (true) w
  | .mcpy w => vReason i.shape (true) w
  | .mbal w => vReason i.shape (true) w
  | .join w => vReason i.shape (true) w
  | .leave w => vReason i.shape (true) w
  | .waitm w => vReason i.shape (true) w
  | .bar w => vReason i.shape (true) w
  | .semsig w => vReason i.shape (true) w
  | .semwait w => vReason i.shape (true) w
  | .waitline w => vReason i.shape (true) w
  | .npenter w => vReason i.shape (true) w
  | .npleave w => vReason i.shape (true) w
  | .qapp w => vReason i.shape (true) w
  | .qrsv w => vReason i.shape (true) w
  | .recld w => vReason i.shape (true) w
  | .qpop w => vReason i.shape (true) w
  | .postr w => vReason i.shape (true) w
  | .exitW w => vReason i.shape (true) w
  | .exitC w => vReason i.shape (exitPortsOk w) w
  | .iadd w => vReason i.shape (true) w
  | .isub w => vReason i.shape (true) w
  | .imul w => vReason i.shape (true) w
  | .imulh w => vReason i.shape (true) w
  | .imad w => vReason i.shape (true) w
  | .imin w => vReason i.shape (true) w
  | .imax w => vReason i.shape (true) w
  | .iabs w => vReason i.shape (true) w
  | .shl w => vReason i.shape (true) w
  | .shr w => vReason i.shape (true) w
  | .sar w => vReason i.shape (true) w
  | .rot w => vReason i.shape (true) w
  | .andB w => vReason i.shape (true) w
  | .orB w => vReason i.shape (true) w
  | .xorB w => vReason i.shape (true) w
  | .notB w => vReason i.shape (true) w
  | .bfe w => vReason i.shape (true) w
  | .bfi w => vReason i.shape (true) w
  | .popc w => vReason i.shape (true) w
  | .clz w => vReason i.shape (true) w
  | .brev w => vReason i.shape (true) w
  | .icmp cc w => vReason i.shape (cc.ordered || w.mod == 0) w
  | .sel w => vReason i.shape (true) w
  | .mov w => vReason i.shape (true) w
  | .movi w => lReason w
  | .aadd64 w => vReason i.shape (true) w
  | .amad64 w => vReason i.shape (true) w
  | .fadd w => vReason i.shape (w.mod.extractLsb' 2 2 != 3) w
  | .fsub w => vReason i.shape (w.mod.extractLsb' 2 2 != 3) w
  | .fmul w => vReason i.shape (w.mod.extractLsb' 2 2 != 3) w
  | .ffma w => vReason i.shape (w.mod.extractLsb' 2 2 != 3) w
  | .fmin w => vReason i.shape (w.mod.extractLsb' 2 2 != 3) w
  | .fmax w => vReason i.shape (w.mod.extractLsb' 2 2 != 3) w
  | .fcmp _ w => vReason i.shape (w.mod.extractLsb' 2 2 != 3) w
  | .frcp w => vReason i.shape (w.mod.extractLsb' 2 2 != 3) w
  | .frsq w => vReason i.shape (w.mod.extractLsb' 2 2 != 3) w
  | .fsqrt w => vReason i.shape (w.mod.extractLsb' 2 2 != 3) w
  | .fexp2 w => vReason i.shape (w.mod.extractLsb' 2 2 != 3) w
  | .flog2 w => vReason i.shape (w.mod.extractLsb' 2 2 != 3) w
  | .fsin w => vReason i.shape (w.mod.extractLsb' 2 2 != 3) w
  | .fcos w => vReason i.shape (w.mod.extractLsb' 2 2 != 3) w
  | .ffrc w => vReason i.shape (w.mod.extractLsb' 2 2 != 3) w
  | .frnd w => vReason i.shape (w.mod.extractLsb' 2 2 != 3) w
  | .dadd w => vReason i.shape (true) w
  | .dmul w => vReason i.shape (true) w
  | .dfma w => vReason i.shape (true) w
  | .cvt w => vReason i.shape (cvtFieldsOk w) w
  | .cvtlg w => vReason i.shape (cvtFieldsOk w) w
  | .cvtln w => vReason i.shape (cvtFieldsOk w) w
  | .shflIdx w => vReason i.shape (w.mod.extractLsb' 0 3 != 7) w
  | .shflUp w => vReason i.shape (w.mod.extractLsb' 0 3 != 7) w
  | .shflDown w => vReason i.shape (w.mod.extractLsb' 0 3 != 7) w
  | .shflXor w => vReason i.shape (w.mod.extractLsb' 0 3 != 7) w
  | .bcast w => vReason i.shape (w.mod.extractLsb' 0 3 != 7) w
  | .redx op w => vReason i.shape ((w.mod.extractLsb' 0 3 != 7) && (op.hasUnsigned || w.mod.getLsbD 3 == false)) w
  | .scanx op w => vReason i.shape ((w.mod.extractLsb' 0 3 != 7) && (op.hasUnsigned || w.mod.getLsbD 3 == false)) w
  | .vldx w => vReason i.shape (true) w
  | .vstx w => vReason i.shape (true) w
  | .xset w => vReason i.shape (true) w
  | .ld _ w => vReason i.shape (true) w
  | .st _ w => vReason i.shape (true) w
  | .ldl _ w => vReason i.shape (true) w
  | .stl _ w => vReason i.shape (true) w
  | .lda z w => vReason i.shape (z != .q && w.mod.extractLsb' 1 3 != 7) w
  | .strl z w => vReason i.shape (z != .q && w.mod.extractLsb' 1 3 != 7) w
  | .atom op o w => vReason i.shape (atomFieldsOk op o w) w
  | .red _ w => vReason i.shape (true) w
  | .fredC2 w => vReason i.shape (true) w
  | .fence w => vReason i.shape (w.mod.extractLsb' 1 3 != 7) w
  | .fissue w => vReason i.shape (true) w
  | .fwait w => vReason i.shape (true) w
  | .falias w => vReason i.shape (true) w
  | .fpath w => vReason i.shape (true) w
  | .acopyGl w => vReason i.shape (true) w
  | .acopyLg w => vReason i.shape (true) w
  | .cwait w => vReason i.shape (true) w
  | .cfence w => vReason i.shape (w.mod.extractLsb' 1 3 != 7) w
  | .tcopy w => vReason i.shape (true) w
  | .rlockSrc w => vReason i.shape (true) w
  | .rlockDst w => vReason i.shape (true) w
  | .runlock w => vReason i.shape (true) w
  | .pref w => vReason i.shape (true) w
  | .texSample w => vReason i.shape (true) w
  | .texLoad w => vReason i.shape (true) w
  | .texGather w => vReason i.shape (true) w
  | .travResume w => vReason i.shape (true) w
  | .tfeed w => vReason i.shape (tileFieldsOk w) w
  | .ttake w => vReason i.shape (tileFieldsOk w) w
  | .tld w => vReason i.shape (w.c.extractLsb' 0 2 == 0) w
  | .tst w => vReason i.shape (w.c.extractLsb' 0 5 == 0) w
  | .mma w => vReason i.shape (w.c.extractLsb' 0 3 == 0) w
  | .mzero w => vReason i.shape (true) w
  | .mscale w => vReason i.shape (true) w
  | .mcoopJoin w => vReason i.shape (true) w
  | .mcoopSync w => vReason i.shape (true) w
  | .mcoopLeave w => vReason i.shape (true) w
  | .mdrain w => vReason i.shape (w.c.extractLsb' 0 6 == 0) w
  | .mdrainLg w => vReason i.shape (w.c.extractLsb' 0 6 == 0) w
  | .msync w => vReason i.shape (true) w
  | .mwait w => vReason i.shape (true) w
  | .sadd w => vReason i.shape (true) w
  | .ssub w => vReason i.shape (true) w
  | .smul w => vReason i.shape (true) w
  | .sand w => vReason i.shape (true) w
  | .sor w => vReason i.shape (true) w
  | .sxor w => vReason i.shape (true) w
  | .sshl w => vReason i.shape (true) w
  | .sshr w => vReason i.shape (true) w
  | .smov w => vReason i.shape (true) w
  | .smovi w => lReason w
  | .scmp _ w => vReason i.shape (true) w
  | .sbrZ w => cReason true true w
  | .sbrNz w => cReason true true w
  | .sexit w => vReason i.shape (true) w
  | .trap w => vReason i.shape (w.c.extractLsb' 0 2 == 0) w
  | .brk w => vReason i.shape (w.c.extractLsb' 0 2 == 0) w
  | .snapt w => vReason i.shape (w.c.extractLsb' 0 2 == 0) w
  | .getsr w => vReason i.shape (w.c.extractLsb' 0 2 == 0) w
  | .setsr w => vReason i.shape (w.c.extractLsb' 0 2 == 0) w
  | .vldS w => if mrOk w true true true true 2 0 then none else some 2
  | .vstS w => if mrOk w true true true true 2 0 then none else some 2
  | .vldG w => if mrOk w true true true true 2 7 then none else some 2
  | .vstG w => if mrOk w true true true true 2 7 then none else some 2
  | .kld _ => none
  | .kst _ => none
  | .viadd w => if mrOk w true true true true 0 0 then none else some 2
  | .visub w => if mrOk w true true true true 0 0 then none else some 2
  | .vimul w => if mrOk w true true true true 0 0 then none else some 2
  | .vfadd w => if mrOk w true true true true 2 0 then none else some 2
  | .vfmul w => if mrOk w true true true true 2 0 then none else some 2
  | .vfma w => if mrOk w true true true true 2 0 then none else some 2
  | .vcmp w => if mrOk w true true true true 2 5 && decide (w.d.toNat < 8) then none else some 2
  | .vred w => if mrOk w true true false true 0 10 then none else some 2
  | .vcvt w => if mrOk w true true false true 0 9 then none else some 2
  | .vmov w => if mrOk w true true false true 0 0 then none else some 2
  | .vsplat w => if mrOk w true true false true 0 0 then none else some 2
  | .vsel w => if mrOk w true true true true 0 0 then none else some 2
  | .vlogic w => if mrOk w true true true true 0 5 then none else some 2
  | .viota w => if mrOk w true true true true 0 0 then none else some 2
  | .plogic w => if plogicOk w then none else some 2
  | .kalu w => if mrOk w true true true false 0 16 then none else some 2
  | .kaddi _ => none
  | .kmovi _ => none
  | .kget w => if mrOk w true true false false 0 0 && decide (w.a.toNat < 10) then none else some 2
  | .br w => if w.test == 0 then none else some 2
  | .bz _ => none
  | .bnz _ => none
  | .bp w => if bpOk w then none else some 2
  | .mqapp w => if mrOk w false true false false 0 15 then none else some 2
  | .moraineYield => none
  | .moraineExit => none
  | .splitFenceReleaseDone v _ => if waveOk v then none else some 0
  | .copyChunkRelease v _ _ => if waveOk v then none else some 0
  | .quarterThrottle g => if coreOk g then none else some 0

/-- An instruction is well formed when no check of its own fields fails. -/
def Instr.wf (i : Instr) : Bool := i.reason.isNone

/-- The kinds of row of the opcode table. -/
inductive RowKind | event | native | moraine
  deriving DecidableEq, Repr

def Instr.kind (i : Instr) : RowKind :=
  match i with
  | .pcieFundamentalReset => .event
  | .dieResetModule => .event
  | .dieResetFoundation _ => .event
  | .dieResetCompute _ => .event
  | .quiesceComplete => .event
  | .quiesceTimeout => .event
  | .drainComplete _ => .event
  | .drainTimeout => .event
  | .heldExpiry => .event
  | .initComplete _ => .event
  | .linkFlitRetry _ _ => .event
  | .linkRetrainDone _ => .event
  | .linkRetrainTimeout => .event
  | .aclkPointChange _ => .event
  | .aclkPointChangeDone => .event
  | .powerLimitExceeded => .event
  | .thermalAction _ => .event
  | .thermalTrip _ => .event
  | .firmwareBoot => .event
  | .fwLoad => .event
  | .raiseSvn => .event
  | .attestationRequest _ => .event
  | .registerWrite _ => .event
  | .apertureRead _ _ => .event
  | .apertureWrite _ _ => .event
  | .ringDoorbell _ => .event
  | .clockLockAcquire _ => .event
  | .ctxEnable _ => .event
  | .ctxDisable _ => .event
  | .stop _ => .event
  | .abort _ => .event
  | .abortReleaseDone => .event
  | .replay _ => .event
  | .tlbInvalidate _ => .event
  | .tlbInvalidateDone => .event
  | .snapFire => .event
  | .snapRearm => .event
  | .flogRdWrite _ => .event
  | .flogConfigWrite _ => .event
  | .faultReport _ => .event
  | .displayEnable _ => .event
  | .displayDisable _ => .event
  | .displayVblank _ => .event
  | .displayScanoutFrame _ => .event
  | .videoSessionEnable _ => .event
  | .videoFrame _ => .event
  | .videoRdPoll => .event
  | .launchRead _ => .event
  | .graphLoad => .event
  | .graphUnload _ _ => .event
  | .graphRetire _ _ => .event
  | .entryFeedRecord _ _ => .event
  | .recordArrival _ => .event
  | .halfMap _ _ => .event
  | .halfMappingDone _ _ => .event
  | .halfEvictDone _ _ => .event
  | .farSegmentMoveIn _ _ => .event
  | .lingerExpiry => .event
  | .teamStart _ => .event
  | .batchSteal _ _ => .event
  | .conditionalDelivery _ _ _ => .event
  | .graphStall => .event
  | .budgetCharge => .event
  | .budgetPeriodStart => .event
  | .priorityPreemption _ => .event
  | .teamStop => .event
  | .teamWriteOut _ => .event
  | .consumerResume _ => .event
  | .thermalMigration _ => .event
  | .clauseSelect _ _ => .event
  | .safepointBound => .event
  | .npBound => .event
  | .wavePark _ => .event
  | .waveRecall _ => .event
  | .firnTransferDone => .event
  | .pageWalk _ => .event
  | .tokenComplete _ _ => .event
  | .qwinEntryReady _ => .event
  | .longOperationCommit _ => .event
  | .waitlineWake _ _ => .event
  | .waitlineTimeout => .event
  | .tileKeyTimeout => .event
  | .texOperation _ => .event
  | .rasterTriangle _ => .event
  | .traversalOperation _ => .event
  | .sequencerProgramStart _ => .event
  | .matrixOpCommit _ => .event
  | .coopJoinTimeout => .event
  | .moraineKernelStart _ => .event
  | .moraineSpanCommit _ => .event
  | .moraineKernelStop _ => .event
  | .moraineKernelResume _ => .event
  | .bra _ => .native
  | .call _ => .native
  | .brx _ => .native
  | .ret _ => .native
  | .nop _ => .native
  | .yield _ => .native
  | .mset _ => .native
  | .mand _ => .native
  | .mor _ => .native
  | .mxor _ => .native
  | .mnot _ => .native
  | .mcpy _ => .native
  | .mbal _ => .native
  | .join _ => .native
  | .leave _ => .native
  | .waitm _ => .native
  | .bar _ => .native
  | .semsig _ => .native
  | .semwait _ => .native
  | .waitline _ => .native
  | .npenter _ => .native
  | .npleave _ => .native
  | .qapp _ => .native
  | .qrsv _ => .native
  | .recld _ => .native
  | .qpop _ => .native
  | .postr _ => .native
  | .exitW _ => .native
  | .exitC _ => .native
  | .iadd _ => .native
  | .isub _ => .native
  | .imul _ => .native
  | .imulh _ => .native
  | .imad _ => .native
  | .imin _ => .native
  | .imax _ => .native
  | .iabs _ => .native
  | .shl _ => .native
  | .shr _ => .native
  | .sar _ => .native
  | .rot _ => .native
  | .andB _ => .native
  | .orB _ => .native
  | .xorB _ => .native
  | .notB _ => .native
  | .bfe _ => .native
  | .bfi _ => .native
  | .popc _ => .native
  | .clz _ => .native
  | .brev _ => .native
  | .icmp _ _ => .native
  | .sel _ => .native
  | .mov _ => .native
  | .movi _ => .native
  | .aadd64 _ => .native
  | .amad64 _ => .native
  | .fadd _ => .native
  | .fsub _ => .native
  | .fmul _ => .native
  | .ffma _ => .native
  | .fmin _ => .native
  | .fmax _ => .native
  | .fcmp _ _ => .native
  | .frcp _ => .native
  | .frsq _ => .native
  | .fsqrt _ => .native
  | .fexp2 _ => .native
  | .flog2 _ => .native
  | .fsin _ => .native
  | .fcos _ => .native
  | .ffrc _ => .native
  | .frnd _ => .native
  | .dadd _ => .native
  | .dmul _ => .native
  | .dfma _ => .native
  | .cvt _ => .native
  | .cvtlg _ => .native
  | .cvtln _ => .native
  | .shflIdx _ => .native
  | .shflUp _ => .native
  | .shflDown _ => .native
  | .shflXor _ => .native
  | .bcast _ => .native
  | .redx _ _ => .native
  | .scanx _ _ => .native
  | .vldx _ => .native
  | .vstx _ => .native
  | .xset _ => .native
  | .ld _ _ => .native
  | .st _ _ => .native
  | .ldl _ _ => .native
  | .stl _ _ => .native
  | .lda _ _ => .native
  | .strl _ _ => .native
  | .atom _ _ _ => .native
  | .red _ _ => .native
  | .fredC2 _ => .native
  | .fence _ => .native
  | .fissue _ => .native
  | .fwait _ => .native
  | .falias _ => .native
  | .fpath _ => .native
  | .acopyGl _ => .native
  | .acopyLg _ => .native
  | .cwait _ => .native
  | .cfence _ => .native
  | .tcopy _ => .native
  | .rlockSrc _ => .native
  | .rlockDst _ => .native
  | .runlock _ => .native
  | .pref _ => .native
  | .texSample _ => .native
  | .texLoad _ => .native
  | .texGather _ => .native
  | .travResume _ => .native
  | .tfeed _ => .native
  | .ttake _ => .native
  | .tld _ => .native
  | .tst _ => .native
  | .mma _ => .native
  | .mzero _ => .native
  | .mscale _ => .native
  | .mcoopJoin _ => .native
  | .mcoopSync _ => .native
  | .mcoopLeave _ => .native
  | .mdrain _ => .native
  | .mdrainLg _ => .native
  | .msync _ => .native
  | .mwait _ => .native
  | .sadd _ => .native
  | .ssub _ => .native
  | .smul _ => .native
  | .sand _ => .native
  | .sor _ => .native
  | .sxor _ => .native
  | .sshl _ => .native
  | .sshr _ => .native
  | .smov _ => .native
  | .smovi _ => .native
  | .scmp _ _ => .native
  | .sbrZ _ => .native
  | .sbrNz _ => .native
  | .sexit _ => .native
  | .trap _ => .native
  | .brk _ => .native
  | .snapt _ => .native
  | .getsr _ => .native
  | .setsr _ => .native
  | .vldS _ => .moraine
  | .vstS _ => .moraine
  | .vldG _ => .moraine
  | .vstG _ => .moraine
  | .kld _ => .moraine
  | .kst _ => .moraine
  | .viadd _ => .moraine
  | .visub _ => .moraine
  | .vimul _ => .moraine
  | .vfadd _ => .moraine
  | .vfmul _ => .moraine
  | .vfma _ => .moraine
  | .vcmp _ => .moraine
  | .vred _ => .moraine
  | .vcvt _ => .moraine
  | .vmov _ => .moraine
  | .vsplat _ => .moraine
  | .vsel _ => .moraine
  | .vlogic _ => .moraine
  | .viota _ => .moraine
  | .plogic _ => .moraine
  | .kalu _ => .moraine
  | .kaddi _ => .moraine
  | .kmovi _ => .moraine
  | .kget _ => .moraine
  | .br _ => .moraine
  | .bz _ => .moraine
  | .bnz _ => .moraine
  | .bp _ => .moraine
  | .mqapp _ => .moraine
  | .moraineYield => .moraine
  | .moraineExit => .moraine
  | .splitFenceReleaseDone _ _ => .event
  | .copyChunkRelease _ _ _ => .event
  | .quarterThrottle _ => .event

/-- The class of each native word (R297); 8 for what is no native word. -/
def Instr.cls : Instr → Nat
  | .bra _ => 5
  | .call _ => 5
  | .brx _ => 5
  | .ret _ => 5
  | .nop _ => 5
  | .yield _ => 5
  | .mset _ => 5
  | .mand _ => 5
  | .mor _ => 5
  | .mxor _ => 5
  | .mnot _ => 5
  | .mcpy _ => 5
  | .mbal _ => 5
  | .join _ => 5
  | .leave _ => 5
  | .waitm _ => 5
  | .bar _ => 5
  | .semsig _ => 5
  | .semwait _ => 5
  | .waitline _ => 5
  | .npenter _ => 5
  | .npleave _ => 5
  | .qapp _ => 2
  | .qrsv _ => 2
  | .recld _ => 2
  | .qpop _ => 2
  | .postr _ => 2
  | .exitW _ => 2
  | .exitC _ => 2
  | .iadd _ => 0
  | .isub _ => 0
  | .imul _ => 0
  | .imulh _ => 0
  | .imad _ => 0
  | .imin _ => 0
  | .imax _ => 0
  | .iabs _ => 0
  | .shl _ => 0
  | .shr _ => 0
  | .sar _ => 0
  | .rot _ => 0
  | .andB _ => 0
  | .orB _ => 0
  | .xorB _ => 0
  | .notB _ => 0
  | .bfe _ => 0
  | .bfi _ => 0
  | .popc _ => 0
  | .clz _ => 0
  | .brev _ => 0
  | .icmp _ _ => 0
  | .sel _ => 0
  | .mov _ => 0
  | .movi _ => 0
  | .aadd64 _ => 0
  | .amad64 _ => 0
  | .fadd _ => 0
  | .fsub _ => 0
  | .fmul _ => 0
  | .ffma _ => 0
  | .fmin _ => 0
  | .fmax _ => 0
  | .fcmp _ _ => 0
  | .frcp _ => 0
  | .frsq _ => 0
  | .fsqrt _ => 0
  | .fexp2 _ => 0
  | .flog2 _ => 0
  | .fsin _ => 0
  | .fcos _ => 0
  | .ffrc _ => 0
  | .frnd _ => 0
  | .dadd _ => 0
  | .dmul _ => 0
  | .dfma _ => 0
  | .cvt _ => 0
  | .cvtlg _ => 0
  | .cvtln _ => 0
  | .shflIdx _ => 0
  | .shflUp _ => 0
  | .shflDown _ => 0
  | .shflXor _ => 0
  | .bcast _ => 0
  | .redx _ _ => 0
  | .scanx _ _ => 0
  | .vldx _ => 0
  | .vstx _ => 0
  | .xset _ => 0
  | .ld _ _ => 1
  | .st _ _ => 1
  | .ldl _ _ => 1
  | .stl _ _ => 1
  | .lda _ _ => 1
  | .strl _ _ => 1
  | .atom _ _ _ => 1
  | .red _ _ => 1
  | .fredC2 _ => 1
  | .fence _ => 1
  | .fissue _ => 1
  | .fwait _ => 1
  | .falias _ => 1
  | .fpath _ => 1
  | .acopyGl _ => 1
  | .acopyLg _ => 1
  | .cwait _ => 1
  | .cfence _ => 1
  | .tcopy _ => 1
  | .rlockSrc _ => 1
  | .rlockDst _ => 1
  | .runlock _ => 1
  | .pref _ => 1
  | .texSample _ => 4
  | .texLoad _ => 4
  | .texGather _ => 4
  | .travResume _ => 4
  | .tfeed _ => 3
  | .ttake _ => 3
  | .tld _ => 3
  | .tst _ => 3
  | .mma _ => 7
  | .mzero _ => 7
  | .mscale _ => 7
  | .mcoopJoin _ => 7
  | .mcoopSync _ => 7
  | .mcoopLeave _ => 7
  | .mdrain _ => 7
  | .mdrainLg _ => 7
  | .msync _ => 7
  | .mwait _ => 7
  | .sadd _ => 7
  | .ssub _ => 7
  | .smul _ => 7
  | .sand _ => 7
  | .sor _ => 7
  | .sxor _ => 7
  | .sshl _ => 7
  | .sshr _ => 7
  | .smov _ => 7
  | .smovi _ => 7
  | .scmp _ _ => 7
  | .sbrZ _ => 7
  | .sbrNz _ => 7
  | .sexit _ => 7
  | .trap _ => 5
  | .brk _ => 5
  | .snapt _ => 5
  | .getsr _ => 5
  | .setsr _ => 5
  | _ => 8

end Sys2Proof
end

