-- ==== Sys2Proof/Decode.lean ====
section
/-!
DEFINITION. The decoder and the encoder of native words (R280, R297) and of moraine words (R447, R448). Decoding is
total: bits that are no instruction are refused with the reason code of R278 (native) or R449 (moraine).
-/

namespace Sys2Proof

/-- The fields of format V in a word (R280). -/
def vWordOf (x : DWord) : VWord :=
  { stall := x.extractLsb' 48 3, token := x.extractLsb' 45 3, d := x.extractLsb' 36 9, a := x.extractLsb' 27 9,
    b := x.extractLsb' 18 9, c := x.extractLsb' 9 9, msel := x.extractLsb' 5 4, reuse := x.getLsbD 4,
    mod := x.extractLsb' 0 4 }

/-- The fields of format L in a word (R280). -/
def lWordOf (x : DWord) : LWord :=
  { stall := x.extractLsb' 48 3, token := x.extractLsb' 45 3, d := x.extractLsb' 36 9, imm := x.extractLsb' 0 32 }

/-- The fields of format C in a word (R280). -/
def cWordOf (x : DWord) : CWord :=
  { stall := x.extractLsb' 48 3, token := x.extractLsb' 45 3, d := x.extractLsb' 36 9, off := x.extractLsb' 9 24,
    msel := x.extractLsb' 5 4 }

/-- The opcode map (R297): the word of a major and a function. -/
def instrOf (maj func : Nat) (x : DWord) : Option Instr :=
  match maj with
  | 0x00 =>
    match func with
    | 0x00 => some (.bra (cWordOf x))
    | 0x01 => some (.call (cWordOf x))
    | 0x02 => some (.brx (vWordOf x))
    | 0x03 => some (.ret (vWordOf x))
    | 0x04 => some (.nop (vWordOf x))
    | 0x05 => some (.yield (vWordOf x))
    | _ => none
  | 0x01 =>
    match func with
    | 0x00 => some (.mset (vWordOf x))
    | 0x01 => some (.mand (vWordOf x))
    | 0x02 => some (.mor (vWordOf x))
    | 0x03 => some (.mxor (vWordOf x))
    | 0x04 => some (.mnot (vWordOf x))
    | 0x05 => some (.mcpy (vWordOf x))
    | 0x06 => some (.mbal (vWordOf x))
    | 0x08 => some (.join (vWordOf x))
    | 0x09 => some (.leave (vWordOf x))
    | 0x0A => some (.waitm (vWordOf x))
    | _ => none
  | 0x02 =>
    match func with
    | 0x00 => some (.bar (vWordOf x))
    | 0x01 => some (.semsig (vWordOf x))
    | 0x02 => some (.semwait (vWordOf x))
    | 0x03 => some (.waitline (vWordOf x))
    | 0x04 => some (.npenter (vWordOf x))
    | 0x05 => some (.npleave (vWordOf x))
    | _ => none
  | 0x08 =>
    match func with
    | 0x00 => some (.qapp (vWordOf x))
    | 0x01 => some (.qrsv (vWordOf x))
    | 0x02 => some (.recld (vWordOf x))
    | 0x03 => some (.qpop (vWordOf x))
    | 0x04 => some (.postr (vWordOf x))
    | 0x05 => some (.exitW (vWordOf x))
    | 0x06 => some (.exitC (vWordOf x))
    | _ => none
  | 0x0C =>
    match func with
    | 0x00 => some (.iadd (vWordOf x))
    | 0x01 => some (.isub (vWordOf x))
    | 0x02 => some (.imul (vWordOf x))
    | 0x03 => some (.imulh (vWordOf x))
    | 0x04 => some (.imad (vWordOf x))
    | 0x05 => some (.imin (vWordOf x))
    | 0x06 => some (.imax (vWordOf x))
    | 0x07 => some (.iabs (vWordOf x))
    | _ => none
  | 0x0D =>
    match func with
    | 0x00 => some (.shl (vWordOf x))
    | 0x01 => some (.shr (vWordOf x))
    | 0x02 => some (.sar (vWordOf x))
    | 0x03 => some (.rot (vWordOf x))
    | 0x04 => some (.andB (vWordOf x))
    | 0x05 => some (.orB (vWordOf x))
    | 0x06 => some (.xorB (vWordOf x))
    | 0x07 => some (.notB (vWordOf x))
    | _ => none
  | 0x0E =>
    match func with
    | 0x00 => some (.bfe (vWordOf x))
    | 0x01 => some (.bfi (vWordOf x))
    | 0x02 => some (.popc (vWordOf x))
    | 0x03 => some (.clz (vWordOf x))
    | 0x04 => some (.brev (vWordOf x))
    | _ => none
  | 0x0F =>
    match func with
    | 0x00 => some (.icmp .eq (vWordOf x))
    | 0x01 => some (.icmp .ne (vWordOf x))
    | 0x02 => some (.icmp .lt (vWordOf x))
    | 0x03 => some (.icmp .le (vWordOf x))
    | 0x04 => some (.icmp .gt (vWordOf x))
    | 0x05 => some (.icmp .ge (vWordOf x))
    | 0x08 => some (.sel (vWordOf x))
    | _ => none
  | 0x10 =>
    match func with
    | 0x00 => some (.mov (vWordOf x))
    | 0x01 => some (.movi (lWordOf x))
    | _ => none
  | 0x11 =>
    match func with
    | 0x00 => some (.aadd64 (vWordOf x))
    | 0x01 => some (.amad64 (vWordOf x))
    | _ => none
  | 0x18 =>
    match func with
    | 0x00 => some (.fadd (vWordOf x))
    | 0x01 => some (.fsub (vWordOf x))
    | 0x02 => some (.fmul (vWordOf x))
    | 0x03 => some (.ffma (vWordOf x))
    | 0x04 => some (.fmin (vWordOf x))
    | 0x05 => some (.fmax (vWordOf x))
    | _ => none
  | 0x19 =>
    match func with
    | 0x00 => some (.fcmp .eq (vWordOf x))
    | 0x01 => some (.fcmp .ne (vWordOf x))
    | 0x02 => some (.fcmp .lt (vWordOf x))
    | 0x03 => some (.fcmp .le (vWordOf x))
    | 0x04 => some (.fcmp .gt (vWordOf x))
    | 0x05 => some (.fcmp .ge (vWordOf x))
    | 0x06 => some (.fcmp .un (vWordOf x))
    | 0x07 => some (.fcmp .ord (vWordOf x))
    | _ => none
  | 0x1A =>
    match func with
    | 0x00 => some (.frcp (vWordOf x))
    | 0x01 => some (.frsq (vWordOf x))
    | 0x02 => some (.fsqrt (vWordOf x))
    | 0x03 => some (.fexp2 (vWordOf x))
    | 0x04 => some (.flog2 (vWordOf x))
    | 0x05 => some (.fsin (vWordOf x))
    | 0x06 => some (.fcos (vWordOf x))
    | 0x07 => some (.ffrc (vWordOf x))
    | 0x08 => some (.frnd (vWordOf x))
    | _ => none
  | 0x1B =>
    match func with
    | 0x00 => some (.dadd (vWordOf x))
    | 0x01 => some (.dmul (vWordOf x))
    | 0x02 => some (.dfma (vWordOf x))
    | _ => none
  | 0x24 =>
    match func with
    | 0x00 => some (.cvt (vWordOf x))
    | 0x01 => some (.cvtlg (vWordOf x))
    | 0x02 => some (.cvtln (vWordOf x))
    | _ => none
  | 0x25 =>
    match func with
    | 0x00 => some (.shflIdx (vWordOf x))
    | 0x01 => some (.shflUp (vWordOf x))
    | 0x02 => some (.shflDown (vWordOf x))
    | 0x03 => some (.shflXor (vWordOf x))
    | 0x04 => some (.bcast (vWordOf x))
    | 0x08 => some (.redx .add (vWordOf x))
    | 0x09 => some (.redx .min (vWordOf x))
    | 0x0A => some (.redx .max (vWordOf x))
    | 0x0B => some (.redx .and (vWordOf x))
    | 0x0C => some (.redx .or (vWordOf x))
    | 0x0D => some (.redx .xor (vWordOf x))
    | 0x0E => some (.redx .fadd (vWordOf x))
    | 0x0F => some (.redx .fmin (vWordOf x))
    | 0x10 => some (.redx .fmax (vWordOf x))
    | 0x18 => some (.scanx .add (vWordOf x))
    | 0x19 => some (.scanx .min (vWordOf x))
    | 0x1A => some (.scanx .max (vWordOf x))
    | 0x1B => some (.scanx .and (vWordOf x))
    | 0x1C => some (.scanx .or (vWordOf x))
    | 0x1D => some (.scanx .xor (vWordOf x))
    | 0x1E => some (.scanx .fadd (vWordOf x))
    | 0x1F => some (.scanx .fmin (vWordOf x))
    | 0x20 => some (.scanx .fmax (vWordOf x))
    | _ => none
  | 0x26 =>
    match func with
    | 0x00 => some (.vldx (vWordOf x))
    | 0x01 => some (.vstx (vWordOf x))
    | 0x02 => some (.xset (vWordOf x))
    | _ => none
  | 0x28 =>
    match func with
    | 0x00 => some (.ld .b (vWordOf x))
    | 0x01 => some (.ld .h (vWordOf x))
    | 0x02 => some (.ld .w (vWordOf x))
    | 0x03 => some (.ld .d (vWordOf x))
    | 0x04 => some (.ld .q (vWordOf x))
    | 0x08 => some (.st .b (vWordOf x))
    | 0x09 => some (.st .h (vWordOf x))
    | 0x0A => some (.st .w (vWordOf x))
    | 0x0B => some (.st .d (vWordOf x))
    | 0x0C => some (.st .q (vWordOf x))
    | 0x10 => some (.ldl .b (vWordOf x))
    | 0x11 => some (.ldl .h (vWordOf x))
    | 0x12 => some (.ldl .w (vWordOf x))
    | 0x13 => some (.ldl .d (vWordOf x))
    | 0x14 => some (.ldl .q (vWordOf x))
    | 0x18 => some (.stl .b (vWordOf x))
    | 0x19 => some (.stl .h (vWordOf x))
    | 0x1A => some (.stl .w (vWordOf x))
    | 0x1B => some (.stl .d (vWordOf x))
    | 0x1C => some (.stl .q (vWordOf x))
    | 0x20 => some (.lda .b (vWordOf x))
    | 0x21 => some (.lda .h (vWordOf x))
    | 0x22 => some (.lda .w (vWordOf x))
    | 0x23 => some (.lda .d (vWordOf x))
    | 0x28 => some (.strl .b (vWordOf x))
    | 0x29 => some (.strl .h (vWordOf x))
    | 0x2A => some (.strl .w (vWordOf x))
    | 0x2B => some (.strl .d (vWordOf x))
    | _ => none
  | 0x29 =>
    match func with
    | 0x00 => some (.atom .add .none (vWordOf x))
    | 0x01 => some (.atom .add .acq (vWordOf x))
    | 0x02 => some (.atom .add .rel (vWordOf x))
    | 0x03 => some (.atom .add .acqrel (vWordOf x))
    | 0x04 => some (.atom .min .none (vWordOf x))
    | 0x05 => some (.atom .min .acq (vWordOf x))
    | 0x06 => some (.atom .min .rel (vWordOf x))
    | 0x07 => some (.atom .min .acqrel (vWordOf x))
    | 0x08 => some (.atom .max .none (vWordOf x))
    | 0x09 => some (.atom .max .acq (vWordOf x))
    | 0x0A => some (.atom .max .rel (vWordOf x))
    | 0x0B => some (.atom .max .acqrel (vWordOf x))
    | 0x0C => some (.atom .and .none (vWordOf x))
    | 0x0D => some (.atom .and .acq (vWordOf x))
    | 0x0E => some (.atom .and .rel (vWordOf x))
    | 0x0F => some (.atom .and .acqrel (vWordOf x))
    | 0x10 => some (.atom .or .none (vWordOf x))
    | 0x11 => some (.atom .or .acq (vWordOf x))
    | 0x12 => some (.atom .or .rel (vWordOf x))
    | 0x13 => some (.atom .or .acqrel (vWordOf x))
    | 0x14 => some (.atom .xor .none (vWordOf x))
    | 0x15 => some (.atom .xor .acq (vWordOf x))
    | 0x16 => some (.atom .xor .rel (vWordOf x))
    | 0x17 => some (.atom .xor .acqrel (vWordOf x))
    | 0x18 => some (.atom .xchg .none (vWordOf x))
    | 0x19 => some (.atom .xchg .acq (vWordOf x))
    | 0x1A => some (.atom .xchg .rel (vWordOf x))
    | 0x1B => some (.atom .xchg .acqrel (vWordOf x))
    | 0x1C => some (.atom .cas .none (vWordOf x))
    | 0x1D => some (.atom .cas .acq (vWordOf x))
    | 0x1E => some (.atom .cas .rel (vWordOf x))
    | 0x1F => some (.atom .cas .acqrel (vWordOf x))
    | 0x24 => some (.atom .minu .none (vWordOf x))
    | 0x25 => some (.atom .minu .acq (vWordOf x))
    | 0x26 => some (.atom .minu .rel (vWordOf x))
    | 0x27 => some (.atom .minu .acqrel (vWordOf x))
    | 0x28 => some (.atom .maxu .none (vWordOf x))
    | 0x29 => some (.atom .maxu .acq (vWordOf x))
    | 0x2A => some (.atom .maxu .rel (vWordOf x))
    | 0x2B => some (.atom .maxu .acqrel (vWordOf x))
    | _ => none
  | 0x2A =>
    match func with
    | 0x00 => some (.red .add (vWordOf x))
    | 0x01 => some (.red .min (vWordOf x))
    | 0x02 => some (.red .max (vWordOf x))
    | 0x03 => some (.red .and (vWordOf x))
    | 0x04 => some (.red .or (vWordOf x))
    | 0x05 => some (.red .xor (vWordOf x))
    | 0x06 => some (.red .fadd (vWordOf x))
    | 0x21 => some (.red .minu (vWordOf x))
    | 0x22 => some (.red .maxu (vWordOf x))
    | 0x40 => some (.fredC2 (vWordOf x))
    | _ => none
  | 0x2B =>
    match func with
    | 0x00 => some (.fence (vWordOf x))
    | 0x01 => some (.fissue (vWordOf x))
    | 0x02 => some (.fwait (vWordOf x))
    | 0x03 => some (.falias (vWordOf x))
    | 0x04 => some (.fpath (vWordOf x))
    | _ => none
  | 0x2C =>
    match func with
    | 0x00 => some (.acopyGl (vWordOf x))
    | 0x01 => some (.acopyLg (vWordOf x))
    | 0x02 => some (.cwait (vWordOf x))
    | 0x03 => some (.cfence (vWordOf x))
    | 0x04 => some (.tcopy (vWordOf x))
    | _ => none
  | 0x2D =>
    match func with
    | 0x00 => some (.rlockSrc (vWordOf x))
    | 0x01 => some (.rlockDst (vWordOf x))
    | 0x02 => some (.runlock (vWordOf x))
    | 0x03 => some (.pref (vWordOf x))
    | _ => none
  | 0x2E =>
    match func with
    | 0x00 => some (.texSample (vWordOf x))
    | 0x01 => some (.texLoad (vWordOf x))
    | 0x02 => some (.texGather (vWordOf x))
    | 0x03 => some (.travResume (vWordOf x))
    | _ => none
  | 0x34 =>
    match func with
    | 0x00 => some (.tfeed (vWordOf x))
    | 0x01 => some (.ttake (vWordOf x))
    | 0x02 => some (.tld (vWordOf x))
    | 0x03 => some (.tst (vWordOf x))
    | _ => none
  | 0x35 =>
    match func with
    | 0x00 => some (.mma (vWordOf x))
    | _ => none
  | 0x36 =>
    match func with
    | 0x00 => some (.mzero (vWordOf x))
    | 0x01 => some (.mscale (vWordOf x))
    | 0x02 => some (.mcoopJoin (vWordOf x))
    | 0x03 => some (.mdrain (vWordOf x))
    | 0x04 => some (.mdrainLg (vWordOf x))
    | 0x05 => some (.msync (vWordOf x))
    | 0x06 => some (.mwait (vWordOf x))
    | _ => none
  | 0x37 =>
    match func with
    | 0x00 => some (.sadd (vWordOf x))
    | 0x01 => some (.ssub (vWordOf x))
    | 0x02 => some (.smul (vWordOf x))
    | 0x03 => some (.sand (vWordOf x))
    | 0x04 => some (.sor (vWordOf x))
    | 0x05 => some (.sxor (vWordOf x))
    | 0x06 => some (.sshl (vWordOf x))
    | 0x07 => some (.sshr (vWordOf x))
    | 0x08 => some (.smov (vWordOf x))
    | 0x09 => some (.smovi (lWordOf x))
    | 0x0A => some (.scmp .eq (vWordOf x))
    | 0x0B => some (.scmp .ne (vWordOf x))
    | 0x0C => some (.scmp .lt (vWordOf x))
    | 0x0D => some (.scmp .ge (vWordOf x))
    | 0x10 => some (.sbrZ (cWordOf x))
    | 0x11 => some (.sbrNz (cWordOf x))
    | 0x20 => some (.sexit (vWordOf x))
    | _ => none
  | 0x3A =>
    match func with
    | 0x00 => some (.trap (vWordOf x))
    | 0x01 => some (.brk (vWordOf x))
    | 0x02 => some (.snapt (vWordOf x))
    | 0x03 => some (.getsr (vWordOf x))
    | 0x04 => some (.setsr (vWordOf x))
    | _ => none
  | _ => none

/-- The reserved bits of formats L and C, which the field structures do not hold (R280). -/
def rawReserved (maj func : Nat) (x : DWord) : Bool :=
  if (maj = 0x10 ∧ func = 1) ∨ (maj = 0x37 ∧ func = 9) then x.extractLsb' 32 4 != 0
  else if (maj = 0 ∧ func < 2) ∨ (maj = 0x37 ∧ (func = 0x10 ∨ func = 0x11)) then
    x.extractLsb' 33 3 != 0 || x.extractLsb' 0 5 != 0
  else false

/-- The instruction in a word slot of a clause, or the reason of R278 for which it is none.
DEDUCED, log 23: the order of the reasons. -/
def decodeNative (x : DWord) : Except Nat Instr :=
  let maj := (x.extractLsb' 58 6).toNat
  let func := (x.extractLsb' 51 7).toNat
  if x.extractLsb' 60 4 = 15 then .error 7
  else match instrOf maj func x with
    | none => .error 1
    | some i =>
      if rawReserved maj func x then .error 2
      else match i.reason with
        | some r => .error r
        | none => .ok i

/-- A clause header's fields (R275). -/
structure Header where
  cls   : Nat
  count : Nat
  wait  : BitVec 6
  s     : Bool
  spid  : Nat
  park  : Bool
  deriving DecidableEq, Repr

/-- Whether a word has the clause mark (R275). -/
def isHeader (x : DWord) : Bool := x.extractLsb' 60 4 == 15

/-- The header in a word, or the reason of R278 for which it is none (5 before 6). -/
def decodeHeader (x : DWord) : Except Nat Header :=
  if (x.extractLsb' 56 4).toNat ≥ 8 then .error 5
  else if x.extractLsb' 0 32 ≠ 0 ∨ (x.getLsbD 45 = false ∧ x.extractLsb' 33 12 ≠ 0) then .error 6
  else .ok { cls := (x.extractLsb' 56 4).toNat, count := (x.extractLsb' 52 4).toNat + 1, wait := x.extractLsb' 46 6,
             s := x.getLsbD 45, spid := (x.extractLsb' 33 12).toNat, park := x.getLsbD 32 }

/-- A header's word (R275). -/
def encodeHeader (h : Header) : DWord :=
  (15 : BitVec 4) ++ BitVec.ofNat 4 h.cls ++ BitVec.ofNat 4 (h.count - 1) ++ h.wait ++ BitVec.ofBool h.s ++
    BitVec.ofNat 12 h.spid ++ BitVec.ofBool h.park ++ (0 : BitVec 32)

/-- Moraine formats (R447). -/
def mrOf (x : Word) : MR :=
  { d := x.extractLsb' 21 5, a := x.extractLsb' 16 5, b := x.extractLsb' 11 5, pred := x.extractLsb' 8 3,
    t := x.extractLsb' 5 3, f := x.extractLsb' 0 5 }
def miOf (x : Word) : MI := { d := x.extractLsb' 21 5, a := x.extractLsb' 16 5, imm := x.extractLsb' 0 16 }
def mhOf (x : Word) : MH :=
  { d := x.extractLsb' 21 5, sh := x.extractLsb' 19 2, z := x.getLsbD 18, imm := x.extractLsb' 0 16 }
def mjOf (x : Word) : MJ := { test := x.extractLsb' 21 5, off := x.extractLsb' 0 21 }

/-- The moraine instruction of an opcode (R448). -/
def moraineOf (op : Nat) (x : Word) : Option Instr :=
  match op with
  | 0x00 => some (.vldS (mrOf x))
  | 0x01 => some (.vstS (mrOf x))
  | 0x02 => some (.vldG (mrOf x))
  | 0x03 => some (.vstG (mrOf x))
  | 0x04 => some (.kld (miOf x))
  | 0x05 => some (.kst (miOf x))
  | 0x06 => some (.viadd (mrOf x))
  | 0x07 => some (.visub (mrOf x))
  | 0x08 => some (.vimul (mrOf x))
  | 0x09 => some (.vfadd (mrOf x))
  | 0x0A => some (.vfmul (mrOf x))
  | 0x0B => some (.vfma (mrOf x))
  | 0x0C => some (.vcmp (mrOf x))
  | 0x0D => some (.vred (mrOf x))
  | 0x0E => some (.vcvt (mrOf x))
  | 0x0F => some (.vmov (mrOf x))
  | 0x10 => some (.vsplat (mrOf x))
  | 0x11 => some (.vsel (mrOf x))
  | 0x12 => some (.vlogic (mrOf x))
  | 0x13 => some (.viota (mrOf x))
  | 0x14 => some (.plogic (mrOf x))
  | 0x15 => some (.kalu (mrOf x))
  | 0x16 => some (.kaddi (miOf x))
  | 0x17 => some (.kmovi (mhOf x))
  | 0x18 => some (.kget (mrOf x))
  | 0x19 => some (.br (mjOf x))
  | 0x1A => some (.bz (mjOf x))
  | 0x1B => some (.bnz (mjOf x))
  | 0x1C => some (.bp (mjOf x))
  | 0x1D => some (.mqapp (mrOf x))
  | 0x1E => some .moraineYield
  | 0x1F => some .moraineExit
  | _ => none

/-- The instruction in a moraine word, or the reason of R449. Format H has its bits
[17:16] zero (R447); YIELD and EXIT have every field zero (R448). -/
def decodeMoraine (x : Word) : Except Nat Instr :=
  let op := (x.extractLsb' 26 6).toNat
  match moraineOf op x with
  | none => .error 1
  | some i =>
    if (op = 0x17 ∧ x.extractLsb' 16 2 ≠ 0) ∨ ((op = 0x1E ∨ op = 0x1F) ∧ x.extractLsb' 0 26 ≠ 0) then .error 2
    else match i.reason with
      | some _ => .error 2
      | none => .ok i

/-- A native word from its opcode and fields (R280). -/
def vEnc (maj : BitVec 6) (func : BitVec 7) (w : VWord) : DWord :=
  maj ++ func ++ w.stall ++ w.token ++ w.d ++ w.a ++ w.b ++ w.c ++ w.msel ++ BitVec.ofBool w.reuse ++ w.mod
def lEnc (maj : BitVec 6) (func : BitVec 7) (w : LWord) : DWord :=
  maj ++ func ++ w.stall ++ w.token ++ w.d ++ (0 : BitVec 4) ++ w.imm
def cEnc (maj : BitVec 6) (func : BitVec 7) (w : CWord) : DWord :=
  maj ++ func ++ w.stall ++ w.token ++ w.d ++ (0 : BitVec 3) ++ w.off ++ w.msel ++ (0 : BitVec 5)

def mrEnc (op : BitVec 6) (w : MR) : Word := op ++ w.d ++ w.a ++ w.b ++ w.pred ++ w.t ++ w.f
def miEnc (op : BitVec 6) (w : MI) : Word := op ++ w.d ++ w.a ++ w.imm
def mhEnc (op : BitVec 6) (w : MH) : Word := op ++ w.d ++ w.sh ++ BitVec.ofBool w.z ++ (0 : BitVec 2) ++ w.imm
def mjEnc (op : BitVec 6) (w : MJ) : Word := op ++ w.test ++ w.off

def Cmp.code : Cmp → Nat
  | .eq => 0
  | .ne => 1
  | .lt => 2
  | .le => 3
  | .gt => 4
  | .ge => 5

def FCmp.code : FCmp → Nat
  | .eq => 0
  | .ne => 1
  | .lt => 2
  | .le => 3
  | .gt => 4
  | .ge => 5
  | .un => 6
  | .ord => 7

def SCmp.code : SCmp → Nat
  | .eq => 0
  | .ne => 1
  | .lt => 2
  | .ge => 3

def XOp.code : XOp → Nat
  | .add => 0
  | .min => 1
  | .max => 2
  | .and => 3
  | .or => 4
  | .xor => 5
  | .fadd => 6
  | .fmin => 7
  | .fmax => 8

def Size.code : Size → Nat
  | .b => 0
  | .h => 1
  | .w => 2
  | .d => 3
  | .q => 4

def Ord4.code : Ord4 → Nat
  | .none => 0
  | .acq => 1
  | .rel => 2
  | .acqrel => 3

/-- U × 0x20 + OP × 4 (R374). -/
def AtomOp.code : AtomOp → Nat
  | .add => 0 | .min => 4 | .max => 8 | .and => 12 | .or => 16 | .xor => 20 | .xchg => 24 | .cas => 28
  | .minu => 0x24 | .maxu => 0x28

/-- RED functions (R376). -/
def RedOp.code : RedOp → Nat
  | .add => 0 | .min => 1 | .max => 2 | .and => 3 | .or => 4 | .xor => 5 | .fadd => 6 | .minu => 0x21 | .maxu => 0x22

/-- The 64-bit word of a native instruction (R297); 0 for a row that is no native word. The three MCOOP rows are one
word, told apart by the descriptor in its q register (R428). -/
def encodeNative : Instr → DWord
  | .bra w => cEnc 0x00 0x00 w
  | .call w => cEnc 0x00 0x01 w
  | .brx w => vEnc 0x00 0x02 w
  | .ret w => vEnc 0x00 0x03 w
  | .nop w => vEnc 0x00 0x04 w
  | .yield w => vEnc 0x00 0x05 w
  | .mset w => vEnc 0x01 0x00 w
  | .mand w => vEnc 0x01 0x01 w
  | .mor w => vEnc 0x01 0x02 w
  | .mxor w => vEnc 0x01 0x03 w
  | .mnot w => vEnc 0x01 0x04 w
  | .mcpy w => vEnc 0x01 0x05 w
  | .mbal w => vEnc 0x01 0x06 w
  | .join w => vEnc 0x01 0x08 w
  | .leave w => vEnc 0x01 0x09 w
  | .waitm w => vEnc 0x01 0x0A w
  | .bar w => vEnc 0x02 0x00 w
  | .semsig w => vEnc 0x02 0x01 w
  | .semwait w => vEnc 0x02 0x02 w
  | .waitline w => vEnc 0x02 0x03 w
  | .npenter w => vEnc 0x02 0x04 w
  | .npleave w => vEnc 0x02 0x05 w
  | .qapp w => vEnc 0x08 0x00 w
  | .qrsv w => vEnc 0x08 0x01 w
  | .recld w => vEnc 0x08 0x02 w
  | .qpop w => vEnc 0x08 0x03 w
  | .postr w => vEnc 0x08 0x04 w
  | .exitW w => vEnc 0x08 0x05 w
  | .exitC w => vEnc 0x08 0x06 w
  | .iadd w => vEnc 0x0C 0x00 w
  | .isub w => vEnc 0x0C 0x01 w
  | .imul w => vEnc 0x0C 0x02 w
  | .imulh w => vEnc 0x0C 0x03 w
  | .imad w => vEnc 0x0C 0x04 w
  | .imin w => vEnc 0x0C 0x05 w
  | .imax w => vEnc 0x0C 0x06 w
  | .iabs w => vEnc 0x0C 0x07 w
  | .shl w => vEnc 0x0D 0x00 w
  | .shr w => vEnc 0x0D 0x01 w
  | .sar w => vEnc 0x0D 0x02 w
  | .rot w => vEnc 0x0D 0x03 w
  | .andB w => vEnc 0x0D 0x04 w
  | .orB w => vEnc 0x0D 0x05 w
  | .xorB w => vEnc 0x0D 0x06 w
  | .notB w => vEnc 0x0D 0x07 w
  | .bfe w => vEnc 0x0E 0x00 w
  | .bfi w => vEnc 0x0E 0x01 w
  | .popc w => vEnc 0x0E 0x02 w
  | .clz w => vEnc 0x0E 0x03 w
  | .brev w => vEnc 0x0E 0x04 w
  | .icmp cc w => vEnc 0x0F (BitVec.ofNat 7 (0x00 + cc.code)) w
  | .sel w => vEnc 0x0F 0x08 w
  | .mov w => vEnc 0x10 0x00 w
  | .movi w => lEnc 0x10 0x01 w
  | .aadd64 w => vEnc 0x11 0x00 w
  | .amad64 w => vEnc 0x11 0x01 w
  | .fadd w => vEnc 0x18 0x00 w
  | .fsub w => vEnc 0x18 0x01 w
  | .fmul w => vEnc 0x18 0x02 w
  | .ffma w => vEnc 0x18 0x03 w
  | .fmin w => vEnc 0x18 0x04 w
  | .fmax w => vEnc 0x18 0x05 w
  | .fcmp cc w => vEnc 0x19 (BitVec.ofNat 7 (0x00 + cc.code)) w
  | .frcp w => vEnc 0x1A 0x00 w
  | .frsq w => vEnc 0x1A 0x01 w
  | .fsqrt w => vEnc 0x1A 0x02 w
  | .fexp2 w => vEnc 0x1A 0x03 w
  | .flog2 w => vEnc 0x1A 0x04 w
  | .fsin w => vEnc 0x1A 0x05 w
  | .fcos w => vEnc 0x1A 0x06 w
  | .ffrc w => vEnc 0x1A 0x07 w
  | .frnd w => vEnc 0x1A 0x08 w
  | .dadd w => vEnc 0x1B 0x00 w
  | .dmul w => vEnc 0x1B 0x01 w
  | .dfma w => vEnc 0x1B 0x02 w
  | .cvt w => vEnc 0x24 0x00 w
  | .cvtlg w => vEnc 0x24 0x01 w
  | .cvtln w => vEnc 0x24 0x02 w
  | .shflIdx w => vEnc 0x25 0x00 w
  | .shflUp w => vEnc 0x25 0x01 w
  | .shflDown w => vEnc 0x25 0x02 w
  | .shflXor w => vEnc 0x25 0x03 w
  | .bcast w => vEnc 0x25 0x04 w
  | .redx op w => vEnc 0x25 (BitVec.ofNat 7 (0x08 + op.code)) w
  | .scanx op w => vEnc 0x25 (BitVec.ofNat 7 (0x18 + op.code)) w
  | .vldx w => vEnc 0x26 0x00 w
  | .vstx w => vEnc 0x26 0x01 w
  | .xset w => vEnc 0x26 0x02 w
  | .ld z w => vEnc 0x28 (BitVec.ofNat 7 (0x00 + z.code)) w
  | .st z w => vEnc 0x28 (BitVec.ofNat 7 (0x08 + z.code)) w
  | .ldl z w => vEnc 0x28 (BitVec.ofNat 7 (0x10 + z.code)) w
  | .stl z w => vEnc 0x28 (BitVec.ofNat 7 (0x18 + z.code)) w
  | .lda z w => vEnc 0x28 (BitVec.ofNat 7 (0x20 + z.code)) w
  | .strl z w => vEnc 0x28 (BitVec.ofNat 7 (0x28 + z.code)) w
  | .atom op o w => vEnc 0x29 (BitVec.ofNat 7 (op.code + o.code)) w
  | .red op w => vEnc 0x2A (BitVec.ofNat 7 op.code) w
  | .fredC2 w => vEnc 0x2A 0x40 w
  | .fence w => vEnc 0x2B 0x00 w
  | .fissue w => vEnc 0x2B 0x01 w
  | .fwait w => vEnc 0x2B 0x02 w
  | .falias w => vEnc 0x2B 0x03 w
  | .fpath w => vEnc 0x2B 0x04 w
  | .acopyGl w => vEnc 0x2C 0x00 w
  | .acopyLg w => vEnc 0x2C 0x01 w
  | .cwait w => vEnc 0x2C 0x02 w
  | .cfence w => vEnc 0x2C 0x03 w
  | .tcopy w => vEnc 0x2C 0x04 w
  | .rlockSrc w => vEnc 0x2D 0x00 w
  | .rlockDst w => vEnc 0x2D 0x01 w
  | .runlock w => vEnc 0x2D 0x02 w
  | .pref w => vEnc 0x2D 0x03 w
  | .texSample w => vEnc 0x2E 0x00 w
  | .texLoad w => vEnc 0x2E 0x01 w
  | .texGather w => vEnc 0x2E 0x02 w
  | .travResume w => vEnc 0x2E 0x03 w
  | .tfeed w => vEnc 0x34 0x00 w
  | .ttake w => vEnc 0x34 0x01 w
  | .tld w => vEnc 0x34 0x02 w
  | .tst w => vEnc 0x34 0x03 w
  | .mma w => vEnc 0x35 0x00 w
  | .mzero w => vEnc 0x36 0x00 w
  | .mscale w => vEnc 0x36 0x01 w
  | .mcoopJoin w => vEnc 0x36 0x02 w
  | .mcoopSync w => vEnc 0x36 0x02 w
  | .mcoopLeave w => vEnc 0x36 0x02 w
  | .mdrain w => vEnc 0x36 0x03 w
  | .mdrainLg w => vEnc 0x36 0x04 w
  | .msync w => vEnc 0x36 0x05 w
  | .mwait w => vEnc 0x36 0x06 w
  | .sadd w => vEnc 0x37 0x00 w
  | .ssub w => vEnc 0x37 0x01 w
  | .smul w => vEnc 0x37 0x02 w
  | .sand w => vEnc 0x37 0x03 w
  | .sor w => vEnc 0x37 0x04 w
  | .sxor w => vEnc 0x37 0x05 w
  | .sshl w => vEnc 0x37 0x06 w
  | .sshr w => vEnc 0x37 0x07 w
  | .smov w => vEnc 0x37 0x08 w
  | .smovi w => lEnc 0x37 0x09 w
  | .scmp cc w => vEnc 0x37 (BitVec.ofNat 7 (0x0A + cc.code)) w
  | .sbrZ w => cEnc 0x37 0x10 w
  | .sbrNz w => cEnc 0x37 0x11 w
  | .sexit w => vEnc 0x37 0x20 w
  | .trap w => vEnc 0x3A 0x00 w
  | .brk w => vEnc 0x3A 0x01 w
  | .snapt w => vEnc 0x3A 0x02 w
  | .getsr w => vEnc 0x3A 0x03 w
  | .setsr w => vEnc 0x3A 0x04 w
  | _ => 0

/-- The 32-bit word of a moraine instruction (R448); 0 for a row that is none. -/
def encodeMoraine : Instr → Word
  | .vldS w => mrEnc 0x00 w
  | .vstS w => mrEnc 0x01 w
  | .vldG w => mrEnc 0x02 w
  | .vstG w => mrEnc 0x03 w
  | .kld w => miEnc 0x04 w
  | .kst w => miEnc 0x05 w
  | .viadd w => mrEnc 0x06 w
  | .visub w => mrEnc 0x07 w
  | .vimul w => mrEnc 0x08 w
  | .vfadd w => mrEnc 0x09 w
  | .vfmul w => mrEnc 0x0A w
  | .vfma w => mrEnc 0x0B w
  | .vcmp w => mrEnc 0x0C w
  | .vred w => mrEnc 0x0D w
  | .vcvt w => mrEnc 0x0E w
  | .vmov w => mrEnc 0x0F w
  | .vsplat w => mrEnc 0x10 w
  | .vsel w => mrEnc 0x11 w
  | .vlogic w => mrEnc 0x12 w
  | .viota w => mrEnc 0x13 w
  | .plogic w => mrEnc 0x14 w
  | .kalu w => mrEnc 0x15 w
  | .kaddi w => miEnc 0x16 w
  | .kmovi w => mhEnc 0x17 w
  | .kget w => mrEnc 0x18 w
  | .br w => mjEnc 0x19 w
  | .bz w => mjEnc 0x1A w
  | .bnz w => mjEnc 0x1B w
  | .bp w => mjEnc 0x1C w
  | .mqapp w => mrEnc 0x1D w
  | .moraineYield => BitVec.ofNat 32 (0x1E * 2 ^ 26)
  | .moraineExit => BitVec.ofNat 32 (0x1F * 2 ^ 26)
  | _ => 0

/-- What the decoder reads back: the three MCOOP rows share one word (R428). -/
def Instr.canon : Instr → Instr
  | .mcoopSync w => .mcoopJoin w
  | .mcoopLeave w => .mcoopJoin w
  | i => i

/-- The instruction the decoder reads from an instruction's bits, numbered as spec/opcode_table.json numbers them:
a moraine word of 32 bits, or a shader or sequencer word of 64 bits; the bits above `nbits` are zero. -/
def decodeTableWord (nbits w : Nat) : Option Instr :=
  if nbits = 0 then none
  else if nbits ≤ 32 then
    match decodeMoraine (BitVec.ofNat 32 (w % 2 ^ nbits)) with
    | .ok i => some i
    | .error _ => none
  else
    match decodeNative (BitVec.ofNat 64 w) with
    | .ok i => some i
    | .error _ => none

end Sys2Proof
end

