-- ==== Sys2Proof/Machine/State.lean ====
section
/-!
DEFINITION. The state of the module: everything the spec gives the GLK-9650, as plain data. Units are numbered flat:
core g = stack × 96 + physical id (R3), cluster k = stack × 24 + cluster, moraine core m = DRAM stack × 8 + core, wave
v = g × 48 + slot, die 0-3 = C0, C1, F0, F1 (the order of HUB_DIE_STATUS, R40). Times: `hclk` is HUB_TIME (R55), `aclk`
counts edges of the tree (R31), `missed` those of them that a throttled core did not receive (R32).
-/

namespace Sys2Proof.Machine

/-- What stops the machine with a fault. -/
inductive Fault where
  /-- Raised by every native and moraine word whose unit (State.cur) is not a wave, sequencer or moraine core of the
  kind that runs it: there is no thread to act for. No run of `step` reaches it, since `step` names the unit. Safe. -/
  | noIssuer
  deriving DecidableEq, Repr

/-- What the machine refuses. -/
inductive Refusal where
  /-- Raised by an arm of exec whose instruction has no meaning yet. Safe. -/
  | notModelled (mnemonic : String)
  deriving DecidableEq, Repr

/-! ### Records, images and launches -/

/-- A record with its hidden header (R116): launch tag, continuation depth, parent token, entry index (R283), the core
and number of a tagged load (R133), when it arrived at its queue, the record-store block and the place in the spill region
(page × 4096 + number) that hold it, and when it arrived in its half (R126). -/
structure Rec where
  words  : List Word
  tag    : Nat
  depth  : Nat
  parent : Option Nat
  id     : Nat
  entry  : Option Nat
  load   : Option (Nat × Nat)
  arr    : Nat
  blk    : Option (Nat × Nat)
  page   : Option Nat
  lodged : Nat := 0
  deriving DecidableEq, Repr

/-- A NODES entry as the hub keeps it (R92), with the addresses the translation gave its entries. -/
structure NodeInfo where
  kind    : Nat
  width   : Nat
  fmt     : Nat
  entry   : Nat
  access  : Option Nat
  linger  : Nat
  slots   : List DWord
  result  : Bool
  vregs   : Nat
  wregs   : Nat
  loc     : Nat
  team    : Nat
  qbase   : Nat
  qlen    : Nat
  edge0   : Nat
  edges   : Nat
  cedge0  : Nat
  cedges  : Nat
  qcap    : Nat
  spill   : Nat
  deriving DecidableEq, Repr

/-- An EDGES entry (R93). -/
structure Edge where
  src  : Nat
  dst  : Nat
  max  : Nat
  port : Nat
  cont : Bool
  deriving DecidableEq, Repr

/-- A CEDGES entry (R93). -/
structure CEdge where
  src   : Nat
  dst   : Nat
  mask  : Word
  value : Word
  deriving DecidableEq, Repr

inductive ImgSt | loading | loaded | unloading
  deriving DecidableEq, Repr

/-- A loaded image with the hub's copies of its tables (R113, R114) and its queue-directory entries by node. `safe` gives
the live masks at a safe-point header (R99); `plan` is the memory plan as kind, TIER, VA and SIZE (R104); `mbase` is where
its MORAINE section lies in each code region (R437); `rets` gives, for the header of a clause that ends in a translated
SEGEND.CALL, the header of its return segment (R98, R309); `segs` maps a listed segment, as executor kind × 2^32 + offset (0 compute,
1 access, 2 sequencer; R102), to its header, and `indir` lists the words that are translated SEGEND.INDIRECT (R309). -/
structure Image where
  addr   : Nat
  size   : Nat
  seq    : Nat
  st     : ImgSt
  mmrev  : Nat
  nodes  : List NodeInfo
  edges  : List Edge
  cedges : List CEdge
  fmts   : List (Nat × Bool)
  spill  : Option (Nat × Nat)
  plan   : List (Nat × Nat × Nat × Nat)
  qdir   : List Nat
  mcode  : List Word
  mbase  : Nat
  safe   : SMap (BitVec 256 × DWord)
  segs   : SMap Nat
  indir  : List Nat
  rets   : SMap Nat
  deriving DecidableEq, Repr

inductive LaunchKind | graph | load | unload
  deriving DecidableEq, Repr

/-- A launch in flight (R66-R68, R116, R132-R139): its descriptor, feed progress, result words, per-node counts of
queued records, running consumers and taken but unretired records, the retirement tree, since when the conditions of
R140 hold, and the number and core of the team load being fed (R133). -/
structure Launch where
  kind     : LaunchKind
  img      : Nat
  entryVA  : Nat
  entryN   : Nat
  entryNode : Nat
  cl0      : BitVec 24
  cl1      : BitVec 24
  arg      : DWord
  doneVA   : Nat
  doneVal  : DWord
  irq      : Bool
  mmrev    : Nat
  fed      : Nat
  feedParked : Bool
  doneParked : Bool
  results  : SMap Word
  queued   : SMap Nat
  running  : SMap Nat
  unret    : SMap Nat
  delivered : List Nat
  tree     : SMap (Option Nat × Nat × Nat × Bool)
  started  : Nat
  stallFrom : Option Nat
  order    : Nat
  dealt    : Option (Nat × Nat) := none
  deriving DecidableEq, Repr

inductive CtxSt | disabled | idle | waitClock | active | faulted | aborting
  deriving DecidableEq, Repr

/-- A context (R58-R71). Of its budget (R143): the units charged in the period, the interval up to which they are, and
whether a consumer ran in that one. -/
structure Ctx where
  st      : CtxSt
  prio    : Nat
  slice   : Nat
  period  : Nat
  nbv     : Nat
  filter  : Nat
  clklock : Nat
  dbgScb  : Bool
  ptRoot  : Nat
  ringBase : Nat
  ringLog : Nat
  head    : BitVec 32
  tail    : BitVec 32
  retired : BitVec 32
  fatal   : Nat
  lockBroken : Bool
  budgetOut  : Bool
  pageWait   : Bool
  charged : Nat
  lastInt : Nat
  ran     : Bool
  tokens  : Nat
  seen    : List Nat
  loads   : Nat
  images  : SMap Image
  launches : SMap Launch
  replays : Nat
  deriving DecidableEq, Repr

/-- A context after module reset (R59-R64). -/
def Ctx.reset : Ctx :=
  { st := .disabled, prio := 0, slice := 0, period := 0, nbv := 4, filter := 4, clklock := 0, dbgScb := false,
    ptRoot := 0, ringBase := 0, ringLog := 0, head := 0, tail := 0, retired := 0, fatal := 0, lockBroken := false,
    budgetOut := false, pageWait := false, charged := 0, lastInt := 0, ran := false, tokens := 65536, seen := [], loads := 0,
    images := [], launches := [], replays := 0 }

inductive HalfSt | unmapped | mapping | mapped | evicting
  deriving DecidableEq, Repr

/-- One half of a queue (R117, R122): its records, when it was mapped, and its record-store blocks with the records of
each that still count (R119); `cur` is the block being filled and the places used in it; `want` is since when the three
conditions of R123 hold. -/
structure Half where
  st     : HalfSt
  recs   : List Rec
  since  : Nat
  blocks : SMap Nat
  cur    : Option (Nat × Nat)
  want   : Option Nat
  deriving DecidableEq, Repr

def Half.empty : Half := { st := .unmapped, recs := [], since := 0, blocks := [], cur := none, want := none }

/-- A queue-directory entry (R116): the halves, the far segment, the places of spill pages (page × 4096 + number) whose
records still count (R119), O(q) and Rv. -/
structure Queue where
  ctx   : Nat
  img   : Nat
  node  : Nat
  half0 : Half
  half1 : Half
  far   : List Rec
  pages : SMap Nat
  occ   : Nat
  rv    : Nat
  lingered : List Nat
  deriving DecidableEq, Repr

/-- A consumer that has started (R125-R130): what it consumes, its batch, its remaining reservations by port, and how
many of its records ended by EXIT.C. -/
structure Cons where
  ctx   : Nat
  img   : Nat
  node  : Nat
  tag   : Nat
  recs  : List Rec
  resv  : SMap Nat
  contd : Nat
  start : Nat
  deriving DecidableEq, Repr

/-- A steal in flight (R134): the thief's stack, the queue, the batch, whose reservation and tokens are taken, and whether
it has left the other stack's half. -/
structure Steal where
  sk   : Nat
  qid  : Nat
  ctx  : Nat
  img  : Nat
  node : Nat
  tag  : Nat
  recs : List Rec
  crossed : Bool
  deriving DecidableEq, Repr

/-! ### Waves and teams -/

/-- Why a thread is WAITING (R148). -/
inductive Why
  | bar (b : Nat)
  | mask (n : Nat)
  | sem (s : Nat)
  | line (addr at_ : Nat)
  | pop (d : Nat)
  deriving DecidableEq, Repr

/-- A thread's entry in the PC table (R148), with its return stack (R309). -/
structure PcE where
  h    : Nat
  i    : Nat
  wait : Option Why
  ret  : List Nat
  deriving DecidableEq, Repr

/-- A clause on a port (R149-R151): header, words, the next word, the threads still issuing, the targets of those that
branched and the places of those that wait, the class and the port, and how many records its over-long word has written
(R253). -/
structure Clause where
  h     : Nat
  count : Nat
  cls   : Nat
  i     : Nat
  run   : Mask
  gone  : SMap Nat
  waits : SMap Nat
  port  : Nat
  yielded : Bool
  sent  : Nat
  deriving DecidableEq, Repr

/-- A register write of an operation in flight (R291): key v × 64 + lane, or 0x4000 + w, with the value, and whether a
later word wrote the register meanwhile (R293). -/
structure RegWrite where
  key : Nat
  val : Word
  contested : Bool
  deriving DecidableEq, Repr

/-- What an operation in flight does when it completes (R400). -/
inductive OpKind
  | regs
  | store
  | copy (inward : Bool) (chunks : List Nat) (bytes : List (Nat × Byte)) (srcs : List (Nat × Nat × Nat))
  | tex
  | long (id : Nat)
  | push (slots : List Nat)
  deriving DecidableEq, Repr

/-- An operation of a wave that has issued and not completed (R291), with the edges of its core before which it does not
complete and, where not 0, after which it has completed (R352). -/
structure PendOp where
  id   : Nat
  tok  : Option Nat
  regs : List RegWrite
  kind : OpKind
  earliest : Nat
  latest : Nat
  deriving DecidableEq, Repr

/-- A fixed-latency write that is not yet readable (R290): the register key, its value before, and the cycle. -/
structure Haz where
  key   : Nat
  old   : DWord
  ready : Nat
  deriving DecidableEq, Repr

inductive Res | resident | parked | parking (till : Nat) | recalling (till : Nat)
  deriving DecidableEq, Repr

/-- Why a wave, sequencer or operation is parked (R71, R331). -/
inductive Park | no | xlat | brk
  deriving DecidableEq, Repr

/-- A wave (R147-R175). Registers are sparse maps with default zero: v keyed by register × 64 + lane. -/
structure Wave where
  team   : Nat
  ctx    : Nat
  img    : Nat
  node   : Nat
  tag    : Nat
  width  : Nat
  n      : Nat
  idx    : Nat
  access : Bool
  pair   : Option Nat
  recs   : List Rec
  v      : SMap Word
  w      : SMap Word
  m      : SMap Mask
  arr    : SMap Mask
  x      : SMap (Nat × Nat)
  tok    : SMap Nat
  pcs    : SMap PcE
  nstat  : Word
  spcount : Nat
  np     : Option Nat
  gen    : Nat
  fences : SMap (Nat × Bool)
  qh     : Nat
  qc     : Nat
  qready : SMap Nat
  res    : Res
  notReadySince : Nat
  readySince : Nat
  park   : Park
  ops    : List PendOp
  haz    : List Haz
  cyc    : Nat
  begun  : Nat
  hint   : Bool
  yieldTo : Option (List Nat × Nat)
  stopped : Bool
  keySince : Option (Nat × Word × Mask)
  run    : Option Clause
  deriving DecidableEq, Repr

/-- A range-lock entry (R217): DST mode or SRC, space, range, and whether RLOCK took it. -/
structure Lock where
  dst   : Bool
  glob  : Bool
  lo    : Nat
  hi    : Nat
  user  : Bool
  deriving DecidableEq, Repr

inductive TeamSt | running | stopping | stopped | written
  deriving DecidableEq, Repr

/-- A team (R156-R158, R173-R177, R215-R217): its place, waves by slot, semaphores with their waiters, copy counts,
range locks, local memory and region, pre-emption state, and of a team written out the saved waves with the part of the
save region they take (R176). `semAt` holds, for a
semaphore, the edge of its last word, that word's place in the order of R317, and what heads of its queue took there. -/
structure Team where
  cons   : Cons
  core   : Nat
  waves  : List Nat
  ended  : Nat
  sems   : SMap Nat
  semAt  : SMap (Nat × Nat × Nat)
  semq   : SMap (List (Nat × Nat × Mask))
  cin    : SMap Nat
  cout   : SMap Nat
  locks  : SMap Lock
  mem    : SMap Byte
  region : Option Nat
  st     : TeamSt
  migrate : Bool
  saved  : List (Nat × Wave)
  place  : Option (Nat × Nat)
  deriving DecidableEq, Repr

/-! ### Memory units -/

inductive LineSt | s | m | u
  deriving DecidableEq, Repr

/-- A line in an L1 (R189): data and dirty bytes of S and M, partial results of U as (word offset, RED code, width,
value). -/
structure Line where
  st    : LineSt
  data  : BitVec 1024
  dirty : BitVec 128
  part  : List (Nat × Nat × Nat × Nat)
  deriving DecidableEq, Repr

/-- A TLB entry (R198): one page of any size. -/
structure TlbE where
  ctx  : Nat
  va   : Nat
  size : Nat
  pa   : Nat
  w    : Bool
  x    : Bool
  deriving DecidableEq, Repr

/-- What an access needs of a leaf (R196). -/
inductive Acc | read | write | fetch
  deriving DecidableEq, Repr

/-- A miss that waits for a walk (R198): the 4 KiB page, the access, the stack and core that asked, and the unit that did
(`askerOf`). Misses of one context and page share one walk. -/
structure Walk where
  ctx   : Nat
  page  : Nat
  acc   : Acc
  stack : Nat
  core  : Option Nat
  who   : Nat
  deriving DecidableEq, Repr

/-- A walk that ended in a fault, kept for one unit that asked (R198, R199). -/
structure WalkFault where
  ctx   : Nat
  page  : Nat
  acc   : Acc
  cause : Nat
  who   : Nat
  deriving DecidableEq, Repr

/-- A monitored line with a sleeping lane (R218, R318). -/
structure Mon where
  core : Nat
  line : Nat
  wave : Nat
  lane : Nat
  at_  : Nat
  deriving DecidableEq, Repr

/-- A captured tensor copy, TLD or TST (R180, R391, R414): what it reads and writes is worked out at its commit from the
descriptor words or the layout captured at issue; `prog` is the record of the sequencer program whose tile it is. -/
inductive LongKind
  | tcopy (desc : List Nat)
  | tld (prog tile a layout : Nat) (glob : Bool) (slot : DWord)
  | tst (prog tile a layout : Nat) (glob done : Bool)
  deriving DecidableEq, Repr

structure LongOp where
  id    : Nat
  pc    : Nat
  ctx   : Nat
  team  : Nat
  wave  : Nat
  op    : Nat
  kind  : LongKind
  locks : List Nat
  inward : List Nat
  outward : List Nat
  park  : Park
  captured : Bool
  deriving DecidableEq, Repr

/-! ### Engine blocks -/

/-- An entry of a vertical FIFO or of the dispatcher's source (R253): a TEX word's operands with the edge at which it was
written (R33), or a record, which arrived then. -/
inductive EItem
  | tex (wave op pc : Nat) (form ch : Nat) (ta sa : DWord) (mode : Nat) (ctx : Nat) (lanes : List (Nat × List Word)) (d at_ : Nat)
  | item (ctx img node : Nat) (r : Rec)
  deriving DecidableEq, Repr

/-- An engine block (R253-R274): the source each unit served last (0-3 a core, 4 the dispatcher), the TEX entries taken and
parked or to run again by core (R257, R268), the parked traversal records (R274), and those that go on ahead of new
inputs. -/
structure Engine where
  lastT : Nat
  lastR : Nat
  lastV : Nat
  parkT : SMap (EItem × Park)
  parkV : List (Cons × List Word)
  ready : List (Cons × List Word)
  deriving DecidableEq, Repr

def Engine.reset : Engine := { lastT := 3, lastR := 4, lastV := 4, parkT := [], parkV := [], ready := [] }

/-- The vertical queue of a core (R253); `hold` gives, by KIND, the wave whose over-long word is entering the FIFO. -/
structure VQueue where
  tex  : List EItem
  ras  : List EItem
  trv  : List EItem
  hold : SMap Nat
  deriving DecidableEq, Repr

def VQueue.reset : VQueue := { tex := [], ras := [], trv := [], hold := [] }

/-! ### Matrix sequencers -/

/-- An accumulator element (R237). -/
structure AccE where
  sum   : BitVec 128
  sat   : Bool
  nar   : Bool
  count : Nat
  deriving DecidableEq, Repr

def AccE.zero : AccE := { sum := 0, sat := false, nar := false, count := 0 }

/-- A sub-tile's state (R421-R424): CLEAR, anchor, triangular latch, TFEED.A mark and the redundant contributions, kept by
element (row × 32 + column) for the sums over the unmasked ones of a row. -/
structure Sub where
  clear  : Bool
  anchor : Int
  tri    : Option (DWord × DWord)
  fedA   : Bool
  sigs   : SMap (BitVec 128 × Bool × Bool)
  deriving DecidableEq, Repr

def Sub.reset : Sub := { clear := true, anchor := 64, tri := none, fedA := false, sigs := [] }

inductive TileSt | empty | busy | full
  deriving DecidableEq, Repr

/-- The programs, by the record each runs, whose tiles serve an operation as A and B, and the row owner a .RED one adds to,
as it issues (R430). -/
structure Owners where
  a   : Nat
  b   : Nat
  red : Nat
  deriving DecidableEq, Repr

/-- A captured matrix operation (R417): the A rows are those the latch or the tile held at issue, the B rows those of its
tile, which no writer changes while the operation reads it (R408), and rdn is MCTL at issue. -/
inductive MOp
  | mma (sub ta tb sa sb : Nat) (tri red : Bool) (rowsA rowsB : SMap Byte) (tpos tval : DWord) (rdn : Bool)
      (own : Owners)
  | mzero (m : Nat)
  | mscale (m : Nat) (anchor : Int) (pc : Nat)
  | mdrain (tile sub slot pc : Nat) (log rdn : Bool)
  | msync (m : Nat) (own : Owners)
  | mwait
  | mcoop
  | mleave
  deriving DecidableEq, Repr

/-- Group membership (R428-R430). -/
structure Grp where
  key   : Nat
  rows  : Nat
  cols  : Nat
  row   : Nat
  col   : Nat
  shA   : Bool
  shB   : Bool
  formed : Bool
  syncs : Nat
  since : Nat
  deriving DecidableEq, Repr

/-- A GETSR of a sequencer in flight (R289, R333): its token, q register and value, and whether a later word wrote the
register meanwhile (R293). -/
structure QGet where
  id  : Nat
  tok : Nat
  q   : Nat
  val : DWord
  contested : Bool
  deriving DecidableEq, Repr

/-- A matrix-sequencer program (R402-R433). Tiles hold bytes keyed tile × 5120 + offset; `bad` are the tiles, and as 16 + m
the sub-tiles, that hold an uncorrectable error (R433). -/
structure Seq where
  cons   : Cons
  stack  : Nat
  q      : SMap DWord
  h      : Nat
  i      : Nat
  run    : Option Clause
  ret    : List Nat
  tok    : SMap Nat
  gets   : List QGet
  tiles  : SMap Byte
  tst    : SMap TileSt
  acc    : SMap AccE
  subs   : SMap Sub
  nstat  : Word
  mctl   : Bool
  bind   : Word
  tripos : DWord
  trival : DWord
  latch  : Option (Nat × Nat × SMap Byte)
  grp    : Option Grp
  syncing : Bool
  queue  : List (MOp × Option Nat)
  rel    : SMap (List Nat)
  park   : Park
  haz    : List Haz
  cyc    : Nat
  done   : Bool
  bad    : List Nat
  place  : Option (Nat × Nat)
  deriving DecidableEq, Repr

/-- The random generator of a cluster (R426), with the edge of its last request and the place of that one in the order of
requests. -/
structure Rng where
  st  : DWord
  inc : DWord
  served : Nat × Nat
  deriving DecidableEq, Repr

def Rng.reset : Rng := { st := 0, inc := 0x9E3779B97F4A7C15, served := (0, 0) }

/-! ### Moraine -/

/-- A moraine thread's registers (R436): z keyed register × 64 + lane. -/
structure MRegs where
  z  : SMap Word
  k  : SMap DWord
  p  : SMap Mask
  pc : Nat
  nstat : Word
  deriving DecidableEq, Repr

/-- A kernel (R435-R446): registers, checkpoint, the span's writes and records, the pages whose translations it has used
(R197), commits, and whether it ended its span.
`ending`: 0 running, 1 YIELD to commit, 2 EXIT to commit. -/
structure Kern where
  cons   : Cons
  regs   : MRegs
  ckpt   : MRegs
  writes : SMap Byte
  recs   : List (Nat × List Word)
  commits : Nat
  ending : Nat
  park   : Park
  stop   : Bool
  immune : Option (Nat × Nat)
  pages  : List Nat
  recaddr : DWord
  deriving DecidableEq, Repr

/-! ### Hub -/

/-- A record between its emitter and its queue (R28, R118): the emitter (a unit, or 0x10000 + wave) and its stack, the
destination queue, and whether its placement is parked (R142). -/
structure Transit where
  src   : Nat
  stack : Nat
  ctx   : Nat
  img   : Nat
  node  : Nat
  rcd   : Rec
  park  : Park
  deriving DecidableEq, Repr

/-- A fault or event report on its way to the log (R74). -/
structure Report where
  cause : Nat
  ctx   : Nat
  flags : Nat
  va    : Nat
  unit  : Nat
  wave  : Nat
  sub   : Nat
  pc    : Nat
  lanes : Mask
  detail : Nat
  time  : Option Nat
  snap  : Bool
  deriving DecidableEq, Repr

inductive DieSt | run | quiesce | drain | held | init
  deriving DecidableEq, Repr

/-- A compute or foundation die (R40-R47): state, when it was entered, DRAIN_FAIL, the contexts faulted at the end of
QUIESCE whose entries wait for the drain, and whether a compute die follows its foundation die. -/
structure Die where
  st    : DieSt
  since : Nat
  fail  : Bool
  hit   : List Nat
  follow : Bool
  deriving DecidableEq, Repr

def Die.reset : Die := { st := .run, since := 0, fail := false, hit := [], follow := false }

inductive LinkSt | up | training (since : Nat) | down
  deriving DecidableEq, Repr

/-- A display head (R84, R85). -/
structure Head where
  ctl    : DWord
  timing : DWord
  surf   : DWord
  pixclk : DWord
  sync   : DWord
  pitch  : DWord
  frames : BitVec 32
  flip   : Bool
  latched : Nat
  stopping : Bool
  shown  : List Nat
  deriving DecidableEq, Repr

def Head.reset : Head :=
  { ctl := 0, timing := 0, surf := 0, pixclk := 0, sync := 0, pitch := 0, frames := 0, flip := false, latched := 0,
    stopping := false, shown := [] }

/-- A frame being encoded (R87, R88): its consumer, whether it has started, whether it is a key frame, what the header
held at its start, the next stream byte, the last RD read, and the encoded bytes still to write. -/
structure VFrame where
  cons   : Cons
  begun  : Bool
  key    : Bool
  size   : Nat
  start  : Nat
  frames : Nat
  next   : Nat
  rd     : Nat
  left   : List Byte
  deriving DecidableEq, Repr

/-- A video session (R86-R88): its register, the records waiting, the frame in progress, and whether it is stalled or
parked. -/
structure Venc where
  reg    : DWord
  queue  : List Transit
  cur    : Option VFrame
  stalled : Bool
  park   : Park
  deriving DecidableEq, Repr

def Venc.reset : Venc := { reg := 0, queue := [], cur := none, stalled := false, park := .no }

/-- What survives a module reset (R37, R50, R82, R83): fused-off cores, the key hashes, the secret and the certificates of the
identity keys, the minimum SVN, the boot counter, the trip record, and the flash. -/
structure Fuses where
  fused   : List Nat
  keyE    : List Byte
  keyL    : List Byte
  secret  : Nat
  certs   : List (List Byte)
  minSvn  : Nat
  boots   : Nat
  trip    : Bool
  flash   : SMap Byte
  deriving DecidableEq, Repr

/-- The attestation keys of this boot (R83): the two private keys, and the identity keys' signatures over the public ones. -/
structure BootKeys where
  ecdsa : Nat
  seed  : List Byte
  lmsId : List Byte
  certE : List Byte
  certL : List Byte
  deriving DecidableEq, Repr

/-- An attestation report (R83): the measurements, the ECDSA signature, and the LMS co-signature of block 0xF0. -/
structure AttReport where
  digest  : List Byte
  svn     : Nat
  fuses   : List Byte
  harvest : List Nat
  ecdsa   : List Byte
  block0xF0 : List Byte
  deriving DecidableEq, Repr

/-- The hub's registers and queues (R51, R55, R72-R83); `barLog` is log2 of the size of BAR 2, `vecTab` the bytes of the
MSI-X table and `pba` the pending vectors of BAR 4. -/
structure Hub where
  errStatus : Nat
  errLast   : Nat
  errCorr   : Nat
  retry     : SMap Nat
  flogBase  : Nat
  flogLog   : Nat
  flogWr    : BitVec 32
  flogRd    : BitVec 32
  held      : List Report
  reports   : List Report
  inval     : Option (Nat × Nat × Nat)
  sysOffset : DWord
  apBase    : DWord
  barLog    : Nat
  vecTab    : SMap Byte
  pba       : List Nat
  fwState   : Nat
  fwFail    : Nat
  svn       : Nat
  version   : DWord
  digest    : List Byte
  keys      : Option BootKeys
  flashWrite : Bool
  staging   : SMap Byte
  reportsDone : Nat
  snaptCtx  : Word
  snapClass : Nat
  armed     : Bool
  snapSeq   : Nat
  snapCause : Nat
  snapCtx   : Nat
  snapSrc   : Nat
  taken     : Bool
  bank      : SMap DWord
  doe       : List (Option AttReport)
  deriving DecidableEq, Repr

def Hub.reset (trip : Bool) : Hub :=
  { errStatus := if trip then 512 else 0, errLast := 0, errCorr := 0, retry := [], flogBase := 0, flogLog := 0,
    flogWr := 0, flogRd := 0, held := [], reports := [], inval := none, sysOffset := 0, apBase := 0, barLog := 38,
    vecTab := [], pba := [], fwState := 0, fwFail := 0, svn := 0, version := 0, digest := [], keys := none, flashWrite := false, staging := [], reportsDone := 0,
    snaptCtx := 0, snapClass := 0, armed := true, snapSeq := 0, snapCause := 0, snapCtx := 0, snapSrc := 0,
    taken := false, bank := [], doe := [] }

/-! ### The schedule -/

/-- One move of the world: an event or unit step, a host access to BAR 0 or BAR 4, a new size of BAR 2 (R51), a write by the host to its own memory (R28, R54), or
a memory error that strikes the sector of an address, corrected or not (R25, R26), or an uncorrectable one in a tile or
sub-tile of a sequencer (R433). -/
inductive Act
  | event (i : Instr)
  | issue (u : Actor)
  | hostWrite (w : HostWrite)
  | hostRead (off : Nat) (wide : Bool)
  | hostBad (off n : Nat) (isRead : Bool) (val : Nat) (relaxed : Bool)
  | barSize (log : Nat)
  | vecWrite (off : Nat) (bs : List Byte)
  | vecRead (off n : Nat)
  | hostMem (a : Nat) (bs : List Byte)
  | ecc (pa : Nat) (fixed : Bool)
  | eccTile (k part : Nat)
  deriving DecidableEq, Repr

/-- A move and the clock edges that passed before it: of the tree, of the hub, and of the base die of each DRAM stack (R5,
R34). -/
structure Tick where
  a   : Nat
  h   : Nat
  m   : List Nat
  act : Act
  deriving DecidableEq, Repr

/-- How the word being run left its unit: done, waiting at issue, entering a vertical FIFO entry by entry (R253), faulted, or
parked at the word. -/
inductive Issue | done | wait | hold | faulted | parked
  deriving DecidableEq, Repr

/-- The state of the module. -/
structure State where
  -- the model's own: the schedule, the unit whose word runs and how it ended, and the counters
  sched  : List Tick
  cur    : Option Actor
  issue  : Issue
  free   : Nat
  nextId : Nat
  -- clocks (R31, R32, R55, R448)
  hclk   : Nat
  aclk   : Nat
  mclk   : SMap Nat
  point  : Nat
  moving : Option Nat
  stopAt : Nat
  missed : SMap Nat
  ratio  : SMap Nat
  power  : Bool
  paced  : List Nat
  lock   : Nat
  -- dies, links, fuses (R27-R47)
  dies   : SMap Die
  links  : SMap LinkSt
  fuses  : Fuses
  -- hub, display, video, messages (R51-R89)
  hub    : Hub
  heads  : SMap Head
  vencs  : SMap Venc
  msix   : List Nat
  msgs   : List (Nat × Nat)
  answers : List DWord
  -- contexts and queues (R58-R146)
  ctxs   : SMap Ctx
  queues : SMap Queue
  transit : List Transit
  mdisp  : SMap (List Transit)
  claims : SMap Nat
  steals : List Steal
  -- cores (R147-R182)
  teams  : SMap Team
  waves  : SMap Wave
  carve  : SMap Nat
  -- memory (R183-R222)
  mem    : List Host.Cell
  l2old  : SMap (BitVec 1024)
  l2clean : List Nat
  sys    : List Host.Cell
  l1     : SMap Line
  tlb1   : SMap (List TlbE)
  tlb2   : SMap (List TlbE)
  walks  : List Walk
  wfault : List WalkFault
  mons   : List Mon
  poison : List Nat
  longs  : List LongOp
  -- clusters (R253-R274, R402-R434)
  vqs    : SMap VQueue
  engines : SMap Engine
  seqs   : SMap Seq
  savedSeqs : List Seq
  rngs   : SMap Rng
  -- moraine (R435-R456)
  kerns  : SMap Kern
  savedKerns : List (Nat × Nat × Kern)
  -- per-unit counts of completed operations (R77)
  counts : SMap Nat
  deriving DecidableEq, Repr

/-- The fuses of the module the model shows: no core fused off, no key programmed, an empty flash (log 5).
DESIGN CHOICE, unsafe. -/
def Fuses.fresh : Fuses :=
  { fused := [], keyE := List.replicate 48 0, keyL := List.replicate 48 0, secret := 0, certs := [], minSvn := 0, boots := 0, trip := false, flash := [] }

/-- The module right after a module reset, given what survives it (R39).
DESIGN CHOICE, log 4, unsafe: the values the spec does not state. -/
def State.resetWith (f : Fuses) : State :=
  { sched := [], cur := none, issue := .done, free := 0, nextId := 0, hclk := 0, aclk := 0, mclk := [],
    point := Config.resetPoint, moving := none, stopAt := 0, missed := [], ratio := [], power := true, paced := [], lock := 0,
    dies := [], links := [], fuses := { f with trip := false }, hub := Hub.reset f.trip, heads := [], vencs := [],
    msix := [], msgs := [], answers := [], ctxs := [], queues := [], transit := [], mdisp := [], claims := [], steals := [], teams := [], waves := [],
    carve := [], mem := [], l2old := [], l2clean := [], sys := [], l1 := [], tlb1 := [], tlb2 := [], walks := [], wfault := [],
    mons := [], poison := [], longs := [], vqs := [], engines := [], seqs := [], savedSeqs := [], rngs := [], kerns := [],
    savedKerns := [], counts := [] }

/-- The machine right after reset (R39, and the reset values of every register). -/
def State.reset : State := State.resetWith Fuses.fresh

/-! ### Readings of the state -/

def State.ctx (s : State) (c : Nat) : Ctx := SMap.get Ctx.reset s.ctxs c
def State.setCtx (s : State) (c : Nat) (x : Ctx) : State := { s with ctxs := SMap.set Ctx.reset c x s.ctxs }
def State.die (s : State) (d : Nat) : Die := SMap.get Die.reset s.dies d
def State.setDie (s : State) (d : Nat) (x : Die) : State := { s with dies := SMap.set Die.reset d x s.dies }
def State.setWave (s : State) (v : Nat) (x : Wave) : State := { s with waves := SMap.insert v x s.waves }
def State.setTeam (s : State) (t : Nat) (x : Team) : State := { s with teams := SMap.insert t x s.teams }
def State.setSeq (s : State) (k : Nat) (x : Seq) : State := { s with seqs := SMap.insert k x s.seqs }
def State.setKern (s : State) (m : Nat) (x : Kern) : State := { s with kerns := SMap.insert m x s.kerns }
def State.setQueue (s : State) (q : Nat) (x : Queue) : State := { s with queues := SMap.insert q x s.queues }
def State.engine (s : State) (k : Nat) : Engine := SMap.get Engine.reset s.engines k
def State.vq (s : State) (g : Nat) : VQueue := SMap.get VQueue.reset s.vqs g
def State.rng (s : State) (k : Nat) : Rng := SMap.get Rng.reset s.rngs k
def State.head (s : State) (h : Nat) : Head := SMap.get Head.reset s.heads h
def State.venc (s : State) (n : Nat) : Venc := SMap.get Venc.reset s.vencs n
/-- Edges the base die of a DRAM stack has counted (R34). -/
def State.mclkOf (s : State) (d : Nat) : Nat := SMap.get 0 s.mclk d

end Sys2Proof.Machine
end

