-- ==== Sys2Proof/Machine/Operands.lean ====
section
/-!
DEFINITION. Operands of native words: the codes and kinds of R281-R286 with the reasons of R288, the registers a word
names (R159, R166), reading a source with the outcomes R293 permits, and writing a destination (R287, R290, R337).
-/

namespace Sys2Proof.Machine

/-- What a position accepts (R282, R285, R306, and the encoding tables of spec/10-13); `maskJoin` is the mask that JOIN,
LEAVE and WAITM test (R153), `only` a position that refuses every other code alike (R320). -/
inductive OpKind2
  | src
  | srcN (n : Nat)
  | dst
  | dstN (n : Nat)
  | maskSrc
  | maskDst
  | maskOrDst
  | maskJoin
  | idxSrc
  | idxDst
  | uni
  | uniPair
  | vSrc (n : Nat)
  | vBlock (n : Nat)
  | regPair
  | vDst (n align : Nat)
  | wDst
  | codes (cs : List Nat)
  | only (cs : List Nat)
  deriving DecidableEq, Repr

def isV (c : Nat) : Bool := decide (c < 0x100)
def isW (c : Nat) : Bool := decide (0x100 ≤ c ∧ c < 0x140)
def isM (c : Nat) : Bool := decide (0x140 ≤ c ∧ c < 0x14C)
def isX (c : Nat) : Bool := decide (0x150 ≤ c ∧ c < 0x158)
def isSpecial (c : Nat) : Bool := decide (0x160 ≤ c ∧ c < 0x174)
def isConst (c : Nat) : Bool := decide (0x180 ≤ c ∧ c < 0x1C0)
/-- Special values that differ from lane to lane (R283). -/
def isLaneSpecial (c : Nat) : Bool := c == 0x160 || c == 0x168 || c == 0x169 || c == 0x16E
def isReserved (c : Nat) : Bool := !(isV c || isW c || isM c || isX c || isSpecial c || isConst c)

/-- The reason of R288 with which a position of a kind refuses a code. -/
def operandReason (k : OpKind2) (c : Nat) : Option Nat :=
  let ro := isSpecial c || isConst c
  match k with
  | .codes cs => if cs.contains c then none else if isReserved c then some 1 else some 2
  | .only cs => if cs.contains c then none else some 2
  | k =>
    if isReserved c then some 1
    else match k with
      | .src => if isV c || isW c || ro then none else some 2
      | .srcN n =>
        if isV c || isW c then (if c % n = 0 then none else some 4)
        else if isConst c then (if n = 2 then none else some 2)
        else if isSpecial c then (if n ≠ 2 then some 2 else if c = 0x170 ∨ c = 0x172 then none else some 4)
        else some 2
      | .dst => if isV c || isW c then none else if ro then some 3 else some 2
      | .dstN n => if isV c || isW c then (if c % n = 0 then none else some 4) else if ro then some 3 else some 2
      | .maskSrc => if isM c then none else some 2
      | .maskDst => if isM c then none else if ro then some 3 else some 2
      | .maskJoin => if isM c then none else if ro then some 3 else some 2
      | .maskOrDst => if isM c || isV c || isW c then none else if ro then some 3 else some 2
      | .idxSrc => if isX c then none else some 2
      | .idxDst => if isX c then none else if ro then some 3 else some 2
      | .uni => if isW c || isConst c || (isSpecial c && !isLaneSpecial c) then none else some 2
      | .uniPair =>
        if isW c then (if c % 2 = 0 then none else some 4)
        else if isConst c then none
        else if isSpecial c then (if c = 0x170 ∨ c = 0x172 then none else some 4)
        else some 2
      | .vSrc _ => if isV c then none else some 2
      | .vBlock _ => if isV c then none else some 2
      | .regPair => if isV c || isW c then (if c % 2 = 0 then none else some 4) else some 2
      | .vDst _ al => if isV c then (if c % al = 0 then none else some 4) else if ro then some 3 else some 2
      | .wDst => if isW c then none else if ro then some 3 else some 2
      | .codes _ => none
      | .only _ => none

/-- How many registers a position names from its code on; of a record's data words the range check of R288 sees the first,
and the instruction's own check the rest (R321). -/
def OpKind2.count : OpKind2 → Nat
  | .srcN n => n
  | .dstN n => n
  | .uniPair => 2
  | .regPair => 2
  | .vSrc n => n
  | .vDst n _ => n
  | .codes _ => 0
  | .only _ => 0
  | _ => 1

/-- How many registers a position reads or writes from its code on. -/
def OpKind2.span : OpKind2 → Nat
  | .vBlock n => n
  | k => k.count

/-- The lowest reason of R288 among a word's operands. -/
def operandsReason (ops : List (OpKind2 × BitVec 9)) : Option Nat :=
  (ops.filterMap (fun o => operandReason o.1 o.2.toNat)).foldl
    (fun a r => match a with | none => some r | some x => some (min x r)) none

/-- The node of a wave (R92). -/
def nodeOf (s : State) (c img node : Nat) : Option NodeInfo :=
  match SMap.find? (s.ctx c).images img with
  | some im => im.nodes[node]?
  | none => none

/-- Whether a v register may be named by a wave: below VREGS and outside the window, or below 64 in an access wave
(R159, R166). -/
def vInRange (n : NodeInfo) (acc : Bool) (r : Nat) : Bool :=
  if acc then decide (r < 64) else decide (r < n.vregs) && !decide (n.qbase ≤ r ∧ r < n.qbase + n.qlen)
def wInRange (n : NodeInfo) (acc : Bool) (r : Nat) : Bool := if acc then decide (r < 16) else decide (r < n.wregs)

/-- R159, R166, R285: every v and w register an operand names is in range. -/
def operandInRange (n : NodeInfo) (acc : Bool) (o : OpKind2 × BitVec 9) : Bool :=
  let c := o.2.toNat
  if isV c then (List.range o.1.count).all (fun j => decide (c + j < 256) && vInRange n acc (c + j))
  else if isW c then (List.range o.1.count).all (fun j => decide (c + j < 0x140) && wInRange n acc (c - 0x100 + j))
  else true

/-- The key of a register: v × 64 + lane, 0x4000 + w, 0x4100 + m, 0x4200 + x. -/
def vKey (r l : Nat) : Nat := r * 64 + l
def wKey (r : Nat) : Nat := 0x4000 + r
def mKey (r : Nat) : Nat := 0x4100 + r
def xKey (r : Nat) : Nat := 0x4200 + r

/-- A load into the window writes the compute wave's registers, not its own wave's (R167). -/
def PendOp.isPush (o : PendOp) : Bool := match o.kind with | .push _ => true | _ => false

/-- What a register may give beside the value it holds, while writes of it are pending (R293): the values before the
writes that are not yet readable, and those of operations in flight (but of a texture word, whose result is not known
yet). -/
def pendingVals (wv : Wave) (key : Nat) : List DWord :=
  ((wv.haz.filter (fun h => h.key == key && decide (wv.cyc < h.ready))).map (·.old)) ++
  wv.ops.flatMap (fun o => match o.kind with
    | .tex => []
    | .push _ => []
    | _ => (o.regs.filter (fun r => r.key == key)).map (fun r => r.val.setWidth 64))

/-- One of the values R293 permits, chosen freely. -/
def choose {α : Type} (free idx : Nat) (others : List α) (x : α) : α :=
  (others[Config.freeNat free idx % (others.length + 1)]?).getD x

/-- The index of the free choice of a lane on a register. -/
def lanePick (key l : Nat) : Nat := 0x1000000 + key * 64 + l

/-- What a lane reads of a register: its value, or with a write pending on it any value R293 permits. -/
def readKey (s : State) (wv : Wave) (key l : Nat) (now : Word) : Word :=
  choose s.free (lanePick key l) ((pendingVals wv key).map (·.setWidth 32)) now

def Wave.getV (wv : Wave) (r l : Nat) : Word := SMap.get 0 wv.v (vKey r l)
def Wave.getW (wv : Wave) (r : Nat) : Word := SMap.get 0 wv.w r
def Wave.getM (wv : Wave) (r : Nat) : Mask := SMap.get 0 wv.m r
def Wave.getX (wv : Wave) (r : Nat) : Nat × Nat := SMap.get (0, 0) wv.x r
def Wave.getTok (wv : Wave) (k : Nat) : Nat := SMap.get 0 wv.tok k

def readV (s : State) (wv : Wave) (r l : Nat) : Word := readKey s wv (vKey r l) l (wv.getV r l)
def readW (s : State) (wv : Wave) (r l : Nat) : Word := readKey s wv (wKey r) l (wv.getW r)

/-- A mask register as an operand (R313): a pending change may or may not be read (R293). -/
def readM (s : State) (wv : Wave) (r : Nat) : Mask :=
  match pendingVals wv (mKey r) with
  | [] => wv.getM r
  | os => maskOf ((List.range 64).filter (fun l =>
      choose s.free (lanePick (mKey r) l) (os.map (·.getLsbD l)) ((wv.getM r).getLsbD l)))

/-- An x register as a lane reads it: base and limit, old or new while a write is pending (R293). -/
def readX (s : State) (wv : Wave) (r l : Nat) : Nat × Nat :=
  choose s.free (lanePick (xKey r) l)
    ((pendingVals wv (xKey r)).map (fun o => (o.toNat % 2 ^ 32, o.toNat / 2 ^ 32))) (wv.getX r)

/-- The type in which a position reads an inline floating-point constant (R284). -/
inductive ConstTy | int | packed (t : Fmt)
  deriving DecidableEq, Repr

/-- ±2^(k/2 − 3), the positive value first in each pair (R284). -/
def fltConst (t : Fmt) (k : Nat) : Nat :=
  (t.bias + k / 2 - 3) * 2 ^ t.f + (if k % 2 = 1 then t.sign else 0)

/-- An inline constant in a 32-bit position (R284). -/
def const32 (ty : ConstTy) (c : Nat) : Word :=
  if c < 0x1A0 then BitVec.ofNat 32 (c - 0x180)
  else if c < 0x1B0 then BitVec.ofNat 32 (2 ^ 32 - 16 + (c - 0x1A0))
  else match ty with
    | .int => BitVec.ofNat 32 (fltConst fp32 (c - 0x1B0))
    | .packed t => BitVec.ofNat 32 (fltConst t (c - 0x1B0) * 65537)

/-- An inline constant in a 64-bit position (R284). -/
def const64 (c : Nat) : DWord :=
  if c < 0x1A0 then BitVec.ofNat 64 (c - 0x180)
  else if c < 0x1B0 then BitVec.ofNat 64 (2 ^ 64 - 16 + (c - 0x1A0))
  else BitVec.ofNat 64 (fltConst fp64 (c - 0x1B0))

/-- Core, stack and cluster of a wave (R3). -/
def coreOfWave (v : Nat) : Nat := v / 48
def stackOfCore (g : Nat) : Nat := g / 96
def clusterOfCore (g : Nat) : Nat := g / 96 * 24 + g % 96 / 4

/-- The usable cores of a stack in ascending physical id (R56). -/
def usable (s : State) (st : Nat) : List Nat := (List.range 96).filter (fun p => !s.fuses.fused.contains (st * 96 + p))

/-- The logical id of a core (R56): the number of usable cores of its stack below it. -/
def logicalId (s : State) (g : Nat) : Nat :=
  ((usable s (stackOfCore g)).filter (fun p => decide (p < g % 96))).length

/-- The lane's record, if it has one. -/
def laneRec (wv : Wave) (l : Nat) : Option Rec := wv.recs[l]?

/-- Edges a core has received since module reset (R283). -/
def coreEdges (s : State) (g : Nat) : Nat := s.aclk - SMap.get 0 s.missed g

/-- The launch's ARG_ADDR (R66, R283). -/
def argOf (s : State) (c tag : Nat) : DWord :=
  match SMap.find? (s.ctx c).launches tag with
  | some l => l.arg
  | none => 0

/-- The special values of R283. In an access wave they are those of its compute wave, whose slot is `pair`; cyclo and
cychi count the edges the core has received at the word's first issue cycle. -/
def special (s : State) (v : Nat) (wv : Wave) (c l : Nat) : Word :=
  let n32 (n : Nat) : Word := BitVec.ofNat 32 n
  let g := coreOfWave v
  let own := if wv.access then (match wv.pair with | some p => p | none => v) else v
  match c with
  | 0x160 => n32 l
  | 0x161 => n32 (own % 48)
  | 0x162 => n32 wv.idx
  | 0x163 => match SMap.find? s.teams wv.team with
      | some t => n32 ((t.waves.filter (fun k => match SMap.find? s.waves k with | some u => !u.access | none => false)).length + t.ended)
      | none => 0
  | 0x164 => n32 (stackOfCore g)
  | 0x165 => n32 (g % 96 / 4)
  | 0x166 => n32 (g % 96)
  | 0x167 => n32 (logicalId s g)
  | 0x168 => n32 (wv.idx * wv.width + l)
  | 0x169 => match laneRec wv l with
      | some r => (match r.entry with | some i => n32 i | none => 0xFFFFFFFF)
      | none => 0xFFFFFFFF
  | 0x16A => n32 wv.n
  | 0x16B => n32 wv.width
  | 0x16C => n32 wv.ctx
  | 0x16D => n32 wv.tag
  | 0x16E => match laneRec wv l with | some r => n32 r.depth | none => 0
  | 0x16F => n32 wv.node
  | 0x170 => n32 wv.cyc
  | 0x171 => n32 (wv.cyc / 2 ^ 32)
  | 0x172 => (argOf s wv.ctx wv.tag).setWidth 32
  | 0x173 => n32 ((argOf s wv.ctx wv.tag).toNat / 2 ^ 32)
  | _ => 0

/-- ReadOperand of a 32-bit source in a lane (R281-R284). -/
def readSrc (s : State) (v : Nat) (wv : Wave) (ty : ConstTy) (code : BitVec 9) (l : Nat) : Word :=
  let c := code.toNat
  if isV c then readV s wv c l
  else if isW c then readW s wv (c - 0x100) l
  else if isConst c then const32 ty c
  else special s v wv c l

/-- ReadOperand of a 64-bit source in a lane (R285). -/
def readPair (s : State) (v : Nat) (wv : Wave) (code : BitVec 9) (l : Nat) : DWord :=
  let c := code.toNat
  if isConst c then const64 c
  else readSrc s v wv .int (code + 1) l ++ readSrc s v wv .int code l

/-- The lowest lane of a mask; 64 when empty. -/
def lowestLane (e : Mask) : Nat := (lanesOf e).headD 64

/-- A uniform source: the same in every lane (R306). -/
def readUni (s : State) (v : Nat) (wv : Wave) (code : BitVec 9) : Word := readSrc s v wv .int code 0
def readUniPair (s : State) (v : Nat) (wv : Wave) (code : BitVec 9) : DWord := readPair s v wv code 0

/-- The cycle from which every earlier write of a register is readable. -/
def Wave.until (wv : Wave) (key : Nat) : Nat :=
  (wv.haz.filter (fun h => h.key == key)).foldl (fun m h => max m h.ready) 0

/-- An earlier write becomes readable only after one that is readable at `ready`: either value may remain (R293). -/
def Wave.later (wv : Wave) (key ready : Nat) : Bool := decide (ready < wv.until key)

/-- Note a write of a register: what it leaves is readable at `ready`; until then, or until an earlier write that is
readable later, `other` may be read in its place, and the values before earlier writes until `ready` (R290, R293). An
operation in flight on the register is contested. -/
def Wave.note (wv : Wave) (key : Nat) (other : DWord) (ready : Nat) : Wave :=
  { wv with
    haz := { key := key, old := other, ready := max ready (wv.until key) } ::
      wv.haz.map (fun h => if h.key == key then { h with ready := min h.ready ready } else h)
    ops := wv.ops.map (fun o => if o.isPush then o else
      { o with regs := o.regs.map (fun r => if r.key == key then { r with contested := true } else r) }) }

/-- Of the value a register holds and a new one readable at `ready`, the old one remains (R293). -/
def keeps (free : Nat) (wv : Wave) (key l ready : Nat) : Bool :=
  wv.later key ready && Config.freeBit free (lanePick key l)

def Wave.setV (wv : Wave) (r l : Nat) (x : Word) : Wave := { wv with v := SMap.set 0 (vKey r l) x wv.v }
def Wave.setW (wv : Wave) (r : Nat) (x : Word) : Wave := { wv with w := SMap.set 0 r x wv.w }
def Wave.setM (wv : Wave) (r : Nat) (x : Mask) : Wave := { wv with m := SMap.set 0 r x wv.m }

/-- Write one v register in one lane, readable at `ready`. -/
def Wave.writeV (free ready : Nat) (wv : Wave) (r l : Nat) (x : Word) : Wave :=
  let now := wv.getV r l
  let keep := keeps free wv (vKey r l) l ready
  (wv.setV r l (if keep then now else x)).note (vKey r l) ((if keep then x else now).setWidth 64) ready

def Wave.writeW (free ready : Nat) (wv : Wave) (r : Nat) (x : Word) : Wave :=
  let now := wv.getW r
  let keep := keeps free wv (wKey r) 0 ready
  (wv.setW r (if keep then now else x)).note (wKey r) ((if keep then x else now).setWidth 64) ready

/-- The last issue cycle of a word with execution mask e: two cycles when both halves hold a lane (R151). -/
def lastCycle (wv : Wave) (e : Mask) : Nat :=
  wv.cyc + (if e.extractLsb' 0 32 ≠ 0 ∧ e.extractLsb' 32 32 ≠ 0 then 1 else 0)

/-- WriteOperand of a 32-bit result of latency lat: each lane of e for a v register, the lowest lane's value for a w
register (R287, R337). -/
def Wave.put (free lat : Nat) (wv : Wave) (code : BitVec 9) (e : Mask) (f : Nat → Word) : Wave :=
  let c := code.toNat
  let ready := lastCycle wv e + lat
  if isV c then (lanesOf e).foldl (fun u l => u.writeV free ready c l (f l)) wv
  else if e = 0 then wv
  else wv.writeW free ready (c - 0x100) (f (lowestLane e))

/-- WriteOperand of a 64-bit result into a register pair (R285). -/
def Wave.putPair (free lat : Nat) (wv : Wave) (code : BitVec 9) (e : Mask) (f : Nat → DWord) : Wave :=
  (wv.put free lat code e (fun l => (f l).setWidth 32)).put free lat (code + 1) e (fun l => (f l).extractLsb' 32 32)

/-- The lanes of e in which a mask register keeps the bit it holds (R293). -/
def keptLanes (free : Nat) (wv : Wave) (r : Nat) (e : Mask) (ready : Nat) : Mask :=
  if wv.later (mKey r) ready then maskOf ((lanesOf e).filter (fun l => Config.freeBit free (lanePick (mKey r) l))) else 0

/-- Write the bits of a mask register for the lanes of e, readable as an operand after the latency (R287, R313). -/
def Wave.putM (free lat : Nat) (wv : Wave) (r : Nat) (e : Mask) (f : Nat → Bool) : Wave :=
  let now := wv.getM r
  let new := (now &&& ~~~ e) ||| maskOf ((lanesOf e).filter f)
  let keep := keptLanes free wv r e (lastCycle wv e + lat)
  if e = 0 then wv else ((wv.setM r ((new &&& ~~~ keep) ||| (now &&& keep)))).note (mKey r) ((now &&& ~~~ keep) ||| (new &&& keep)) (lastCycle wv e + lat)

/-- Write an x register, readable after the latency (R364). -/
def Wave.putX (free lat : Nat) (wv : Wave) (r : Nat) (e : Mask) (x : Nat × Nat) : Wave :=
  let now := wv.getX r
  let keep := keeps free wv (xKey r) 0 (lastCycle wv e + lat)
  let other := if keep then x else now
  { wv with x := SMap.set (0, 0) r (if keep then now else x) wv.x }.note (xKey r)
    (BitVec.ofNat 64 (other.1 + other.2 * 2 ^ 32)) (lastCycle wv e + lat)

/-- The register results of an operation in flight (R291): one write for each lane, or the lowest lane's for w. -/
def regWrites (code : BitVec 9) (e : Mask) (f : Nat → Word) : List RegWrite :=
  let c := code.toNat
  if isV c then (lanesOf e).map (fun l => { key := vKey c l, val := f l, contested := false })
  else if isW c ∧ e ≠ 0 then [{ key := wKey (c - 0x100), val := f (lowestLane e), contested := false }]
  else []

/-! ### Sequencer operands (R286) -/

/-- What a position of a sequencer word accepts. -/
inductive SeqKind | val | q | tile | qOrConst
  deriving DecidableEq, Repr

def isSeqSpecial (c : Nat) : Bool := c == 0x164 || c == 0x165 || c == 0x16C || c == 0x16D || c == 0x16F || c == 0x172

/-- The reason of R288 for a sequencer operand. -/
def seqReason (k : SeqKind) (dst : Bool) (c : Nat) : Option Nat :=
  let q := decide (c < 0x20)
  let t := decide (0x20 ≤ c ∧ c < 0x30)
  let ro := isSeqSpecial c || isConst c
  if !(q || t || ro) then some 1
  else match k with
    | .val => if q || ro then none else some 2
    | .q => if q then none else if dst && ro then some 3 else some 2
    | .tile => if t then none else if dst && ro then some 3 else some 2
    | .qOrConst => if q || isConst c then none else some 2

/-- The value of a sequencer source (R286). -/
def seqRead (s : State) (k : Nat) (sq : Seq) (code : BitVec 9) : DWord :=
  let c := code.toNat
  if c < 0x20 then
    choose s.free (lanePick c 0)
      ((sq.haz.filter (fun h => h.key == c && decide (sq.cyc < h.ready))).map (·.old) ++
        (sq.gets.filter (fun g => g.q == c)).map (·.val)) (SMap.get 0 sq.q c)
  else if isConst c then const64 c
  else match c with
    | 0x164 => BitVec.ofNat 64 (k / 24)
    | 0x165 => BitVec.ofNat 64 (k % 24)
    | 0x16C => BitVec.ofNat 64 sq.cons.ctx
    | 0x16D => BitVec.ofNat 64 sq.cons.tag
    | 0x16F => BitVec.ofNat 64 sq.cons.node
    | 0x172 => argOf s sq.cons.ctx sq.cons.tag
    | _ => 0

/-- Write a q register with latency 2 (R289); a GETSR in flight to it is contested (R293). -/
def Seq.putQ (sq : Seq) (r : Nat) (x : DWord) : Seq :=
  let now := SMap.get 0 sq.q r
  { sq with
    q := SMap.set 0 r x sq.q
    gets := sq.gets.map (fun g => if g.q = r then { g with contested := true } else g)
    haz := { key := r, old := now, ready := sq.cyc + 2 } :: sq.haz.filter (fun h => h.key != r) }

end Sys2Proof.Machine
end

