-- ==== Sys2Proof/Machine/Flags.lean ====
section
/-!
DEFINITION. The flags the spec computes: the sticky numeric status NSTAT (R248), the outcomes of compares (R346, R351,
R409) and what a mask or value destination receives of them.
-/

namespace Sys2Proof.Machine

/-- Set NSTAT bits; no instruction clears one (R248). -/
def Wave.flag (wv : Wave) (b : Nat) : Wave := { wv with nstat := wv.nstat ||| BitVec.ofNat 32 b }
def Seq.flag (sq : Seq) (b : Nat) : Seq := { sq with nstat := sq.nstat ||| BitVec.ofNat 32 b }
def MRegs.flag (r : MRegs) (b : Nat) : MRegs := { r with nstat := r.nstat ||| BitVec.ofNat 32 b }

/-- ICMP's outcome: signed, or unsigned under .U (R346). -/
def Cmp.holds (cc : Cmp) (u : Bool) (a b : Word) : Bool :=
  match cc with
  | .eq => a == b
  | .ne => a != b
  | .lt => if u then a.ult b else a.slt b
  | .le => if u then a.ule b else a.sle b
  | .gt => if u then b.ult a else b.slt a
  | .ge => if u then b.ule a else b.sle a

/-- SCMP's outcome; LT and GE are signed (R409). -/
def SCmp.holds (cc : SCmp) (a b : DWord) : Bool :=
  match cc with
  | .eq => a == b
  | .ne => a != b
  | .lt => a.slt b
  | .ge => b.sle a

def FCmp.num : FCmp → Nat
  | .eq => 0 | .ne => 1 | .lt => 2 | .le => 3 | .gt => 4 | .ge => 5 | .un => 6 | .ord => 7

/-- 1 for true, 0 for false: what a value destination of a compare receives (R346, R351). -/
def boolWord (b : Bool) : Word := if b then 1 else 0

/-- A wave's mask registers after threads exit: their bits leave every mask and arrival set (R152, R326). -/
def Wave.dropLanes (wv : Wave) (e : Mask) : Wave :=
  { wv with
    m := wv.m.filterMap (fun p => let x := p.2 &&& ~~~ e; if x = 0 then none else some (p.1, x))
    arr := wv.arr.filterMap (fun p => let x := p.2 &&& ~~~ e; if x = 0 then none else some (p.1, x)) }

end Sys2Proof.Machine
end

