-- ==== Sys2Proof/Machine/Ops.lean ====
section
/-!
DEFINITION. The shared operations: faults and parking (R69, R71, R74, R75, R199, R279), the prologue of a native word
(R288), operations in flight (R291), and memory: the physical map (R23, R176, R438), homes, the L1 states (R189-R192),
translation (R183, R196, R198) and reads and writes of bytes.
-/

namespace Sys2Proof.Machine

/-! ### Cause codes (R335) -/

def fPageNotPresent : Nat := 0x01
def fPagePerm : Nat := 0x02
def fIllegalInstr : Nat := 0x10
def fIllegalOperand : Nat := 0x11
def fRegRange : Nat := 0x12
def fIndexRange : Nat := 0x13
def fClauseEntry : Nat := 0x14
def fScoreboard : Nat := 0x15
def fSysreg : Nat := 0x16
def fMoraineIllegal : Nat := 0x17
def fVaRange : Nat := 0x20
def fLocalRange : Nat := 0x21
def fMisaligned : Nat := 0x22
def fSysAtomic : Nat := 0x23
def fPteFormat : Nat := 0x24
def fPhysRange : Nat := 0x25
def fRangeLock : Nat := 0x26
def fFenceToken : Nat := 0x27
def fMoraineAddr : Nat := 0x28
def fMemoryOffline : Nat := 0x29
def fMorainePlace : Nat := 0x2A
def fEcc : Nat := 0x30
def fMatrixMismatch : Nat := 0x31
def fDieReset : Nat := 0x32
def fSpillExhausted : Nat := 0x33
def fSafepointBound : Nat := 0x34
def fNpBound : Nat := 0x35
def fEmitOverrun : Nat := 0x40
def fContDepth : Nat := 0x41
def fContPort : Nat := 0x42
def fRecordRange : Nat := 0x43
def fResultWord : Nat := 0x44
def fQwinEmpty : Nat := 0x45
def fGraphStall : Nat := 0x46
def fBarState : Nat := 0x50
def fSemRange : Nat := 0x51
def fMaskBusy : Nat := 0x52
def fCallStack : Nat := 0x53
def fNpState : Nat := 0x54
def fScaleWord : Nat := 0x60
def fFormatSlot : Nat := 0x61
def fMatrixState : Nat := 0x62
def fCoopGroup : Nat := 0x63
def fTensorDesc : Nat := 0x64
def fRasterRecord : Nat := 0x65
def fTexDesc : Nat := 0x66
def fBvhFormat : Nat := 0x67
def fTravStack : Nat := 0x68
def fTravState : Nat := 0x69
def fVideoSession : Nat := 0x6A
def fHostStop : Nat := 0x70
def fLaunchFetch : Nat := 0x71
def fLaunchDesc : Nat := 0x72
def fTrap : Nat := 0x80
def fBreak : Nat := 0x81
def fSnaptMark : Nat := 0x82

/-- The kinds of cause (R335): parks, fatal, event. -/
inductive CauseKind | parks | fatal | event
  deriving DecidableEq, Repr

def causeKind (c : Nat) : CauseKind :=
  if c = 1 ∨ c = 2 ∨ c = 0x81 then .parks else if c = 0x82 then .event else .fatal

/-- The bit of SNAP_CTL.CLASS a cause fires (R335), counted from bit 8. -/
def causeClass (c : Nat) : Option Nat :=
  if c ≤ 2 then some 0
  else if c < 0x18 then some 1
  else if c = fEcc then some 2
  else if c = fMatrixMismatch then some 3
  else if c = fDieReset then some 4
  else if c = fSpillExhausted then some 5
  else if c = fSafepointBound ∨ c = fNpBound then some 6
  else if c = fBreak ∨ c = fSnaptMark then none
  else some 7

/-! ### Taking a fault -/

/-- UNIT of R74 for the units that run words. -/
def unitOfCore (g : Nat) : Nat := (1 + g / 96) * 4096 + g % 96
def unitOfCluster (k : Nat) : Nat := (1 + k / 24) * 4096 + 0x100 + k % 24
def unitOfEngine (k : Nat) : Nat := (3 + k / 24) * 4096 + k % 24
def unitOfMoraine (m : Nat) : Nat := (5 + m / 8) * 4096 + m % 8
def unitOfDispatcher (st : Nat) : Nat := (3 + st) * 4096 + 0x200

/-- A unit and wave slot as the asker of a walk, and the asker of the word that runs: units other than waves, sequencers
and moraine cores ask as 0.
DEDUCED, log 11: an operation, a record or a launch of such a unit asks under a number of its own. -/
def askerCode (unit wave : Nat) : Nat := unit * 65536 + wave

/-- The askers that are no words: an operation of a wave by its number, a record by its own, the hub for a context, and for
a launch of it. -/
def askOp (id : Nat) : Nat := 2 ^ 40 + id
def askRec (id : Nat) : Nat := 2 ^ 50 + id
def askHub (c : Nat) : Nat := 2 ^ 60 + c
def askTag (c tag : Nat) : Nat := 2 ^ 61 + tag * 16 + c

def askerOf (s : State) : Nat :=
  match s.cur with
  | some (.wave v) => askerCode (unitOfCore (coreOfWave v)) (v % 48)
  | some (.seq k) => askerCode (unitOfCluster k) 0xFFFF
  | some (.mor m) => askerCode (unitOfMoraine m) 0xFFFF
  | none => 0

/-- What a fault says of itself beyond the unit that takes it (R74, R336). -/
structure FaultInfo where
  cause  : Nat
  sub    : Nat
  va     : Nat
  lanes  : Mask
  detail : Nat
  deriving DecidableEq, Repr

def FaultInfo.of (cause sub : Nat) (lanes : Mask) : FaultInfo :=
  { cause := cause, sub := sub, va := 0, lanes := lanes, detail := 0 }

/-- A report of a fault: FLAGS [0] RESUMABLE for a cause that parks (R74, R335). -/
def reportOf (c unit wave pc : Nat) (f : FaultInfo) : Report :=
  { cause := f.cause, ctx := c, flags := if causeKind f.cause = .parks then 1 else 0, va := f.va, unit := unit,
    wave := wave, sub := f.sub, pc := pc, lanes := f.lanes, detail := f.detail, time := none, snap := false }

/-- Send a report towards the hub (R72). -/
def State.send (s : State) (r : Report) : State := { s with hub := { s.hub with reports := s.hub.reports ++ [r] } }

/-- Send a report of a context; in a context that is FAULTED already it is SECONDARY (R69). -/
def State.report (s : State) (r : Report) : State :=
  s.send (if (s.ctx r.ctx).st = .faulted then { r with flags := r.flags ||| 4 } else r)

/-- TAKING A FATAL FAULT (R69): the context enters FAULTED at once with FATAL_CAUSE, and the report goes out. R59 gives
that edge to ACTIVE (and to WAIT_CLOCK for STOP, execStop); in another state the fault is only reported.
DEDUCED, log 28. -/
def State.fatal (s : State) (r : Report) : State :=
  let x := s.ctx r.ctx
  if x.st = .active then (s.setCtx r.ctx { x with st := .faulted, fatal := r.cause }).send r
  else s.report r

/-- Raise HUB_ERR_STATUS bits; each 0 to 1 transition sends MSI-X vector 1 (R78). -/
def State.err (s : State) (b : Nat) : State :=
  if s.hub.errStatus &&& 2 ^ b = 0 then
    { s with hub := { s.hub with errStatus := s.hub.errStatus ||| 2 ^ b }, msix := s.msix ++ [1] }
  else s

/-- A context's PAGE_WAIT is set while something of it is parked (R59, R71). -/
def State.pageWait (s : State) (c : Nat) : State := s.setCtx c { s.ctx c with pageWait := true }

/-- TAKING A TRANSLATION FAULT (R71, R75): PAGE_WAIT, and one entry for each page not yet reported since the last
REPLAY or ABORT, in ascending order of the lowest lane that touched it. `pages`: cause, page, VA and lanes of each. -/
def State.logPages (s : State) (c unit wave pc : Nat) (pages : List (Nat × Nat × Nat × Mask)) (who : Nat := askerCode unit wave) : State :=
  let mine (w : Nat) : Bool := w == who
  let s := { s with wfault := s.wfault.filter (fun f => !(f.ctx == c && mine f.who && pages.any (fun p => p.2.1 == f.page))) }
  pages.foldl (fun s p =>
    let (cause, page, va, lanes) := p
    let x := s.ctx c
    if x.seen.contains page then s
    else
      (s.setCtx c { x with seen := page :: x.seen }).report
        (reportOf c unit wave pc { cause := cause, sub := 0, va := va, lanes := lanes, detail := 0 }))
    (s.pageWait c)

/-! ### The word a wave or sequencer runs -/

/-- The wave whose word runs, with its clause, node and the word's execution mask (R149). -/
structure WCtx where
  v  : Nat
  wv : Wave
  cl : Clause
  nd : NodeInfo
  e  : Mask
  deriving DecidableEq, Repr

/-- The execution mask of a word: the head run, or its part in the mask register the selector names (R149). -/
def execMask (wv : Wave) (cl : Clause) (msel : BitVec 4) : Mask :=
  if msel = 15 then cl.run else cl.run &&& wv.getM msel.toNat

/-- The wave that runs a word of a selector, if the unit that runs is one. -/
def waveOf (s : State) (msel : BitVec 4) : Option WCtx :=
  match s.cur with
  | some (.wave v) =>
    match SMap.find? s.waves v with
    | some wv =>
      match wv.run, nodeOf s wv.ctx wv.img wv.node with
      | some cl, some nd => some { v := v, wv := wv, cl := cl, nd := nd, e := execMask wv cl msel }
      | _, _ => none
    | none => none
  | _ => none

/-- A word of a wave: what it does to the state, or the stop of a word with no wave to run it. -/
def onWave (s : State) (msel : BitVec 4) (f : WCtx → State) : Host.Outcome State Fault Refusal :=
  match waveOf s msel with
  | some x => .next (f x)
  | none => .fault .noIssuer

/-- The sequencer whose word runs: cluster, program and clause. -/
structure SCtx where
  k  : Nat
  sq : Seq
  cl : Clause
  deriving DecidableEq, Repr

def seqOf (s : State) : Option SCtx :=
  match s.cur with
  | some (.seq k) =>
    match SMap.find? s.seqs k with
    | some sq =>
      match sq.run with
      | some cl => some { k := k, sq := sq, cl := cl }
      | none => none
    | none => none
  | _ => none

def onSeq (s : State) (f : SCtx → State) : Host.Outcome State Fault Refusal :=
  match seqOf s with
  | some x => .next (f x)
  | none => .fault .noIssuer

/-- A class-5 word, which waves and sequencers both run (R403). -/
def onEither (s : State) (msel : BitVec 4) (f : WCtx → State) (g : SCtx → State) : Host.Outcome State Fault Refusal :=
  match waveOf s msel with
  | some x => .next (f x)
  | none => onSeq s g

/-- SUBCODE of R279: reason in [7:0], slot in [12:8]. -/
def slotSub (reason : Nat) (i : Nat) : Nat := reason + (i + 1) * 256

/-- A wave's word takes a fatal fault: the word has no effect and the wave stops (R69, R279). -/
def faultWave (s : State) (x : WCtx) (f : FaultInfo) : State :=
  { (s.setWave x.v { x.wv with stopped := true }).fatal (reportOf x.wv.ctx (unitOfCore (coreOfWave x.v)) (x.v % 48) x.cl.h f) with issue := .faulted }

/-- A sequencer's word takes a fatal fault (R403, R432). -/
def faultSeq (s : State) (x : SCtx) (f : FaultInfo) : State :=
  { s.fatal (reportOf x.sq.cons.ctx (unitOfCluster x.k) 0xFFFF x.cl.h f) with issue := .faulted }

/-- The word waits at issue (R400): nothing happens and it issues again later. -/
def State.waitIssue (s : State) : State := { s with issue := .wait }

/-- An over-long word goes on entering its records in a later cycle, and keeps its port (R253). -/
def State.holdIssue (s : State) : State := { s with issue := .hold }

/-- A key of each register an operand names (R292). -/
def operandKeys (o : OpKind2 × BitVec 9) : List Nat :=
  let c := o.2.toNat
  if isV c then (List.range o.1.span).map (fun j => vKey (c + j) 0)
  else if isW c then (List.range o.1.span).map (fun j => wKey (c - 0x100 + j))
  else if isM c then [mKey (c - 0x140)]
  else if isX c then [xKey (c - 0x150)]
  else []

def OpKind2.isDst : OpKind2 → Bool
  | .dst => true | .dstN _ => true | .maskDst => true | .maskOrDst => true | .vDst _ _ => true | .wDst => true | .idxDst => true
  | .maskJoin => true
  | _ => false

/-- Every position but a destination is read; the mask of JOIN, LEAVE and WAITM is both (R153). -/
def OpKind2.isSrc (k : OpKind2) : Bool := !k.isDst || k == .maskJoin

/-- The register of a key: the scoreboard keeps one pending write for each register, of all lanes (R292). -/
def regOfKey (k : Nat) : Nat := if k < 0x4000 then k / 64 else k

/-- A fixed-latency write of a register becomes readable after a cycle. -/
def fixedPending (wv : Wave) (k after : Nat) : Bool :=
  wv.haz.any (fun h => regOfKey h.key == regOfKey k && decide (after < h.ready))

/-- An operation that has not completed writes a register. -/
def opPending (wv : Wave) (k : Nat) : Bool :=
  wv.ops.any (fun p => !p.isPush && p.regs.any (fun r => regOfKey r.key == regOfKey k))

/-- The reasons of R292, lowest first, for the registers a word of latency lat reads and writes. -/
def pendingReason (x : WCtx) (rd wr : List Nat) (lat : Nat) : Option Nat :=
  if rd.any (fun k => fixedPending x.wv k x.wv.cyc) then some 1
  else if (rd ++ wr).any (opPending x.wv) then some 2
  else if wr.any (fun k => fixedPending x.wv k (lastCycle x.wv x.e + lat)) then some 3
  else none

/-- The checking scoreboard (R292): the lowest reason with which a word of latency lat is refused. Every word reads its
sources (R290); one with no active lane writes nothing. -/
def scoreboard (x : WCtx) (ops : List (OpKind2 × BitVec 9)) (lat : Nat) : Option Nat :=
  pendingReason x ((ops.filter (fun o => o.1.isSrc)).flatMap operandKeys)
    (if x.e = 0 then [] else (ops.filter (fun o => o.1.isDst)).flatMap operandKeys) lat

/-- The checks of R288 that every word of a wave passes at issue: operands, register range, scoreboard. -/
def issueFault (s : State) (x : WCtx) (ops : List (OpKind2 × BitVec 9)) (lat : Nat) : Option FaultInfo :=
  match operandsReason ops with
  | some r => some (.of fIllegalOperand (slotSub r x.cl.i) x.e)
  | none =>
    if !(ops.all (operandInRange x.nd x.wv.access)) then some (.of fRegRange 0 x.e)
    else if (s.ctx x.wv.ctx).dbgScb then
      match scoreboard x ops lat with
      | some r => some (.of fScoreboard (slotSub r x.cl.i) x.e)
      | none => none
    else none

/-- Run a word of a wave: the checks of R288, then its own check, then its effect. -/
def checked (s : State) (x : WCtx) (ops : List (OpKind2 × BitVec 9)) (lat : Nat) (own : Option FaultInfo) (t : State) : State :=
  match issueFault s x ops lat with
  | some f => faultWave s x f
  | none =>
    match own with
    | some f => faultWave s x f
    | none => t

/-- The checks of R288 for a sequencer word. -/
def seqFault (x : SCtx) (ops : List (SeqKind × Bool × BitVec 9)) : Option FaultInfo :=
  let rs := ops.filterMap (fun o => seqReason o.1 o.2.1 o.2.2.toNat)
  match rs.foldl (fun a r => match a with | none => some r | some y => some (min y r)) none with
  | some r => some (.of fIllegalOperand (slotSub r x.cl.i) 0)
  | none => none

/-- The checking scoreboard of a sequencer word on its q registers (R292, R402). -/
def seqScb (s : State) (x : SCtx) (ops : List (SeqKind × Bool × BitVec 9)) : Option FaultInfo :=
  if !(s.ctx x.sq.cons.ctx).dbgScb then none
  else if ops.any (fun o => !o.2.1 && x.sq.haz.any (fun h => h.key == o.2.2.toNat && decide (x.sq.cyc < h.ready))) then
    some (.of fScoreboard (slotSub 1 x.cl.i) 0)
  else if ops.any (fun o => x.sq.gets.any (fun g => g.q == o.2.2.toNat)) then some (.of fScoreboard (slotSub 2 x.cl.i) 0)
  else none

def checkedSeq (s : State) (x : SCtx) (ops : List (SeqKind × Bool × BitVec 9)) (own : Option FaultInfo) (t : State) : State :=
  match seqFault x ops with
  | some f => faultSeq s x f
  | none =>
    match seqScb s x ops with
    | some f => faultSeq s x f
    | none =>
      match own with
      | some f => faultSeq s x f
      | none => t

/-- The token a word names, if any (R280). -/
def tokenOf (t : BitVec 3) : Option Nat := if t.toNat < 6 then some t.toNat else none

/-- Whether a word that names a token must wait because the count is at 63 (R291). -/
def tokenFull (wv : Wave) (t : BitVec 3) : Bool :=
  match tokenOf t with | some k => decide (wv.getTok k ≥ 63) | none => false

/-- An operation that has written registers makes the writes of those still in flight on them contested (R293): each ends
with the value of either. -/
def PendOp.contest (keys : List Nat) (o : PendOp) : PendOp :=
  if o.isPush then o
  else { o with regs := o.regs.map (fun r => if keys.contains r.key then { r with contested := true } else r) }

/-- Issue an operation of a wave: count its token up and list it as in flight (R291). -/
def Wave.launch (wv : Wave) (op : PendOp) : Wave :=
  { wv with
    tok := match op.tok with | some k => SMap.set 0 k (wv.getTok k + 1) wv.tok | none => wv.tok
    ops := wv.ops ++ [op] }

/-- Take the next number of the model's own. -/
def State.fresh (s : State) : State := { s with nextId := s.nextId + 1 }

/-- A word of group VAR that writes registers: the operation is in flight until its token completes (R289, R291), between
two edges of its core where the spec bounds it (R352). -/
def launchTimed (s : State) (x : WCtx) (tok : BitVec 3) (earliest latest : Nat) (regs : List RegWrite) (wv : Wave) : State :=
  if tokenFull x.wv tok then s.waitIssue
  else
    let op : PendOp :=
      { id := s.nextId, tok := tokenOf tok, regs := regs, kind := .regs, earliest := earliest, latest := latest }
    (s.setWave x.v (wv.launch op)).fresh

def launchRegs (s : State) (x : WCtx) (tok : BitVec 3) (regs : List RegWrite) (wv : Wave) : State :=
  launchTimed s x tok 0 0 regs wv

/-! ### The physical map -/

/-- What a physical address is (R23, R176, R438). -/
inductive Region
  | near (d : Nat)
  | far
  | sys
  | save (st : Nat)
  | moraine (d : Nat)
  | reserved
  deriving DecidableEq, Repr

def regionOf (pa : Nat) : Region :=
  if pa < 0x1800000000 then
    let d := pa / 0x600000000
    let o := pa % 0x600000000
    let save := decide (d % 2 = 1 ∧ 0x600000000 - 0x80000000 ≤ o)
    let top := 0x600000000 - (if d % 2 = 1 then 0x80000000 else 0)
    if save then .save (d / 2) else if top - 0x4000000 ≤ o ∧ o < top then .moraine d else .near d
  else if pa < 0x2000000000 then .reserved
  else if pa < 0x3800000000 then .far
  else if pa < 0x10000000000 then .reserved
  else .sys

/-- The DRAM stack of an address in the near tier's range (R23). -/
def dramOf (pa : Nat) : Option Nat := if pa < 0x1800000000 then some (pa / 0x600000000) else none

/-- The first address of a save region and of a moraine region (R176, R438). -/
def saveBase (st : Nat) : Nat := (2 * st + 1) * 0x600000000 + 0x600000000 - 0x80000000
def moraineBase (d : Nat) : Nat :=
  d * 0x600000000 + 0x600000000 - (if d % 2 = 1 then 0x80000000 else 0) - 0x4000000

/-- A page-table entry may map a physical page here (R23, R196). -/
def mappable (pa : Nat) : Bool :=
  match regionOf pa with
  | .near _ => true | .far => true | .sys => true
  | _ => false

/-- Bus address of a system address (R54). -/
def busAddr (s : State) (pa : Nat) : Nat := (pa - 0x10000000000 + s.hub.sysOffset.toNat) % 2 ^ 64

def isSys (pa : Nat) : Bool := decide (0x10000000000 ≤ pa)

/-- A byte at its home, the U contributions apart (R24); system addresses read host memory (R188).
DESIGN CHOICE, log 1, unsafe: a byte nothing has written reads as 0. -/
def homeByte (s : State) (pa : Nat) : Byte :=
  if isSys pa then SMap.get 0 s.sys (busAddr s pa) else SMap.get 0 s.mem pa

/-- The 128 home bytes of a line, as one number. -/
def homeLine (s : State) (ln : Nat) : BitVec 1024 :=
  (List.range 128).foldr (fun j (acc : BitVec 1024) => (acc <<< 8) ||| (homeByte s (ln * 128 + j)).setWidth 1024) 0

/-! ### Links and homes (R24, R27, R29, R30, R46) -/

/-- The end of the links at which an address has its home: stack 0 or 1, or 2, the hub (R24). -/
def homeEnd (pa : Nat) : Nat := match dramOf pa with | some d => d / 2 | none => 2

def linkTrains (s : State) (l : Nat) : Bool := match SMap.get .up s.links l with | .training _ => true | _ => false
def linkDown (s : State) (l : Nat) : Bool := match SMap.get .up s.links l with | .down => true | _ => false

/-- The links between two ends (R27): 0 F0-F1, 1 F0-H, 2 F1-H; without F0-F1 the traffic goes through the hub (R30). -/
def pathLinks (s : State) (a b : Nat) : List Nat :=
  if a = b then []
  else if a = 2 then [1 + b]
  else if b = 2 then [1 + a]
  else if linkDown s 0 then [1, 2] else [0]

/-- A link carries nothing: it retrains (R29), or is a hub link that is down, for which there is no other way (R30). -/
def linkBars (s : State) (l : Nat) : Bool := linkTrains s l || (l != 0 && linkDown s l)

/-- Packets between two ends wait at the sender while a link of their path carries nothing (R29, R30). -/
def pathWaits (s : State) (a b : Nat) : Bool := s.links != [] && (pathLinks s a b).any (linkBars s)

/-- Whether the home of a physical address is out of service (R46). -/
def offline (s : State) (pa : Nat) : Bool :=
  match dramOf pa with
  | some d => let x := (s.die (2 + d / 2)).st; x == .held || x == .init
  | none => false

/-- A sector of an access holds an uncorrectable error (R25, R26). -/
def poisoned (s : State) (pa n : Nat) : Bool :=
  s.poison != [] && s.poison.any (fun x => decide (pa / 32 ≤ x ∧ x ≤ (pa + n - 1) / 32))

/-- The lines of a home cache (R22): 48 MiB near-home L2 of each stack, 64 MiB far-home cache. -/
def cacheLines (h : Nat) : Nat := if h < 2 then 393216 else 524288

/-- The listed lines of a home cache: the dirty ones, and those that were written to DRAM and stay valid (R219). -/
def homeLines (s : State) (h : Nat) : List Nat :=
  (s.l2old.map (·.1) ++ s.l2clean).filter (fun ln => homeEnd (ln * 128) == h)

/-- A line becomes dirty in its home cache, which keeps the DRAM's old bytes beside it (R47); in a full cache some line goes,
after it is written to DRAM. Other clean lines equal the DRAM and are not listed.
DESIGN CHOICE, log 12, safe: which line goes is free. -/
def holdDirty (s : State) (ln : Nat) : State :=
  if (SMap.find? s.l2old ln).isSome then s
  else
    let mine := homeLines s (homeEnd (ln * 128))
    let out := if mine.length < cacheLines (homeEnd (ln * 128)) then [ln]
      else ln :: (mine[Config.freeNat s.free 0xA0000 % max 1 mine.length]?).toList
    { s with l2old := SMap.insert ln (homeLine s ln) (s.l2old.filter (fun e => !out.contains e.1)),
             l2clean := s.l2clean.filter (fun n => !out.contains n) }

/-- A line leaves its home cache: dirty bytes are in DRAM, and the copy is valid no more. -/
def dropLine (s : State) (ln : Nat) : State :=
  { s with l2old := SMap.erase ln s.l2old, l2clean := s.l2clean.filter (· != ln) }

/-- A dirty line of a home cache is written to DRAM; the copy stays, valid and clean (R219). -/
def cleanLine (s : State) (ln : Nat) : State :=
  if (SMap.find? s.l2old ln).isSome then { dropLine s ln with l2clean := ln :: (dropLine s ln).l2clean } else s

/-- Write a byte at its home. -/
def homeWrite (s : State) (pa : Nat) (b : Byte) : State :=
  if isSys pa then { s with sys := SMap.set 0 (busAddr s pa) b s.sys }
  else
    let s := holdDirty s (pa / 128)
    { s with mem := SMap.set 0 pa b s.mem }

/-- A write covers a whole sector. -/
def wholeSector (ws : List (Nat × Byte)) (sec : Nat) : Bool :=
  (List.range 32).all (fun j => ws.any (fun w => w.1 == sec * 32 + j))

/-- Why a byte of a write at its home is lost, if it is: the home is out of service (R46), or the byte's sector holds an
uncorrectable error that the write does not replace whole (R25, R26). -/
def byteLoss (s : State) (ws : List (Nat × Byte)) (pa : Nat) : Option Nat :=
  if offline s pa then some fMemoryOffline
  else if s.poison != [] && s.poison.contains (pa / 32) && !wholeSector ws (pa / 32) then some fEcc
  else none

def homeLoss (s : State) (ws : List (Nat × Byte)) : Option Nat := ws.findSome? (fun w => byteLoss s ws w.1)

/-- Write bytes at their homes, but those that are lost. An error ends when the whole of its sector is written.
DESIGN CHOICE, log 39, unsafe: the spec does not say when an error ends. -/
def homeWrites (s : State) (ws : List (Nat × Byte)) : State :=
  let ok := if s.poison = [] ∧ s.dies = [] then ws else ws.filter (fun w => (byteLoss s ws w.1).isNone)
  ok.foldl (fun s w => homeWrite s w.1 w.2)
    (if s.poison = [] then s else { s with poison := s.poison.filter (fun x => !wholeSector ok x) })

/-- Put a block of bytes into memory at an address; a byte 0 is what an unlisted address reads as. -/
def putBlock (m : List Host.Cell) (a : Nat) (bs : List Byte) : List Host.Cell :=
  m.filter (fun c => decide (c.1 < a)) ++ (bs.zipIdx.filterMap (fun b => if b.1 = 0 then none else some (a + b.2, b.1))) ++
    m.filter (fun c => decide (a + bs.length ≤ c.1))

def homeBytes (s : State) (pa n : Nat) : List Byte := (List.range n).map (fun j => homeByte s (pa + j))

/-! ### The L1 (R189-R192) -/

def l1Key (g ln : Nat) : Nat := g * 2 ^ 41 + ln
def l1Core (k : Nat) : Nat := k / 2 ^ 41
def l1Line (k : Nat) : Nat := k % 2 ^ 41

/-- Bytes an L1 line marked dirty, with their addresses (R190). -/
def dirtyBytes (ln : Nat) (x : Line) : List (Nat × Byte) :=
  if x.dirty = 0 then []
  else (List.range 128).filterMap (fun j =>
    if x.dirty.getLsbD j then some (ln * 128 + j, x.data.extractLsb' (8 * j) 8) else none)

/-- An integer reduction on a value of w bytes (R375, R377), by RED code. -/
def reduceInt (code w old b : Nat) : Nat :=
  let m := 8 * w
  let sg (x : Nat) : Int := sext m x
  match code with
  | 0 => (old + b) % 2 ^ m
  | 1 => if sg b < sg old then b else old
  | 2 => if sg old < sg b then b else old
  | 3 => old &&& b
  | 4 => old ||| b
  | 5 => old ^^^ b
  | 0x21 => if b < old then b else old
  | 0x22 => if old < b then b else old
  | _ => b

/-- The bytes of partial results, by address. -/
def partAddrs (ln : Nat) (ps : List (Nat × Nat × Nat × Nat)) : List (Nat × Byte) :=
  ps.flatMap (fun p => (List.range p.2.2.1).map (fun j => (ln * 128 + p.1 + j, 0)))

/-- Apply a line's partial results at the home (R192). -/
def applyParts (s : State) (ln : Nat) (ps : List (Nat × Nat × Nat × Nat)) : State :=
  ps.foldl (fun s p =>
    let (off, code, w, v) := p
    let pa := ln * 128 + off
    let new := reduceInt code w (natOfBytes (homeBytes s pa w)) v
    homeWrites s ((bytesOf w new).zipIdx.map (fun b => (pa + b.2, b.1)))) s

/-- Wake the lanes asleep on a line (R218): their threads leave WAITING. -/
def wakeLane (s : State) (v l : Nat) : State :=
  match SMap.find? s.waves v with
  | some wv =>
    match SMap.find? wv.pcs l with
    | some p =>
      match p.wait with
      | some (.line _ _) =>
        { s.setWave v { wv with pcs := SMap.insert l { p with wait := none } wv.pcs,
                                readySince := if wv.pcs.any (fun p => p.2.wait.isNone) then wv.readySince else s.aclk } with
          mons := s.mons.filter (fun m => !(m.wave == v && m.lane == l)) }
      | _ => s
    | none => s
  | none => s

def wakeLine (s : State) (ln : Nat) : State :=
  (s.mons.filter (fun m => m.line == ln)).foldl (fun s m => wakeLane s m.wave m.lane) s

/-- Send what one L1 holds of a line home: dirty bytes of M, contributions of U (R190, R192). -/
def writeBack (s : State) (ln : Nat) (x : Line) : State :=
  match x.st with
  | .u => applyParts s ln x.part
  | _ => homeWrites s (dirtyBytes ln x)

/-- What is lost when a line is sent home. -/
def lineLoss (s : State) (ln : Nat) (x : Line) : Option Nat :=
  match x.st with
  | .u => homeLoss s (partAddrs ln x.part)
  | _ => homeLoss s (dirtyBytes ln x)

/-- Send a line home for no access of any context; what is lost is reported for none (R25, R26, R46, R74).
DESIGN CHOICE, log 39, safe: who reports a write-back that fails. -/
def sendHome (s : State) (ln : Nat) (x : Line) : State :=
  let t := writeBack s ln x
  match lineLoss s ln x with
  | some c => t.send (reportOf 0xFF 0 0xFFFF 0 (.of c 0 0))
  | none => t

/-- Recall a line from every L1 but one's own M copy: dirty bytes and contributions go home and the copies go. -/
def recallOthers (s : State) (g ln : Nat) : State :=
  let ks := (s.l1.filter (fun e => l1Line e.1 == ln && l1Core e.1 != g)).map (fun e => (e.1, e.2))
  ks.foldl (fun s e => { sendHome s ln e.2 with l1 := SMap.erase e.1 (sendHome s ln e.2).l1 }) s

/-- The home combines every U copy of a line (R192). -/
def combineLine (s : State) (ln : Nat) : State :=
  let ks := s.l1.filter (fun e => l1Line e.1 == ln && e.2.st == .u)
  ks.foldl (fun s e => { sendHome s ln e.2 with l1 := SMap.erase e.1 (sendHome s ln e.2).l1 }) s

/-- Lines of an L1 (R22, R185, R186): the 384 KiB pool less the carve-out. -/
def l1Lines (s : State) (g : Nat) : Nat := 3072 - 512 * SMap.get 0 s.carve g

/-- Evict an L1 line: dirty bytes go home; the eviction of a U copy combines the line (R192). -/
def evictL1 (s : State) (k : Nat) (x : Line) : State :=
  if x.st = .u then combineLine s (l1Line k)
  else { sendHome s (l1Line k) x with l1 := SMap.erase k s.l1 }

/-- What a copy of a line has to say at its home cannot get there: dirty bytes or contributions, or, where the line is
taken for a write, the end of any copy (R29, R189-R192). -/
def copyHeld (s : State) (write : Bool) (e : Nat × Line) : Bool :=
  (write || e.2.st != .s) && pathWaits s (l1Core e.1 / 96) (homeEnd (l1Line e.1 * 128))

/-- Copies of a line in the L1s other than one core's stand where they cannot be heard (R29). -/
def copiesWait (s : State) (core : Option Nat) (write : Bool) (ln : Nat) : Bool :=
  s.links != [] && s.l1.any (fun e => l1Line e.1 == ln && some (l1Core e.1) != core && copyHeld s write e)

/-- The lines of a core's L1 that may be evicted: what their eviction sends reaches the home (R29). -/
def victims (s : State) (g : Nat) : List (Nat × Line) :=
  s.l1.filter (fun e => l1Core e.1 == g && (s.links == [] || e.2.st == .s || !copiesWait s none false (l1Line e.1)))

def l1Full (s : State) (g : Nat) : Bool := decide (l1Lines s g ≤ (s.l1.filter (fun e => l1Core e.1 == g)).length)

/-- Make room for one more line in a core's L1.
DESIGN CHOICE, log 12, safe: which line goes is free. -/
def makeRoom (s : State) (g : Nat) : State :=
  if !l1Full s g then s
  else match (victims s g)[Config.freeNat s.free (0xB0000 + g) % max 1 (victims s g).length]? with
    | some e => evictL1 s e.1 e.2
    | none => s

/-- An access to a line waits: for what copies elsewhere hold of it, or for a place in its own L1 that an eviction across
such a link must free (R29). -/
def lineWaits (s : State) (core : Option Nat) (write : Bool) (ln : Nat) : Bool :=
  s.links != [] && (copiesWait s core write ln ||
    (match core with
     | some g => (SMap.find? s.l1 (l1Key g ln)).isNone && l1Full s g && s.l1.any (fun e => l1Core e.1 == g) && victims s g == []
     | none => false))

/-- Bring a line into a core's L1 as S where it is absent or only U (R189): other copies in M give their bytes home. -/
def bringS (s : State) (g ln : Nat) : State :=
  match SMap.find? s.l1 (l1Key g ln) with
  | some x => if x.st = .u then
        let s := combineLine s ln
        { s with l1 := SMap.insert (l1Key g ln) { st := .s, data := homeLine s ln, dirty := 0, part := [] } s.l1 }
      else s
  | none =>
    let ms := s.l1.filter (fun e => l1Line e.1 == ln && e.2.st == .m)
    let s := ms.foldl (fun s e =>
      let s := sendHome s ln e.2
      { s with l1 := SMap.insert e.1 { e.2 with st := .s, dirty := 0 } s.l1 }) (combineLine (makeRoom s g) ln)
    { s with l1 := SMap.insert (l1Key g ln) { st := .s, data := homeLine s ln, dirty := 0, part := [] } s.l1 }

/-- Take a line in M in a core's L1 (R189, R190). -/
def bringM (s : State) (g ln : Nat) : State :=
  let s := recallOthers s g ln
  match SMap.find? s.l1 (l1Key g ln) with
  | some x =>
    if x.st = .m then s
    else if x.st = .s then { s with l1 := SMap.insert (l1Key g ln) { x with st := .m } s.l1 }
    else
      let s := sendHome s ln x
      { s with l1 := SMap.insert (l1Key g ln) { st := .m, data := homeLine s ln, dirty := 0, part := [] } s.l1 }
  | none =>
    let s := makeRoom s g
    { s with l1 := SMap.insert (l1Key g ln) { st := .m, data := homeLine s ln, dirty := 0, part := [] } s.l1 }

/-- Bytes of a line a core's L1 holds. -/
def lineBytes (x : Line) (off n : Nat) : List Byte := (List.range n).map (fun j => x.data.extractLsb' (8 * (off + j)) 8)

/-- An ordinary read by a core: through its L1 (R189), n bytes within one line. -/
def coreRead (s : State) (g pa n : Nat) : State × List Byte :=
  let s := bringS s g (pa / 128)
  match SMap.find? s.l1 (l1Key g (pa / 128)) with
  | some x => (s, lineBytes x (pa % 128) n)
  | none => (s, homeBytes s pa n)

/-- Put bytes into a line at an offset, marking them dirty. -/
def lineWrite (x : Line) (off : Nat) (bs : List Byte) : Line :=
  bs.zipIdx.foldl (fun x b =>
    let j := off + b.2
    { x with
      data := (x.data &&& ~~~ ((0xFF : BitVec 1024) <<< (8 * j))) ||| ((b.1.setWidth 1024 : BitVec 1024) <<< (8 * j))
      dirty := x.dirty ||| ((1 : BitVec 128) <<< j) }) x

/-- An ordinary write by a core (R189, R190): in M in its L1; to a system address, posted (R188). -/
def coreWrite (s : State) (g pa : Nat) (bs : List Byte) : State :=
  if isSys pa then
    wakeLine { homeWrites s (bs.zipIdx.map (fun b => (pa + b.2, b.1))) with
      l1 := SMap.erase (l1Key g (pa / 128)) s.l1 } (pa / 128)
  else
    let s := bringM s g (pa / 128)
    match SMap.find? s.l1 (l1Key g (pa / 128)) with
    | some x => wakeLine { s with l1 := SMap.insert (l1Key g (pa / 128)) (lineWrite x (pa % 128) bs) s.l1 } (pa / 128)
    | none => s

/-- The lines of a core's L1 that a release sends home (R205). -/
def dirtyLines (s : State) (g : Nat) : List (Nat × Line) := s.l1.filter (fun e => l1Core e.1 == g && e.2.st != .s)

/-- Send every dirty byte and contribution of a core home (R205): a release wider than CORE. M lines stay, clean; a line
in U is combined with its copies elsewhere (R192). -/
def l1Release (s : State) (g : Nat) : State :=
  (dirtyLines s g).foldl (fun s e =>
    match e.2.st with
    | .u => combineLine s (l1Line e.1)
    | _ =>
      let s := writeBack s (l1Line e.1) e.2
      { s with l1 := SMap.insert e.1 { e.2 with dirty := 0 } s.l1 }) s

/-- Send home what a core's L1 holds, for no access of any context: what is lost is reported for none. M lines stay,
clean. -/
def l1Clean (s : State) (g : Nat) : State :=
  (dirtyLines s g).foldl (fun s e =>
    match e.2.st with
    | .u => combineLine s (l1Line e.1)
    | _ =>
      let s := sendHome s (l1Line e.1) e.2
      { s with l1 := SMap.insert e.1 { e.2 with dirty := 0 } s.l1 }) s

/-- As l1Clean, and the copies go. -/
def l1Clear (s : State) (g : Nat) : State :=
  let s := l1Clean s g
  { s with l1 := s.l1.filter (fun e => l1Core e.1 != g) }

/-- The cores whose L1 holds a line. -/
def l1Cores (s : State) : List Nat := (s.l1.map (fun e => l1Core e.1)).eraseDups

/-- What a release meets that faults its context: an uncorrectable error or a home out of service (R46, R401). -/
def releaseLoss (s : State) (g : Nat) : Option Nat := (dirtyLines s g).findSome? (fun e => lineLoss s (l1Line e.1) e.2)

/-- A release waits while the way from the core to a home is barred, or that of a copy which a line in U is combined with
(R29, R192). -/
def releaseWaits (s : State) (g : Nat) : Bool :=
  s.links != [] && (dirtyLines s g).any (fun e => pathWaits s (g / 96) (homeEnd (l1Line e.1 * 128)) ||
    (e.2.st == .u && copiesWait s (some g) false (l1Line e.1)))

/-- Drop every copy a core's L1 holds, after sending its writes home: a fence or acquire wider than CORE (R205, R206).
Sleeping lanes on dropped lines may wake (R218).
DEDUCED, log 12, unsafe for what others see before a release. -/
def l1Flush (s : State) (g : Nat) : State :=
  let s := l1Release s g
  { s with l1 := s.l1.filter (fun e => l1Core e.1 != g) }

/-- An access at the home on the asynchronous path (R214), or by a host or hub unit (R53, R197): U copies combine, and
for units that must see what is coherent (`all`), M copies send their dirty bytes first. -/
def homeRead (s : State) (all : Bool) (pa n : Nat) : State × List Byte :=
  let s := combineLine s (pa / 128)
  let s := if all then
      (s.l1.filter (fun e => l1Line e.1 == pa / 128 && e.2.st == .m)).foldl (fun s e =>
        let s := sendHome s (pa / 128) e.2
        { s with l1 := SMap.insert e.1 { e.2 with dirty := 0 } s.l1 }) s
    else s
  (s, homeBytes s pa n)

/-- A host or hub-unit write at the home: copies in every L1 go, then the bytes are written, and sleepers wake (R53,
R218). -/
def homeStore (s : State) (pa : Nat) (bs : List Byte) : State :=
  let s := recallOthers s 192 (pa / 128)
  wakeLine (homeWrites s (bs.zipIdx.map (fun b => (pa + b.2, b.1)))) (pa / 128)

/-- Asynchronous writes at the homes, which touch no L1 line but combine U copies (R192, R214). -/
def asyncWrites (s : State) (ws : List (Nat × Byte)) : State :=
  homeWrites (((ws.map (fun w => w.1 / 128)).eraseDups).foldl combineLine s) ws

def asyncStore (s : State) (pa : Nat) (bs : List Byte) : State := asyncWrites s (bs.zipIdx.map (fun b => (pa + b.2, b.1)))

/-! ### Translation (R183, R196, R198) -/

/-- What a translation gives: a physical address, a miss, a home that a retraining link keeps out of reach (R29), or the
fault its walk ended in. -/
inductive Xl
  | hit (pa : Nat)
  | miss
  | hold
  | fault (cause : Nat)
  deriving DecidableEq, Repr

def TlbE.allows (e : TlbE) (acc : Acc) : Bool :=
  match acc with | .read => true | .write => e.w | .fetch => e.x

def tlbFind (es : List TlbE) (c va : Nat) (acc : Acc) : Option Nat :=
  match es.find? (fun e => e.ctx == c && decide (e.va ≤ va ∧ va < e.va + e.size) && e.allows acc) with
  | some e => some (e.pa + (va - e.va))
  | none => none

/-- Translate a virtual address for a unit of a stack, through its core's L1 TLB where it is one (R198). -/
def translate (s : State) (core : Option Nat) (st c va : Nat) (acc : Acc) (who : Nat := askerOf s) : Xl :=
  let l1 := match core with | some g => SMap.get [] s.tlb1 g | none => []
  match tlbFind l1 c va acc with
  | some pa => .hit pa
  | none =>
    match tlbFind (SMap.get [] s.tlb2 st) c va acc with
    | some pa => .hit pa
    | none =>
      match s.wfault.find? (fun f => f.ctx == c && f.page == va / 4096 && f.acc == acc && f.who == who) with
      | some f => .fault f.cause
      | none => .miss

/-- The distinct pages for which walks run or wait. -/
def walkPages (s : State) : List (Nat × Nat) := (s.walks.map (fun u => (u.ctx, u.page))).eraseDups

/-- Ask for a walk (R198): a miss whose context and page are asked for already joins that walk; else it takes a place
among the 128 walks of the pool and the 4,096 entries of the miss queue, or, with both full, is held back and asks
again. -/
def askWalk (s : State) (w : Walk) : State :=
  if s.walks.contains w then s
  else if s.walks.any (fun u => u.ctx == w.ctx && u.page == w.page) || decide ((walkPages s).length < 128 + 4096) then
    { s with walks := s.walks ++ [w] }
  else s

end Sys2Proof.Machine
end

