-- ==== Sys2Proof/Machine/Access.lean ====
section
/-!
DEFINITION. Reaching memory and code from a word: the checks of R369 and the translation of every lane (R199), parking
(R71, R178), team-local memory with copies in flight (R385), code fetch and branches (R294, R308), and threads that
wait, are released or end (R148, R149, R153, R326).
-/

namespace Sys2Proof.Machine

/-! ### Parking -/

/-- The running word parks its wave on translation faults (R178, R199). -/
def parkWave (s : State) (x : WCtx) (pages : List (Nat × Nat × Nat × Mask)) : State :=
  let s := s.logPages x.wv.ctx (unitOfCore (coreOfWave x.v)) (x.v % 48) x.cl.h pages
  { s.setWave x.v { x.wv with park := .xlat } with issue := .parked }

/-- A sequencer's word parks it (R403). -/
def parkSeq (s : State) (x : SCtx) (pages : List (Nat × Nat × Nat × Mask)) : State :=
  let s := s.logPages x.sq.cons.ctx (unitOfCluster x.k) 0xFFFF x.cl.h pages
  { s.setSeq x.k { x.sq with park := .xlat, h := x.cl.h, i := x.cl.i } with issue := .parked }

/-! ### Translation of every lane of a word -/

/-- One access of a word: lane, virtual address, bytes, what it needs of its leaf, and whether it may be performed at a
system address (R188). -/
structure Req where
  lane : Nat
  va   : Nat
  size : Nat
  acc  : Acc
  sys  : Bool := true
  deriving DecidableEq, Repr

/-- Translation of one access, with what its home answers: an atomic that PCIe does not have (R188), a home out of
service (R46), an uncorrectable error (R25, R26), or a link on the way, or on the way of what a copy of the line sends
first, that carries nothing (R29, R30). Code is read at its home alone. -/
def xlate (s : State) (core : Option Nat) (st c : Nat) (r : Req) (who : Nat := askerOf s) : Xl :=
  match translate s core st c r.va r.acc who with
  | .hit pa =>
    if isSys pa && !r.sys then .fault fSysAtomic
    else if offline s pa then .fault fMemoryOffline
    else if poisoned s pa r.size then .fault fEcc
    else if pathWaits s st (homeEnd pa) || (r.acc != .fetch && lineWaits s core (r.acc == .write) (pa / 128)) then .hold
    else .hit pa
  | x => x

/-- What the accesses of a word meet together (R199). -/
inductive Gate
  | go (pas : List Nat)
  | wait (ws : List Walk)
  | park (pages : List (Nat × Nat × Nat × Mask))
  | fatal (f : FaultInfo)
  deriving DecidableEq, Repr

/-- The pages that took a translation fault, in ascending order of the lowest lane (R75): cause, page, VA, lanes. -/
def faultPages (fs : List (Req × Nat)) : List (Nat × Nat × Nat × Mask) :=
  fs.foldl (fun ps f =>
    let page := f.1.va / 4096
    if ps.any (fun p => p.2.1 == page) then
      ps.map (fun p => if p.2.1 = page then (p.1, p.2.1, p.2.2.1, setBit p.2.2.2 f.1.lane true) else p)
    else ps ++ [(f.2, page, f.1.va, maskOf [f.1.lane])]) []

/-- R199: a fatal fault decides, that of the lowest lane that takes one, with the lanes that take the same; else any
translation fault parks the word; while a translation is unknown the word waits for its walk, and while a link retrains
for the link. -/
def gateBy (core : Option Nat) (st c who : Nat) (f : Req → Xl) (rs : List Req) : Gate :=
  let xs := rs.map (fun r => (r, f r))
  let misses := xs.filterMap (fun x => match x.2 with
    | .miss => some { ctx := c, page := x.1.va / 4096, acc := x.1.acc, stack := st, core := core, who := who : Walk }
    | _ => none)
  if misses ≠ [] then .wait misses
  else
    let faults := xs.filterMap (fun x => match x.2 with | .fault c => some (x.1, c) | _ => none)
    match (faults.filter (fun f => causeKind f.2 == .fatal)).foldl (fun (m : Option (Req × Nat)) f => match m with
        | none => some f
        | some g => if f.1.lane < g.1.lane then some f else some g) none with
    | some f =>
      .fatal { cause := f.2, sub := 0, va := f.1.va, detail := f.1.lane,
               lanes := maskOf ((faults.filter (fun g => g.2 == f.2)).map (fun g => g.1.lane)) }
    | none =>
      if faults ≠ [] then .park (faultPages faults)
      else if xs.any (fun x => x.2 == .hold) then .wait []
      else .go (xs.filterMap (fun x => match x.2 with | .hit pa => some pa | _ => none))

def gate (s : State) (core : Option Nat) (st c : Nat) (rs : List Req) (who : Nat := askerOf s) : Gate :=
  gateBy core st c who (fun r => xlate s core st c r who) rs

/-- Go on with the physical addresses, or wait, park or fault as the gate says. -/
def Gate.run (g : Gate) (s : State) (x : WCtx) (k : List Nat → State) : State :=
  match g with
  | .go pas => k pas
  | .wait ws => (ws.foldl askWalk s).waitIssue
  | .park ps => parkWave s x ps
  | .fatal f => faultWave s x f

def Gate.runSeq (g : Gate) (s : State) (x : SCtx) (k : List Nat → State) : State :=
  match g with
  | .go pas => k pas
  | .wait ws => (ws.foldl askWalk s).waitIssue
  | .park ps => parkSeq s x (ps.map (fun p => (p.1, p.2.1, p.2.2.1, 0)))
  | .fatal f => faultSeq s x { f with lanes := 0, detail := 0 }

/-- The gate of a wave's word. -/
def waveGate (s : State) (x : WCtx) (rs : List Req) : Gate :=
  gate s (some (coreOfWave x.v)) (stackOfCore (coreOfWave x.v)) x.wv.ctx rs

/-! ### The address checks of R369 -/

/-- The bytes one lane touches: its address (team-local addresses may be negative), size, alignment, space, mode, and
whether the access may go to a system address (R188). -/
structure LaneAcc where
  lane  : Nat
  addr  : Int
  size  : Nat
  align : Nat
  glob  : Bool
  write : Bool
  sys   : Bool := true
  deriving DecidableEq, Repr

/-- The size of the team's region (R186): half the carve-out of the node's LOCAL, in units of 64 KiB (R92). -/
def regionSize (n : NodeInfo) : Nat := n.loc * 0x8000

/-- The range-lock entry that forbids an access (R217). -/
def lockHit (t : Team) (a : LaneAcc) : Option Nat :=
  match List.find? (fun e => e.2.glob == a.glob && (e.2.dst || a.write) &&
      decide (a.addr < (e.2.hi : Int) ∧ (e.2.lo : Int) < a.addr + a.size)) t.locks with
  | some e => some e.1
  | none => none

/-- The failing check of R369 for one access: its order, the cause, the subcode and the entry index. -/
def accFault (t : Team) (region : Nat) (a : LaneAcc) : Option (Nat × Nat × Nat × Nat) :=
  if a.glob ∧ (2 : Int) ^ 52 ≤ a.addr then some (1, fVaRange, 0, 0)
  else if !a.glob ∧ (a.addr < 0 ∨ (region : Int) < a.addr + a.size) then some (2, fLocalRange, 0, 0)
  else if a.align ≠ 0 ∧ a.addr % (a.align : Int) ≠ 0 then some (3, fMisaligned, 0, 0)
  else match lockHit t a with
    | some e => some (4, fRangeLock, 1, e)
    | none => none

/-- The first check of R369 that any lane fails, with the lowest lane that fails it and every lane that does. -/
def addrFault (t : Team) (region : Nat) (as : List LaneAcc) : Option FaultInfo :=
  let fs := as.filterMap (fun a => match accFault t region a with | some f => some (a, f) | none => none)
  match fs.foldl (fun m f => match m with
      | none => some f
      | some g => if f.2.1 < g.2.1 ∨ (f.2.1 = g.2.1 ∧ f.1.lane < g.1.lane) then some f else some g) none with
  | none => none
  | some f =>
    some { cause := f.2.2.1, sub := f.2.2.2.1, va := if f.1.glob then f.1.addr.toNat else 0,
           lanes := maskOf ((fs.filter (fun g => g.2.1 == f.2.1)).map (fun g => g.1.lane)),
           detail := f.1.lane + f.2.2.2.2 * 65536 }

/-! ### Team-local memory -/

/-- The team of a wave. -/
def teamOf (s : State) (wv : Wave) : Option Team := SMap.find? s.teams wv.team

/-- Copies into team-local memory that are in flight in a team (R384): address and copied byte. -/
def inflightIn (s : State) (t : Team) : List (Nat × Byte) :=
  t.waves.flatMap (fun v => match SMap.find? s.waves v with
    | some wv => wv.ops.flatMap (fun o => match o.kind with
        | .copy true _ bs _ => bs
        | _ => [])
    | none => [])

/-- A byte of a team's region as an ordinary read sees it (R385): under an inward copy in flight, either the old word
or the copied one; of lanes that write one byte, the last remains (R384). -/
def localByte (s : State) (t : Team) (fly : List (Nat × Byte)) (a : Nat) : Byte :=
  let old := SMap.get 0 t.mem a
  match fly.reverse.find? (fun b => b.1 == a) with
  | some b => if Config.freeBit s.free (0x20000 + a / 4) then b.2 else old
  | none => old

def localRead (s : State) (t : Team) (a n : Nat) : List Byte :=
  let fly := inflightIn s t
  (List.range n).map (fun j => localByte s t fly (a + j))

/-- What an ordinary write of a byte does to a copy in flight (R385): an inward copy's write of it falls before or
after; an outward copy may take the new value. -/
def OpKind.meetWrite (free : Nat) (k : OpKind) (a : Nat) (b : Byte) : OpKind :=
  let pick := Config.freeBit free (0x40000 + a / 4)
  match k with
  | .copy true ch bs src => if pick then .copy true ch (bs.filter (fun w => w.1 != a)) src else .copy true ch bs src
  | .copy false ch bs src =>
    let pas := (src.filter (fun r => r.1 == a && ch.contains (a / 512))).map (fun r => r.2.1)
    if pick then .copy false ch (bs.map (fun w => if pas.contains w.1 then (w.1, b) else w)) src
    else .copy false ch bs src
  | k => k

/-- Write bytes to a team's region (R371). -/
def localWrite (s : State) (team a : Nat) (bs : List Byte) : State :=
  match SMap.find? s.teams team with
  | none => s
  | some t =>
    let mem := bs.zipIdx.foldl (fun m b => SMap.set 0 (a + b.2) b.1 m) t.mem
    let s' := s.setTeam team { t with mem := mem }
    let busy := t.waves.filter (fun v => match SMap.find? s.waves v with
      | some wv => wv.ops.any (fun o => match o.kind with | .copy _ _ _ _ => true | _ => false)
      | none => false)
    let meet (o : PendOp) : PendOp :=
      { o with kind := bs.zipIdx.foldl (fun k b => k.meetWrite s.free (a + b.2) b.1) o.kind }
    busy.foldl (fun s v => { s with waves := SMap.modify v (fun wv => { wv with ops := wv.ops.map meet }) s.waves }) s'

/-! ### Code -/

/-- What reading a code word gives. -/
inductive Code
  | word (w : DWord)
  | wait (ws : List Walk)
  | park (cause : Nat)
  | fatal (cause : Nat)
  deriving DecidableEq, Repr

/-- Read the code word at a virtual address: a clause fetch, which needs X (R196). Code is read at its home.
DESIGN CHOICE, log 26, unsafe: of a word of a loaded image that software has overwritten, where R114 permits the old one or
the new one, a fetch gives the new one. -/
def fetchCode (s : State) (core : Option Nat) (st c va : Nat) : Code :=
  if 2 ^ 52 ≤ va then .fatal fVaRange
  else match xlate s core st c { lane := 0, va := va, size := 8, acc := .fetch } with
    | .hit pa => .word (BitVec.ofNat 64 (natOfBytes (homeBytes s pa 8)))
    | .miss => .wait [{ ctx := c, page := va / 4096, acc := .fetch, stack := st, core := core, who := askerOf s }]
    | .hold => .wait []
    | .fault cause => if causeKind cause = .parks then .park cause else .fatal cause

/-- What CheckAndBranch finds (R294, R308). -/
inductive BrRes
  | ok
  | bad (reason : Nat) (lanes : Mask)
  | wait (ws : List Walk)
  | park (pages : List (Nat × Nat × Nat × Mask))
  | fatal (f : FaultInfo)
  deriving DecidableEq, Repr

/-- CheckAndBranch of R308 on (lane, target): a failure of reason 1 or 2 decides over a translation fault; the target of
the lowest failing lane decides the reason. -/
def checkTargets (s : State) (core : Option Nat) (st c : Nat) (ts : List (Nat × Nat)) : BrRes :=
  let rs := ts.map (fun t =>
    (t, if t.2 % 8 ≠ 0 then none else some (fetchCode s core st c t.2)))
  let bads := rs.filterMap (fun r => match r.2 with
    | none => some (r.1, 1)
    | some (.word w) => if isHeader w then none else some (r.1, 2)
    | _ => none)
  let waits := rs.filterMap (fun r => match r.2 with | some (.wait ws) => some ws | _ => none)
  let fatals := rs.filterMap (fun r => match r.2 with | some (.fatal f) => some (r.1, f) | _ => none)
  let parks := rs.filterMap (fun r => match r.2 with
    | some (.park f) => some ({ lane := r.1.1, va := r.1.2, size := 8, acc := .fetch : Req }, f)
    | _ => none)
  if waits ≠ [] then .wait waits.flatten
  else match bads with
    | b :: _ => .bad b.2 (maskOf ((ts.filter (fun t => t.2 == b.1.2)).map (·.1)))
    | [] =>
      match fatals with
      | f :: _ => .fatal { cause := f.2, sub := 0, va := f.1.2, detail := f.1.1,
                           lanes := maskOf ((fatals.filter (fun g => g.2 == f.2)).map (fun g => g.1.1)) }
      | [] => if parks ≠ [] then .park (faultPages parks) else .ok

/-! ### Threads of a wave -/

/-- The run of lowest PC among the threads that are not WAITING (R147, R148). -/
def headRun (wv : Wave) : Option (Nat × Nat × Mask) :=
  let ready := wv.pcs.filter (fun p => p.2.wait.isNone)
  match ready with
  | [] => none
  | p :: ps =>
    let lo := ps.foldl (fun a q => if q.2.h < a.1 ∨ (q.2.h = a.1 ∧ q.2.i < a.2) then (q.2.h, q.2.i) else a) (p.2.h, p.2.i)
    some (lo.1, lo.2, maskOf ((ready.filter (fun q => q.2.h == lo.1 && q.2.i == lo.2)).map (·.1)))

/-- Every token a header waits for is idle (R151, R275). -/
def tokensIdle (tok : SMap Nat) (h : Header) : Bool :=
  (List.range 6).all (fun k => !h.wait.getLsbD k || SMap.get 0 tok k == 0)

/-- Threads of e wait: they leave the run and their entries record why (R148, R149). -/
def Wave.waitLanes (wv : Wave) (cl : Clause) (e : Mask) (why : Nat → Why) : Wave :=
  { wv with
    pcs := (lanesOf e).foldl (fun m l => SMap.modify l (fun p => { p with wait := some (why l) }) m) wv.pcs
    run := some { cl with run := cl.run &&& ~~~ e
                          waits := (lanesOf e).foldl (fun m l => SMap.insert l cl.i m) cl.waits } }

/-- Threads leave WAITING (R148). -/
def Wave.wakeLanes (now : Nat) (wv : Wave) (e : Mask) : Wave :=
  { wv with
    pcs := (lanesOf e).foldl (fun m l => SMap.modify l (fun p => { p with wait := none }) m) wv.pcs
    readySince := if wv.pcs.any (fun p => p.2.wait.isNone) then wv.readySince else now }

/-- Threads of e branch (R149). -/
def Wave.branch (wv : Wave) (cl : Clause) (ts : List (Nat × Nat)) : Wave :=
  { wv with run := some { cl with run := cl.run &&& ~~~ maskOf (ts.map (·.1))
                                  gone := ts.foldl (fun m t => SMap.insert t.1 t.2 m) cl.gone } }

/-- The lanes that have not exited. -/
def Wave.live (wv : Wave) : Mask := maskOf (wv.pcs.map (·.1))

/-- The header a wave's report names, and the lanes: its clause's, or its head run's (R74, R336). -/
def pcOfWave (wv : Wave) : Nat :=
  match wv.run with
  | some c => c.h
  | none => match headRun wv with | some (h, _, _) => h | none => 0

def lanesOfWave (wv : Wave) : Mask :=
  match wv.run with
  | some c => c.run
  | none => match headRun wv with | some (_, _, e) => e | none => 0

/-- The release check of R153 for every mask register. -/
def Wave.releaseMasks (now : Nat) (wv : Wave) : Wave :=
  (List.range 12).foldl (fun wv n =>
    let a := SMap.get 0 wv.arr n
    if a ≠ 0 ∧ wv.getM n &&& ~~~ a = 0 then
      { wv.wakeLanes now a with arr := SMap.erase n wv.arr }
    else wv) wv

/-- The lanes of a wave that wait at barrier b. -/
def Wave.atBar (wv : Wave) (b : Nat) : Mask :=
  maskOf ((wv.pcs.filter (fun p => p.2.wait == some (.bar b))).map (·.1))

/-- A release outside a word: the core's writes go home and its copies go; what it meets faults the context (R46, R401). -/
def releaseAs (s : State) (g : Nat) (r : Report) : State :=
  match releaseLoss s g with
  | some c => (l1Flush s g).fatal { r with cause := c }
  | none => l1Flush s g

/-- A completed barrier is a cross-path completion (R209, R214): as FPATH, for a team's core. -/
def crossPath (s : State) (g c : Nat) : State := releaseAs s g (reportOf c (unitOfCore g) 0xFFFF 0 (.of 0 0 0))

/-- The compute waves of a team that have not ended. -/
def computeWaves (s : State) (t : Team) : List (Nat × Wave) :=
  t.waves.filterMap (fun v => match SMap.find? s.waves v with
    | some wv => if wv.access then none else some (v, wv)
    | none => none)

/-- Barrier b of a team completes when every compute wave that has not ended has every thread waiting at it (R157,
R316), and no link holds up the release (R29, R209). A wave with no thread left counts as ended here. -/
def barReady (s : State) (t : Team) (b : Nat) : Bool :=
  (computeWaves s t).any (fun w => w.2.pcs != []) && (computeWaves s t).all (fun w => w.2.live &&& ~~~ w.2.atBar b == 0) &&
    !releaseWaits s t.core

/-- A completed barrier releases its threads, and orders memory (R209). -/
def barRelease (s : State) (t : Team) (b : Nat) : State :=
  (computeWaves s t).foldl (fun s w => s.setWave w.1 (w.2.wakeLanes s.aclk (w.2.atBar b))) (crossPath s t.core t.cons.ctx)

/-- Check barrier b of a team. -/
def barCheck (s : State) (team b : Nat) : State :=
  match SMap.find? s.teams team with
  | none => s
  | some t => if barReady s t b then barRelease s t b else s

/-- Every barrier of a team is checked again after a thread exits or a wave ends (R157). -/
def barChecks (s : State) (team : Nat) : State := (List.range 16).foldl (fun s b => barCheck s team b) s

/-- Satisfy the waiters at the head of a semaphore's queue while the count covers them (R317). -/
def semServe : Nat → Nat → List (Nat × Nat × Mask) → List (Nat × Nat × Mask) × Nat × List (Nat × Mask)
  | 0, c, q => (q, c, [])
  | _ + 1, c, [] => ([], c, [])
  | k + 1, c, (n, v, e) :: q =>
    if n ≤ c then
      let r := semServe k (c - n) q
      (r.1, r.2.1, (v, e) :: r.2.2)
    else ((n, v, e) :: q, c, [])

/-- Serve semaphore i of a team: counts fall and threads of satisfied waiters go on. -/
def semCheck (s : State) (team i : Nat) : State :=
  match SMap.find? s.teams team with
  | none => s
  | some t =>
    let q := SMap.get [] t.semq i
    let r := semServe q.length (SMap.get 0 t.sems i) q
    let took := SMap.get 0 t.sems i - r.2.1
    let s := s.setTeam team { t with sems := SMap.set 0 i r.2.1 t.sems, semq := SMap.set [] i r.1 t.semq,
                                     semAt := SMap.modify i (fun a => (a.1, a.2.1, a.2.2 + took)) t.semAt }
    r.2.2.foldl (fun s w => match SMap.find? s.waves w.1 with
      | some wv => s.setWave w.1 (wv.wakeLanes s.aclk w.2)
      | none => s) s

end Sys2Proof.Machine
end

