-- ==== Sys2Proof/Machine/Sched.lean ====
section
/-!
DEFINITION. What the scheduler keeps of records and consumers: tables of an image (R92-R94), appending records (R118,
R129), retirement of records (R138), the exit of a consumer (R117, R129, R130), and the end of waves and teams (R156,
R169, R326).
-/

namespace Sys2Proof.Machine

/-! ### Tables -/

def imageOf (s : State) (c img : Nat) : Option Image := SMap.find? (s.ctx c).images img

def qidOf (s : State) (c img node : Nat) : Nat :=
  match imageOf s c img with | some im => im.qdir.getD node 0 | none => 0

/-- The edges out of a node (R92, R93). -/
def edgesFrom (im : Image) (n : Nat) : List Edge :=
  match im.nodes[n]? with
  | some nd => (im.edges.drop nd.edge0).take nd.edges
  | none => []

/-- The edge of a port among a node's edges (R93). -/
def portEdge (s : State) (c img node port : Nat) : Option Edge :=
  match imageOf s c img with
  | some im => (edgesFrom im node).find? (fun e => e.port == port)
  | none => none

/-- The record size of a node, in bytes (R92, R94). -/
def recSize (s : State) (c img node : Nat) : Nat :=
  match imageOf s c img with
  | some im => match im.nodes[node]? with
    | some nd => match im.fmts[nd.fmt]? with | some f => f.1 | none => 0
    | none => 0
  | none => 0

/-- Whether a node has a continuation edge (R93, R130). -/
def hasCont (s : State) (c img node : Nat) : Bool :=
  match imageOf s c img with | some im => (edgesFrom im node).any (·.cont) | none => false

def updCtx (s : State) (c : Nat) (f : Ctx → Ctx) : State := s.setCtx c (f (s.ctx c))

def updLaunch (s : State) (c tag : Nat) (f : Launch → Launch) : State :=
  updCtx s c (fun x => { x with launches := SMap.modify tag f x.launches })

def launchOf (s : State) (c tag : Nat) : Option Launch := SMap.find? (s.ctx c).launches tag

def updQueue (s : State) (q : Nat) (f : Queue → Queue) : State := { s with queues := SMap.modify q f s.queues }

/-- Add to, and take from, a count kept as a map. -/
def bump (k n : Nat) (m : SMap Nat) : SMap Nat := SMap.set 0 k (SMap.get 0 m k + n) m
def drop (k n : Nat) (m : SMap Nat) : SMap Nat := SMap.set 0 k (SMap.get 0 m k - n) m

/-- Count an operation a unit completed (R77).
DEDUCED, log 18, unsafe: what counts as one operation. -/
def State.count (s : State) (unit : Nat) : State := { s with counts := bump unit 1 s.counts }

/-! ### Appending records -/

/-- A record between its emitter and its queue; it counts in O(D) and for its launch at once (R117, R129, R137). -/
def emitRec (s : State) (src stack c img dst : Nat) (r : Rec) : State :=
  let s := { s with transit := s.transit ++ [{ src := src, stack := stack, ctx := c, img := img, node := dst, rcd := r, park := .no }] }
  let s := updQueue s (qidOf s c img dst) (fun q => { q with occ := q.occ + 1 })
  updLaunch s c r.tag (fun l => { l with queued := bump dst 1 l.queued })

/-- A record's words from bytes, cut or filled with zeros to the destination's size (R258, R321). -/
def recWords (size : Nat) (bs : List Byte) : List Word :=
  (List.range (size / 4)).map (fun j => BitVec.ofNat 32 (natOfBytes ((bs.drop (4 * j)).take 4)))

/-- The bytes of a record (R10). -/
def recBytes (ws : List Word) : List Byte := ws.flatMap (fun w => bytesOf 4 w.toNat)

/-- A new record of a launch. -/
def mkRec (s : State) (words : List Word) (tag depth : Nat) (parent : Option Nat) : Rec :=
  { words := words, tag := tag, depth := depth, parent := parent, id := s.nextId, entry := none, load := none,
    arr := s.aclk, blk := none, page := none }

/-- Lower a consumer's reservation on a port and Rv of its destination (R128, R129, R322). -/
def useResv (s : State) (k : Cons) (port n : Nat) : State × Cons :=
  match portEdge s k.ctx k.img k.node port with
  | some e =>
    (updQueue s (qidOf s k.ctx k.img e.dst) (fun q => { q with rv := q.rv - n }), { k with resv := drop port n k.resv })
  | none => (s, k)

/-- Append one record on a port, lowering the reservation by one (R129). -/
def appendOn (s : State) (src stack : Nat) (k : Cons) (port : Nat) (words : List Word) (depth : Nat) (parent : Option Nat) :
    State × Cons :=
  match portEdge s k.ctx k.img k.node port with
  | some e =>
    let r := mkRec s words k.tag depth parent
    let (s, k) := useResv s.fresh k port 1
    (emitRec s src stack k.ctx k.img e.dst r, k)
  | none => (s, k)

/-! ### Retirement of records (R138) -/

/-- A consumer takes records (R127): they leave the queue's count for the launch and wait to retire. -/
def takeRecs (s : State) (c tag node : Nat) (rs : List Rec) : State :=
  updLaunch s c tag (fun l =>
    { l with queued := drop node rs.length l.queued
             unret := bump node rs.length l.unret
             tree := rs.foldl (fun t r => SMap.insert r.id (r.parent, 0, node, false) t) l.tree })

/-- A record retires when it has exited and no child is left; its parent then loses a child. `fuel` bounds the chain of
parents. A record that ended by EXIT.C returns its token as it retires (R130). -/
def retireFrom : Nat → State → Nat → Nat → Nat → Bool → State
  | 0, s, _, _, _, _ => s
  | fuel + 1, s, c, tag, id, tok =>
    match launchOf s c tag with
    | none => s
    | some l =>
      match SMap.find? l.tree id with
      | none => s
      | some (parent, kids, node, exited) =>
        if exited ∧ kids = 0 then
          let s := updLaunch s c tag (fun l =>
            { l with tree := SMap.erase id l.tree, unret := drop node 1 l.unret })
          let s := if tok then updCtx s c (fun x => { x with tokens := x.tokens + 1 }) else s
          match parent with
          | none => s
          | some p =>
            let s := updLaunch s c tag (fun l =>
              { l with tree := SMap.modify p (fun e => (e.1, e.2.1 - 1, e.2.2)) l.tree })
            retireFrom fuel s c tag p true
        else s

/-- The end of a record's thread or consumer: with `kids` continuation records, or none (R138). -/
def recDone (s : State) (c tag id kids : Nat) : State :=
  let s := updLaunch s c tag (fun l =>
    { l with tree := SMap.modify id (fun e => (e.1, e.2.1 + kids, e.2.2.1, true)) l.tree })
  retireFrom 16 s c tag id false

/-! ### The exit of a consumer -/

/-- Free a record's place in the record store or the spill region (R119). -/
def freePlace (q : Queue) (r : Rec) : Queue :=
  let dec (m : SMap Nat) (k : Nat) : SMap Nat := drop k 1 m
  let q := match r.blk with
    | some (st, b) =>
      if st = 0 then { q with half0 := { q.half0 with blocks := dec q.half0.blocks b } }
      else { q with half1 := { q.half1 with blocks := dec q.half1.blocks b } }
    | none => q
  match r.page with
  | some p => { q with pages := SMap.erase p q.pages }
  | none => q

/-- The consumer exits (R117, R119, R129, R130, R137): its records leave O(q), the reservation that remains is released,
and the tokens of records that did not end by EXIT.C return. -/
def consumerExit (s : State) (k : Cons) : State :=
  let s := k.resv.foldl (fun s p => (useResv s k p.1 p.2).1) s
  let s := updQueue s (qidOf s k.ctx k.img k.node) (fun q =>
    k.recs.foldl freePlace { q with occ := q.occ - k.recs.length })
  let took := hasCont s k.ctx k.img k.node && k.recs.all (fun r => decide (r.depth < 10))
  let s := if took then updCtx s k.ctx (fun x => { x with tokens := x.tokens + (k.recs.length - k.contd) }) else s
  updLaunch s k.ctx k.tag (fun l => { l with running := drop k.node 1 l.running, stallFrom := none })

/-- The exit of a consumer of another kind than 0: its one record retires with it (R138). -/
def consumerDone (s : State) (k : Cons) : State :=
  consumerExit (k.recs.foldl (fun s r => recDone s k.ctx k.tag r.id 0) s) k

/-! ### The end of waves and teams -/

/-- The releases that a wave has begun and that are not complete (R212). -/
def Wave.releasing (wv : Wave) : Bool := wv.fences.any (fun f => !f.2.2)

/-- The releases of a wave complete (R174, R381). -/
def settleFences (s : State) (v : Nat) (wv : Wave) : State :=
  if wv.releasing then
    { releaseAs s (coreOfWave v) (reportOf wv.ctx (unitOfCore (coreOfWave v)) (v % 48) 0 (.of 0 0 0)) with
      waves := SMap.modify v (fun u => { u with fences := u.fences.map (fun f => (f.1, (f.2.1, true))) }) s.waves }
  else s

/-- A wave that is gone holds no FIFO of its core (R253). -/
def dropHold (s : State) (v : Nat) : State :=
  let q := s.vq (coreOfWave v)
  { s with vqs := SMap.set VQueue.reset (coreOfWave v) { q with hold := q.hold.filter (fun h => h.2 != v) } s.vqs }

/-- Forget a wave: its slot, its monitors, what its walks found, its pair (R169), its place in semaphore queues (R317); its
releases complete regardless (R381). -/
def dropWave (s : State) (v : Nat) : State :=
  match SMap.find? s.waves v with
  | none => s
  | some wv =>
    let s := dropHold (settleFences s v wv) v
    let who := askerCode (unitOfCore (coreOfWave v)) (v % 48)
    let unpair (u : Wave) : Wave := if u.pair = some v then { u with pair := none } else u
    let waves := SMap.erase v s.waves
    let s := { s with
      waves := match wv.pair with | some p => SMap.modify p unpair waves | none => waves
      mons := s.mons.filter (fun m => m.wave != v)
      walks := s.walks.filter (fun w => w.who != who), wfault := s.wfault.filter (fun f => f.who != who) }
    match SMap.find? s.teams wv.team with
    | none => s
    | some t =>
      let touched := (t.semq.filter (fun q => q.2.any (fun w => w.2.1 == v))).map (·.1)
      let semq := t.semq.filterMap (fun q =>
        let ws := q.2.filter (fun w => w.2.1 != v)
        if ws = [] then none else some (q.1, ws))
      let s := s.setTeam wv.team { t with waves := t.waves.filter (· != v), semq := semq,
                                          ended := t.ended + (if wv.access then 0 else 1) }
      touched.foldl (fun s i => semCheck s wv.team i) s

/-- A migration of a team from a core is over: the core's throttle goes unless another team of it still waits (R145). -/
def liftThrottle (s : State) (team g : Nat) : State :=
  if s.teams.any (fun t => t.1 != team && t.2.core == g && t.2.migrate && t.2.st != .written) then s
  else { s with ratio := SMap.erase g s.ratio }

/-- The team ends when its last wave has ended (R156): its consumer exits. -/
def teamEndCheck (s : State) (team : Nat) : State :=
  match SMap.find? s.teams team with
  | none => s
  | some t =>
    if t.waves = [] ∧ t.saved = [] then
      let s := if t.migrate then liftThrottle s team t.core else s
      (consumerExit { s with teams := SMap.erase team s.teams } t.cons).count (unitOfDispatcher (stackOfCore t.core))
    else s

/-- A wave whose threads have all exited ends once every operation it issued has completed (R326). A compute wave takes
its access wave with it; an access wave that ends leaves its compute wave the window (R169). -/
def waveEndCheck (s : State) (v : Nat) : State :=
  match SMap.find? s.waves v with
  | none => s
  | some wv =>
    if wv.pcs = [] ∧ wv.ops = [] ∧ wv.run = none then
      let s := dropWave s v
      if wv.access then
        match wv.pair with
        | none => s
        | some p =>
          match SMap.find? s.waves p with
          | none => s
          | some cw =>
            let popping := maskOf ((cw.pcs.filter (fun q => match q.2.wait with | some (.pop _) => true | _ => false)).map (·.1))
            if cw.qc = 0 ∧ popping ≠ 0 then
              s.fatal (reportOf cw.ctx (unitOfCore (coreOfWave p)) (p % 48) (pcOfWave cw) (.of fQwinEmpty 0 popping))
            else s
      else
        let s := match wv.pair with | some p => dropWave s p | none => s
        teamEndCheck (barChecks s wv.team) wv.team
    else s

end Sys2Proof.Machine
end

