-- ==== Sys2Proof/Machine/Fetch.lean ====
section
/-!
DEFINITION. Fetching and issuing words: the choice of a clause by a port (R151, R164, R173), the checks of headers and
words (R276-R279), one word of a wave, a sequencer or a moraine core made ready to run, and what follows it: PCs (R149),
the fall-through check (R295), timing (R290), and the count of R171.
-/

namespace Sys2Proof.Machine

/-! ### Who may issue -/

/-- Cores run while their compute die and foundation die are in RUN or QUIESCE (R41), and the ACLK tree is not stopped for a
change of point (R31). -/
def dieRuns (s : State) (d : Nat) : Bool :=
  match (s.die d).st with | .run => true | .quiesce => true | _ => false

def stackRuns (s : State) (st : Nat) : Bool := s.power && s.moving.isNone && dieRuns s st && dieRuns s (2 + st)

/-- A context whose waves still begin clauses and issue words (R59, R69, R143). -/
def ctxRuns (s : State) (c : Nat) : Bool := (s.ctx c).st == .active

/-- A wave's fetch of a code word. -/
def waveFetch (s : State) (v : Nat) (wv : Wave) (va : Nat) : Code :=
  fetchCode { s with cur := some (.wave v) } (some (coreOfWave v)) (stackOfCore (coreOfWave v)) wv.ctx va

/-- This edge of the tree is one that a core receives: every r-th at a throttle of 1/r (R32). -/
def edgeHere (s : State) (g : Nat) : Bool :=
  decide (SMap.get 0 s.ratio g ≤ 1) || s.aclk % SMap.get 0 s.ratio g == 0

/-- YIELD's hold is over (R311). -/
def yieldOver (s : State) (g : Nat) (wv : Wave) : Bool :=
  match wv.yieldTo with
  | none => true
  | some (ws, till) => ws == [] || decide (till ≤ coreEdges s g)

/-- A wave at a safe point (R170): no head run, parked on a translation fault or, as on one, by BRK (R331), or a header with
S = 1. -/
def atSafePoint (s : State) (v : Nat) (wv : Wave) : Bool :=
  wv.run.isNone && (wv.park != .no ||
    match headRun wv with
    | none => true
    | some (h, i, _) => i == 0 && (match waveFetch s v wv h with
        | .word w => isHeader w && w.getLsbD 45
        | _ => false))

/-- Some wave of a team is in a non-preemptible region (R172). -/
def teamInRegion (s : State) (t : Team) : Bool :=
  t.waves.any (fun v => match SMap.find? s.waves v with | some wv => wv.np.isSome | none => false)

/-- A wave of a stopping team stops here (R173). -/
def stopsHere (s : State) (v : Nat) (wv : Wave) : Bool :=
  match SMap.find? s.teams wv.team with
  | none => false
  | some t => t.st == .stopping && atSafePoint s v wv && !teamInRegion s t

/-- A wave that may begin a clause if its header allows it: R151's tests but for residency and the wait mask, and R69, R71,
R173. -/
def mayBegin (s : State) (v : Nat) (wv : Wave) : Bool :=
  wv.run.isNone && wv.park == .no && !wv.stopped && ctxRuns s wv.ctx &&
    stackRuns s (stackOfCore (coreOfWave v)) && (headRun wv).isSome &&
    !(match SMap.find? s.teams wv.team with | some t => t.st == .stopped || t.st == .written | none => true) &&
    !stopsHere s v wv

/-- How a wave answers a port: the head run's PC and lanes with its header, or the fault that selecting it takes. -/
inductive Pick
  | clause (h : Header)
  | not
  | bad (f : FaultInfo)
  | park (cause : Nat)
  | walk (ws : List Walk)
  deriving DecidableEq, Repr

/-- The classes an executor runs (R276). -/
def classOk (access seq : Bool) (cls : Nat) : Bool :=
  if seq then cls == 5 || cls == 7 else if access then cls == 6 else decide (cls ≤ 5)

/-- Check a header word (R278, reasons 5, 6 and 8 in slot 0; a word that is no header, R295). -/
def checkHeader (access seq : Bool) (w : DWord) : Sum (Nat × Nat) Header :=
  if !isHeader w then .inl (fClauseEntry, 3)
  else match decodeHeader w with
    | .error r => .inl (fIllegalInstr, r)
    | .ok h => if classOk access seq h.cls then .inr h else .inl (fIllegalInstr, 8)

def pickWave (s : State) (v : Nat) (wv : Wave) : Pick :=
  if !mayBegin s v wv then .not
  else match headRun wv with
    | none => .not
    | some (h, _, run) =>
      match waveFetch s v wv h with
      | .wait ws => .walk ws
      | .park c => .park c
      | .fatal c => .bad { cause := c, sub := 0, va := h, lanes := run, detail := 0 }
      | .word w =>
        match checkHeader wv.access false w with
        | .inl f => .bad (.of f.1 f.2 0)
        | .inr hd => if tokensIdle wv.tok hd then .clause hd else .not

/-- The waves of a core, in slot order. -/
def coreWaves (s : State) (g : Nat) : List (Nat × Wave) :=
  s.waves.filter (fun w => decide (g * 48 ≤ w.1 ∧ w.1 < g * 48 + 48))

/-- A wave is ready but for residency (R151, R164). -/
def wouldRun (s : State) (v : Nat) (wv : Wave) : Bool := match pickWave s v wv with | .clause _ => true | _ => false

/-- A wave is ready (R151). -/
def isReady (s : State) (v : Nat) (wv : Wave) : Bool := wv.res == .resident && wouldRun s v wv

/-- What a port sees of a wave: nothing while it is parked in the firn store or held by YIELD, or before its last clause is
over (R151, R163, R290, R311). -/
def offered (s : State) (v : Nat) (wv : Wave) : Pick :=
  if wv.res == .resident && yieldOver s (coreOfWave v) wv && decide (wv.cyc ≤ coreEdges s (coreOfWave v) + 1) then pickWave s v wv
  else .not

/-- Begin a clause with the head run (R149, R151, R171): YIELD holds that wait for this wave lose it. -/
def beginClause (s : State) (g p v : Nat) (wv : Wave) (hd : Header) (run : Nat × Nat × Mask) : State :=
  let cl : Clause := { h := run.1, count := hd.count, cls := hd.cls, i := run.2.1, run := run.2.2, gone := [], waits := [],
                       port := p, yielded := false, sent := 0 }
  let wv := { wv with run := some cl, begun := s.aclk, hint := hd.park, yieldTo := none,
                      spcount := if hd.s then 0 else wv.spcount, cyc := max wv.cyc (coreEdges s g + 1) }
  let held (w : Nat × Wave) : Nat × Wave :=
    if g * 48 ≤ w.1 ∧ w.1 < g * 48 + 48 then
      (w.1, { w.2 with yieldTo := w.2.yieldTo.map (fun y => (y.1.filter (· != v), y.2)) })
    else w
  { s with waves := s.waves.map held }.setWave v wv

/-- CLAUSE_SELECT (R151): the free port takes the ready wave whose last clause began longest ago, ties to the lower
slot. A wave whose header cannot be read yet asks for a walk, a parked one too; one whose header faults is taken and faults. -/
def selectClause (s : State) (g p : Nat) : State :=
  let ws := coreWaves s g
  let busy := ws.any (fun w => match w.2.run with | some c => c.port == p | none => false)
  if busy ∨ p ≥ 4 ∨ !edgeHere s g then s
  else
    let picks := ws.map (fun w => (w.1, w.2, offered s w.1 w.2))
    let asks := ws.map (fun w => if w.2.res == .parked then pickWave s w.1 w.2 else offered s w.1 w.2)
    let s := asks.foldl (fun s k => match k with | .walk w => w.foldl askWalk s | _ => s) s
    let able := picks.filter (fun k => match k.2.2 with | .clause _ => true | .bad _ => true | .park _ => true | _ => false)
    match able.foldl (fun (a : Option (Nat × Wave × Pick)) k => match a with
        | none => some k
        | some b => if k.2.1.begun < b.2.1.begun then some k else a) none with
    | none => s
    | some (v, wv, k) =>
      match headRun wv with
      | none => s
      | some run =>
        match k with
        | .clause hd => beginClause s g p v wv hd run
        | .bad f => (s.setWave v { wv with stopped := true }).fatal (reportOf wv.ctx (unitOfCore g) (v % 48) run.1 f)
        | .park cause =>
          (s.setWave v { wv with park := .xlat, notReadySince := s.aclk }).logPages wv.ctx (unitOfCore g) (v % 48) run.1
            [(cause, run.1 / 4096, run.1, run.2.2)]
        | _ => s

/-! ### Which words a clause may hold -/

def majorOf (i : Instr) : Nat := ((encodeNative i).extractLsb' 58 6).toNat
def stallOf (i : Instr) : Nat := ((encodeNative i).extractLsb' 48 3).toNat

/-- BRA, CALL, BRX and RET, which may end a clause of any class from 0 to 4 (R277). -/
def isBranchWord (w : DWord) : Bool := (w.extractLsb' 58 6).toNat == 0 && decide ((w.extractLsb' 51 7).toNat < 4)

/-- The words of an access slice (R101). -/
def accessWord (i : Instr) : Bool :=
  let m := majorOf i
  decide (0x0C ≤ m ∧ m ≤ 0x17) ||
  match i with
  | .ld _ _ => true
  | .lda _ _ => true
  | .pref _ => true
  | .exitW _ => true
  | .join _ => false
  | i => i.cls == 5 && m != 2

/-- The class-5 words a sequencer runs (R277). -/
def seqControl (i : Instr) : Bool := majorOf i == 0 || majorOf i == 0x3A

/-- R277; `tail` says that only branch words follow. -/
def permitted (cls : Nat) (seq tail : Bool) (i : Instr) : Bool :=
  if seq then (cls == 7 && i.cls == 7) || (i.cls == 5 && seqControl i)
  else if cls = 6 then accessWord i
  else i.cls == cls || (decide (cls ≤ 4) && tail && majorOf i == 0 && isBranchWord (encodeNative i))

/-- The words after word i of a clause are all branch words (R277): a word that can be read and is none decides; else
one that cannot be read keeps the answer open.
DEDUCED, log 38, safe: the word then waits, parks or faults with it. -/
def tailOf (fetch : Nat → Code) (cl : Clause) : Sum (Nat × Code) Bool :=
  let ws := ((List.range cl.count).filter (fun j => decide (cl.i < j))).map (fun j => (cl.h + 8 * (j + 1), fetch (cl.h + 8 * (j + 1))))
  if ws.any (fun w => match w.2 with | .word x => !isBranchWord x | _ => false) then .inr false
  else match ws.find? (fun w => match w.2 with | .word _ => false | _ => true) with
    | some w => .inl w
    | none => .inr true

/-- What stands in a word slot: the instruction, the reason of R278, or a later word that must be read first. -/
inductive WordCheck
  | ok (i : Instr)
  | bad (reason : Nat)
  | stuck (va : Nat) (c : Code)
  deriving DecidableEq, Repr

/-- Check a word (R277, R278). A load to v255 may name no token only in an access wave (R289); in a sequencer MSEL is 15
(R402). -/
def checkWord (access seq : Bool) (cl : Clause) (fetch : Nat → Code) (w : DWord) : WordCheck :=
  let perm (i : Instr) (r : WordCheck) : WordCheck :=
    if permitted cl.cls seq false i then r
    else if !permitted cl.cls seq true i then .bad 3
    else match tailOf fetch cl with
      | .inl c => .stuck c.1 c.2
      | .inr tail => if tail then r else .bad 3
  match decodeNative w with
  | .ok i =>
    let tok7 := w.extractLsb' 45 3 == 7 && w.extractLsb' 36 9 == 0xFF && !access &&
      (match i with | .ld _ _ => true | .lda _ _ => true | _ => false)
    if seq && i.cls == 5 && w.extractLsb' 5 4 != 15 then .bad 2 else perm i (if tok7 then .bad 4 else .ok i)
  | .error 4 =>
    match instrOf (w.extractLsb' 58 6).toNat (w.extractLsb' 51 7).toNat w with
    | some i => if seq && i.cls == 5 && w.extractLsb' 5 4 != 15 then .bad 2 else perm i (.bad 4)
    | none => .bad 4
  | .error r => .bad r

/-! ### A word made ready to run -/

/-- What `step` does with a unit: run an instruction in a state, or only move to a state. -/
inductive Prep
  | run (i : Instr) (s : State)
  | stop (s : State)

/-- The execution mask a raw word selects (R280); a reserved selector, format L, or a header gives the head run. -/
def rawMask (wv : Wave) (cl : Clause) (w : DWord) : Mask :=
  let m := w.extractLsb' 5 4
  if m.toNat < 12 ∧ isHeader w = false ∧ ¬ ((w.extractLsb' 58 6).toNat = 0x10 ∧ (w.extractLsb' 51 7).toNat = 1) then execMask wv cl m else cl.run

/-- PCs after a clause (R149): for a word j from which a thread goes on. -/
def nextPc (cl : Clause) (j : Nat) : Nat × Nat := if j + 1 < cl.count then (cl.h, j + 1) else (cl.h + 8 * (cl.count + 1), 0)

/-- The PC table after the clause; `at_` is the PC of the threads still in the run. -/
def newPcs (wv : Wave) (cl : Clause) (at_ : Nat × Nat) : SMap PcE :=
  wv.pcs.map (fun p =>
    match SMap.find? cl.gone p.1 with
    | some t => (p.1, { p.2 with h := t, i := 0 })
    | none =>
      match SMap.find? cl.waits p.1 with
      | some j => (p.1, { p.2 with h := (nextPc cl j).1, i := (nextPc cl j).2 })
      | none => if cl.run.getLsbD p.1 then (p.1, { p.2 with h := at_.1, i := at_.2 }) else p)

/-- The waves of a stopping team that stand at a safe point stop there (R173). -/
def markStops (s : State) (team : Nat) : State :=
  match SMap.find? s.teams team with
  | none => s
  | some t =>
    if t.st = .stopping then
      t.waves.foldl (fun s v => match SMap.find? s.waves v with
        | some wv => if stopsHere s v wv then s.setWave v { wv with stopped := true } else s
        | none => s) s
    else s

/-- Close a clause: the PC table, the port, and YIELD's hold (R311). -/
def closeClause (s : State) (v : Nat) (at_ : Nat × Nat) : State :=
  match SMap.find? s.waves v with
  | none => s
  | some wv =>
    match wv.run with
    | none => s
    | some cl =>
      let wv' := { wv with pcs := newPcs wv cl at_, run := none }
      let s := s.setWave v (if wouldRun s v wv' then { wv' with readySince := s.aclk } else { wv' with notReadySince := s.aclk })
      let s := if cl.yielded then
          let g := coreOfWave v
          let ready := ((coreWaves s g).filter (fun w => w.1 != v && isReady s w.1 w.2)).map (·.1)
          { s with waves := SMap.modify v (fun wv => { wv with yieldTo := some (ready, coreEdges s g + 256) }) s.waves }
        else s
      waveEndCheck (markStops s wv.team) v

/-- A wave that waits at issue, or for a code word, frees its port, so that it holds only itself (R181, R400).
DESIGN CHOICE, log 16, safe: for the order of R164 it is not ready since now, and ready since now once it is parked. -/
def freePort (s : State) (v : Nat) : State :=
  let free (wv : Wave) : Wave :=
    { wv with run := wv.run.map (fun c => { c with port := 4 }), notReadySince := s.aclk, readySince := s.aclk }
  { s with waves := SMap.modify v free s.waves }

/-- The end of a clause, with the read of the word after it (R149, R295). -/
def endClause (s : State) (v : Nat) : State :=
  match SMap.find? s.waves v with
  | none => s
  | some wv =>
    match wv.run with
    | none => s
    | some cl =>
      let nxt := cl.h + 8 * (cl.count + 1)
      if cl.run = 0 then closeClause s v (nxt, 0)
      else
        match waveFetch s v wv nxt with
        | .wait ws => ws.foldl askWalk (freePort (s.setWave v { wv with run := some { cl with i := cl.count } }) v)
        | .word w =>
          if isHeader w then closeClause s v (nxt, 0)
          else (closeClause s v (nxt, 0)).fatal
            (reportOf wv.ctx (unitOfCore (coreOfWave v)) (v % 48) cl.h (.of fClauseEntry (slotSub 3 (cl.count - 1)) cl.run))
        | .park c =>
          let s := closeClause s v (nxt, 0)
          { s with waves := SMap.modify v (fun wv => { wv with park := .xlat, notReadySince := s.aclk }) s.waves }.logPages wv.ctx
            (unitOfCore (coreOfWave v)) (v % 48) nxt [(c, nxt / 4096, nxt, cl.run)]
        | .fatal c => (closeClause s v (nxt, 0)).fatal
            (reportOf wv.ctx (unitOfCore (coreOfWave v)) (v % 48) nxt
              { cause := c, sub := 0, va := nxt, lanes := cl.run, detail := 0 })

/-- A parked word ends its clause (R178): the run stands at the word, or after it for BRK (R331). -/
def endParked (s : State) (v : Nat) : State :=
  match SMap.find? s.waves v with
  | none => s
  | some wv =>
    match wv.run with
    | none => s
    | some cl => closeClause s v (if wv.park = .brk then nextPc cl cl.i else (cl.h, cl.i))

/-- The wave context of a wave with a clause. -/
def wctxOf (s : State) (v : Nat) (e : Clause → Mask) : Option WCtx :=
  match SMap.find? s.waves v with
  | some wv =>
    match wv.run, nodeOf s wv.ctx wv.img wv.node with
    | some cl, some nd => some { v := v, wv := wv, cl := cl, nd := nd, e := e cl }
    | _, _ => none
  | none => none

/-- F_SAFEPOINT_BOUND: the word that would make the count 4,097 is not issued (R171). -/
def boundFault (s : State) (x : WCtx) : State := faultWave s x (.of fSafepointBound 0 x.cl.run)

/-- A wave of a context that has faulted stops before its next clause: the words of the one it runs still issue (R69). -/
def midClause (s : State) (c : Nat) : Bool := (s.ctx c).st == .active || (s.ctx c).st == .faulted

/-- The port on which a wave's next word issues: its own, or, after a wait, the lowest that is free (R151, R181). -/
def portFor (s : State) (v : Nat) (cl : Clause) : Option Nat :=
  if cl.port < 4 then some cl.port
  else (List.range 4).find? (fun p => !(coreWaves s (coreOfWave v)).any (fun w => match w.2.run with | some c => c.port == p | none => false))

/-- A wave's timer of its non-preemptible region has run out (R172). -/
def npOver (s : State) (v : Nat) (wv : Wave) : Bool :=
  match wv.np with | some since => decide (since + 65536 ≤ coreEdges s (coreOfWave v)) | none => false

/-- Code that the next word needs and that is no word (R277, R294): the walks it asks for, the park, or the fault. -/
def stuckWave (s : State) (v : Nat) (x : WCtx) (va : Nat) (c : Code) : State :=
  match c with
  | .wait ws => ws.foldl askWalk (freePort s v)
  | .park c => endParked (parkWave s x [(c, va / 4096, va, x.cl.run)]) v
  | .fatal c => faultWave s x { cause := c, sub := 0, va := va, lanes := x.cl.run, detail := 0 }
  | .word _ => s

/-- The next word of a resident wave's clause, checked (R278, R171), or the move that takes its place. A word issues on an edge its
core receives (R32), no earlier than R290 permits. -/
def prepWave (s : State) (v : Nat) : Prep :=
  match wctxOf s v (·.run) with
  | none => .stop s
  | some x =>
    let g := coreOfWave v
    if x.wv.stopped || x.wv.res != .resident || !midClause s x.wv.ctx || !stackRuns s (stackOfCore g) || !edgeHere s g then .stop s
    else if npOver s v x.wv then .stop (faultWave s x (.of fNpBound 0 x.cl.run))
    else if x.cl.i ≥ x.cl.count then .stop (endClause s v)
    else if coreEdges s g < x.wv.cyc then .stop s
    else match portFor s v x.cl with
    | none => .stop s
    | some p =>
      let wv := { x.wv with cyc := coreEdges s g, run := some { x.cl with port := p } }
      match waveFetch s v x.wv (x.cl.h + 8 * (x.cl.i + 1)) with
      | .word w =>
        if x.wv.spcount ≥ 4096 then .stop (boundFault s x)
        else match checkWord x.wv.access false x.cl (waveFetch s v x.wv) w with
          | .bad r => .stop (faultWave s x (.of fIllegalInstr (slotSub r x.cl.i) (rawMask x.wv x.cl w)))
          | .stuck va c => .stop (stuckWave s v x va c)
          | .ok i => .run i { s.setWave v wv with cur := some (.wave v) }
      | c => .stop (stuckWave s v x (x.cl.h + 8 * (x.cl.i + 1)) c)

/-- The execution mask of a word by its selector; format L and words without one take the head run (R280). -/
def maskOfInstr (wv : Wave) (cl : Clause) (i : Instr) : Mask := rawMask wv cl (encodeNative i)

/-- After a word of a wave: the next word's index and earliest cycle, the count of R171, or the end of the clause; its core
counts the word (R77). -/
def finishWave (s : State) (i : Instr) (v : Nat) (t : State) : State :=
  let t := { t with cur := none }
  match t.issue with
  | .wait => { freePort t v with issue := .done }
  | .hold =>
    let on (wv : Wave) : Wave := { wv with cyc := wv.cyc + 1 }
    { t with waves := SMap.modify v on t.waves, issue := .done }
  | .faulted => { t with issue := .done }
  | .parked =>
    let brk := { t with waves := SMap.modify v (fun wv =>
      if wv.park = .brk then { wv with spcount := wv.spcount + 1 } else wv) t.waves }
    { endParked brk v with issue := .done }
  | .done =>
    match SMap.find? t.waves v, SMap.find? s.waves v with
    | some wv, some wv0 =>
      match wv.run, wv0.run with
      | some cl, some cl0 =>
        let st := stallOf i
        let last := lastCycle wv (maskOfInstr wv0 cl0 i)
        let fin := decide (cl.i + 1 ≥ cl.count ∨ cl.run = 0)
        let cyc := if fin then last + max 3 (st + 2) else last + 1 + st
        let wv := { wv with run := some { cl with i := cl.i + 1 }, spcount := wv.spcount + 1, cyc := cyc,
                            haz := wv.haz.filter (fun h => decide (cyc < h.ready)) }
        let t := t.count (unitOfCore (coreOfWave v))
        if fin then endClause (t.setWave v wv) v else t.setWave v wv
      | _, _ => t
    | _, _ => t

/-! ### Sequencers (R402-R405) -/

def seqFetch (s : State) (k : Nat) (sq : Seq) (va : Nat) : Code :=
  fetchCode { s with cur := some (.seq k) } none (k / 24) sq.cons.ctx va

/-- Close a sequencer's clause at a PC. -/
def closeSeq (s : State) (k : Nat) (at_ : Nat × Nat) : State :=
  { s with seqs := SMap.modify k (fun sq => { sq with h := at_.1, i := at_.2, run := none }) s.seqs }

/-- A fault of a sequencer outside a word, and one on reading the code word at `va`. -/
def seqFaultAt (s : State) (k : Nat) (sq : Seq) (pc cause sub : Nat) : State :=
  s.fatal (reportOf sq.cons.ctx (unitOfCluster k) 0xFFFF pc (.of cause sub 0))

def seqFetchFault (s : State) (k : Nat) (sq : Seq) (pc va cause : Nat) : State :=
  s.fatal (reportOf sq.cons.ctx (unitOfCluster k) 0xFFFF pc { cause := cause, sub := 0, va := va, lanes := 0, detail := 0 })

/-- A sequencer parks on a translation fault of the code word at `va`, with the header it stands at (R403). -/
def seqParkAt (s : State) (k : Nat) (sq : Seq) (pc va cause : Nat) : State :=
  { s with seqs := SMap.modify k (fun q => { q with park := .xlat }) s.seqs }.logPages sq.cons.ctx (unitOfCluster k) 0xFFFF pc
    [(cause, va / 4096, va, 0)]

def endSeq (s : State) (k : Nat) : State :=
  match SMap.find? s.seqs k with
  | none => s
  | some sq =>
    match sq.run with
    | none => s
    | some cl =>
      match SMap.find? cl.gone 0 with
      | some t => closeSeq s k (t, 0)
      | none =>
        let nxt := cl.h + 8 * (cl.count + 1)
        if sq.done then closeSeq s k (nxt, 0)
        else match seqFetch s k sq nxt with
          | .wait ws => ws.foldl askWalk (s.setSeq k { sq with run := some { cl with i := cl.count } })
          | .word w => if isHeader w then closeSeq s k (nxt, 0)
              else seqFaultAt (closeSeq s k (nxt, 0)) k sq cl.h fClauseEntry (slotSub 3 (cl.count - 1))
          | .park c => seqParkAt (closeSeq s k (nxt, 0)) k sq nxt nxt c
          | .fatal c => seqFetchFault (closeSeq s k (nxt, 0)) k sq nxt nxt c

/-- A sequencer that may issue: not parked, stopped or done, its context ACTIVE and its stack running. -/
def seqRuns (s : State) (k : Nat) (sq : Seq) : Bool :=
  sq.park == .no && !sq.done && ctxRuns s sq.cons.ctx && stackRuns s (k / 24)

/-- Code that the next word of a sequencer needs and that is no word. -/
def stuckSeq (s : State) (k : Nat) (sq : Seq) (cl : Clause) (va : Nat) (c : Code) : State :=
  match c with
  | .wait ws => ws.foldl askWalk s
  | .park c => seqParkAt (closeSeq s k (cl.h, cl.i)) k sq cl.h va c
  | .fatal c => seqFetchFault s k sq cl.h va c
  | .word _ => s

/-- The next clause or word of a sequencer, no earlier than R290 permits (R402, R404). -/
def prepSeq (s : State) (k : Nat) : Prep :=
  match SMap.find? s.seqs k with
  | none => .stop s
  | some sq =>
    if !seqRuns s k sq then .stop s
    else match sq.run with
    | none =>
      match seqFetch s k sq sq.h with
      | .wait ws => .stop (ws.foldl askWalk s)
      | .park c => .stop (seqParkAt s k sq sq.h sq.h c)
      | .fatal c => .stop (seqFetchFault s k sq sq.h sq.h c)
      | .word w =>
        match checkHeader false true w with
        | .inl f => .stop (seqFaultAt s k sq sq.h f.1 f.2)
        | .inr hd =>
          if tokensIdle sq.tok hd then
            let cl : Clause := { h := sq.h, count := hd.count, cls := hd.cls, i := sq.i, run := 1, gone := [], waits := [],
                                 port := 0, yielded := false, sent := 0 }
            .stop (s.setSeq k { sq with run := some cl })
          else .stop s
    | some cl =>
      if cl.i ≥ cl.count then .stop (endSeq s k)
      else if s.aclk < sq.cyc then .stop s
      else
        let pc := cl.h + 8 * (cl.i + 1)
        match seqFetch s k sq pc with
        | .word w =>
          match checkWord false true cl (seqFetch s k sq) w with
          | .bad r => .stop (seqFaultAt s k sq cl.h fIllegalInstr (slotSub r cl.i))
          | .stuck va c => .stop (stuckSeq s k sq cl va c)
          | .ok i => .run i { s.setSeq k { sq with cyc := s.aclk } with cur := some (.seq k) }
        | c => .stop (stuckSeq s k sq cl pc c)

/-- After a word of a sequencer. -/
def finishSeq (i : Instr) (k : Nat) (t : State) : State :=
  let t := { t with cur := none }
  match t.issue with
  | .wait => { t with issue := .done }
  | .hold => { t with issue := .done }
  | .faulted => { t with issue := .done }
  | .parked =>
    match SMap.find? t.seqs k with
    | none => { t with issue := .done }
    | some sq => match sq.run with
      | none => { t with issue := .done }
      | some cl => { closeSeq t k (if sq.park = .brk then nextPc cl cl.i else (cl.h, cl.i)) with issue := .done }
  | .done =>
    match SMap.find? t.seqs k with
    | none => t
    | some sq => match sq.run with
      | none => t
      | some cl =>
        let st := stallOf i
        let fin := decide (cl.i + 1 ≥ cl.count ∨ cl.run = 0)
        let cyc := sq.cyc + (if fin then max 3 (st + 2) else 1 + st)
        let sq := { sq with run := some { cl with i := cl.i + 1 }, cyc := cyc,
                            haz := sq.haz.filter (fun h => decide (cyc < h.ready)) }
        if fin then endSeq (t.setSeq k sq) k else t.setSeq k sq

/-! ### Moraine cores (R437, R449) -/

/-- A kernel falls back to its checkpoint; its span leaves no effect (R444). -/
def Kern.discard (kn : Kern) : Kern := { kn with regs := kn.ckpt, writes := [], recs := [], pages := [], ending := 0 }

/-- F_MORAINE_ILLEGAL and other fatal faults of a kernel. -/
def faultMoraine (s : State) (m : Nat) (kn : Kern) (cause sub va : Nat) (lanes : Mask) (detail : Nat) : State :=
  { (s.setKern m kn.discard).fatal (reportOf kn.cons.ctx (unitOfMoraine m) 0xFFFF (4 * kn.regs.pc)
      { cause := cause, sub := sub, va := va, lanes := lanes, detail := detail }) with issue := .faulted }

/-- A moraine core runs while its context is ACTIVE and its foundation die runs. -/
def moraineRuns (s : State) (m : Nat) (kn : Kern) : Bool :=
  kn.park == .no && kn.ending == 0 && ctxRuns s kn.cons.ctx && s.power && dieRuns s (2 + m / 16)

/-- The next word of a kernel (R437): outside the section is reason 3; reasons 1 and 2 are checked again (R449). -/
def prepMor (s : State) (m : Nat) : Prep :=
  match SMap.find? s.kerns m with
  | none => .stop s
  | some kn =>
    if !moraineRuns s m kn then .stop s
    else match imageOf s kn.cons.ctx kn.cons.img with
      | none => .stop s
      | some im =>
        match im.mcode[kn.regs.pc]? with
        | none => .stop { faultMoraine s m kn fMoraineIllegal 3 0 0 0 with issue := .done }
        | some w =>
          match decodeMoraine w with
          | .error r => .stop { faultMoraine s m kn fMoraineIllegal r 0 0 0 with issue := .done }
          | .ok i => .run i { s with cur := some (.mor m) }

/-- After a moraine word. -/
def finishMor (t : State) : State := { t with cur := none, issue := .done }

/-! ### All three -/

def prep (s : State) (u : Actor) : Prep :=
  match u with
  | .wave v => prepWave s v
  | .seq k => prepSeq s k
  | .mor m => prepMor s m

def finishUnit (s : State) (i : Instr) (u : Actor) (t : State) : State :=
  match u with
  | .wave v => finishWave s i v t
  | .seq k => finishSeq i k t
  | .mor _ => finishMor t

/-- The edges the four base dies count in a move (R34). -/
def advanceMclk (m : SMap Nat) (n : List Nat) : SMap Nat :=
  (List.range 4).foldl (fun m d => SMap.set 0 d (SMap.get 0 m d + n.getD d 0) m) m

/-- Clock edges that pass before a move (R5, R31, R32, R34): a core at ratio r receives every r-th edge of the tree. -/
def advance (s : State) (t : Tick) : State :=
  let a := match s.moving with | some _ => 0 | none => t.a
  let lose (r : Nat) : Nat := a - ((s.aclk + a) / r - s.aclk / r)
  { s with aclk := s.aclk + a, hclk := s.hclk + t.h, mclk := advanceMclk s.mclk t.m, issue := .done, free := s.free + 1,
           missed := s.ratio.foldl (fun m r => if r.2 ≤ 1 then m else bump r.1 (lose r.2) m) s.missed }

end Sys2Proof.Machine
end

