-- ==== Sys2Proof/Machine/Int.lean ====
section
/-!
DEFINITION. Integer, shift, logic, bit-field, compare, select, move and 64-bit address words (R337-R347). A value word
passes the checks of R288 and then writes, in each lane of the execution mask, what it computes from the lane's sources.
-/

namespace Sys2Proof.Machine

/-- A word that writes one 32-bit result per lane, of latency lat (R337). -/
def valueWord (s : State) (w : VWord) (ops : List (OpKind2 × BitVec 9)) (lat : Nat) (f : WCtx → Nat → Word) :
    Host.Outcome State Fault Refusal :=
  onWave s w.msel fun x => checked s x ops lat none (s.setWave x.v (x.wv.put s.free lat w.d x.e (f x)))

/-- An integer source in a lane (R338). -/
def src (s : State) (x : WCtx) (code : BitVec 9) (l : Nat) : Word := readSrc s x.v x.wv .int code l

def word1 (s : State) (w : VWord) (lat : Nat) (f : Word → Word) : Host.Outcome State Fault Refusal :=
  valueWord s w [(.dst, w.d), (.src, w.a)] lat fun x l => f (src s x w.a l)

def word2 (s : State) (w : VWord) (lat : Nat) (f : Word → Word → Word) : Host.Outcome State Fault Refusal :=
  valueWord s w [(.dst, w.d), (.src, w.a), (.src, w.b)] lat fun x l => f (src s x w.a l) (src s x w.b l)

def word3 (s : State) (w : VWord) (lat : Nat) (f : Word → Word → Word → Word) : Host.Outcome State Fault Refusal :=
  valueWord s w [(.dst, w.d), (.src, w.a), (.src, w.b), (.src, w.c)] lat fun x l =>
    f (src s x w.a l) (src s x w.b l) (src s x w.c l)

/-- Sat32 of R338. -/
def sat32 (y : Int) : Word :=
  if y > 2 ^ 31 - 1 then 0x7FFFFFFF else if y < -(2 : Int) ^ 31 then 0x80000000 else BitVec.ofInt 32 y

/-- .SAT is MOD[1] (R340). -/
def VWord.isSat (w : VWord) : Bool := w.mod.getLsbD 1

/-! ### Major 0x0C (R340, R341) -/

def iadd (sat : Bool) (a b : Word) : Word := if sat then sat32 (a.toInt + b.toInt) else a + b
def isub (sat : Bool) (a b : Word) : Word := if sat then sat32 (a.toInt - b.toInt) else a - b
def imad (sat : Bool) (a b c : Word) : Word := if sat then sat32 (a.toInt * b.toInt + c.toInt) else a * b + c
def imulh (u : Bool) (a b : Word) : Word :=
  if u then (a.setWidth 64 * b.setWidth 64).extractLsb' 32 32 else (a.signExtend 64 * b.signExtend 64).extractLsb' 32 32
def imin (u : Bool) (a b : Word) : Word := if (if u then b.ult a else b.slt a) then b else a
def imax (u : Bool) (a b : Word) : Word := if (if u then a.ult b else a.slt b) then b else a
def iabs (a : Word) : Word := if a.slt 0 then -a else a

def execIadd (w : VWord) (s : State) : Host.Outcome State Fault Refusal := word2 s w 2 (iadd (VWord.isSat w))
def execIsub (w : VWord) (s : State) : Host.Outcome State Fault Refusal := word2 s w 2 (isub (VWord.isSat w))
def execImul (w : VWord) (s : State) : Host.Outcome State Fault Refusal := word2 s w 4 (· * ·)
def execImulh (w : VWord) (s : State) : Host.Outcome State Fault Refusal := word2 s w 4 (imulh w.mod0)
def execImad (w : VWord) (s : State) : Host.Outcome State Fault Refusal := word3 s w 4 (imad (VWord.isSat w))
def execImin (w : VWord) (s : State) : Host.Outcome State Fault Refusal := word2 s w 2 (imin w.mod0)
def execImax (w : VWord) (s : State) : Host.Outcome State Fault Refusal := word2 s w 2 (imax w.mod0)
def execIabs (w : VWord) (s : State) : Host.Outcome State Fault Refusal := word1 s w 2 iabs

/-! ### Majors 0x0D and 0x0E (R342-R344) -/

/-- The shifts take their count whole (R343). -/
def shl (a b : Word) : Word := if b.toNat < 32 then a <<< b.toNat else 0
def shr (a b : Word) : Word := if b.toNat < 32 then a >>> b.toNat else 0
def sar (a b : Word) : Word := a.sshiftRight (min b.toNat 31)
def popc (a : Word) : Word := BitVec.ofNat 32 ((List.range 32).filter (fun i => a.getLsbD i)).length
/-- Leading zeros: the least n with a < 2^(32 − n). -/
def clz (a : Word) : Word := BitVec.ofNat 32 (if a = 0 then 32 else 31 - Nat.log2 a.toNat)
def brev (a : Word) : Word :=
  (List.range 32).foldl (fun r i => if a.getLsbD i then r ||| BitVec.twoPow 32 (31 - i) else r) 0

/-- BFE (R344): the field of n bits at o of a, extended without bound. -/
def bfe (u : Bool) (a b c : Word) : Word :=
  let o := b.toNat % 256
  let n := min (c.toNat % 256) 32
  let e : Int := if u then a.toNat else a.toInt
  let f := (e / 2 ^ o % 2 ^ n).toNat
  if n = 0 then 0 else if u then BitVec.ofNat 32 f else BitVec.ofInt 32 (sext n f)

/-- BFI (R344): c inserted into a at the position and width packed in b. -/
def bfi (a b c : Word) : Word :=
  let o := b.toNat % 256
  let n := min (b.toNat / 256 % 256) 32
  let m := BitVec.ofNat 32 ((2 ^ n - 1) * 2 ^ o)
  (a &&& ~~~ m) ||| (BitVec.ofNat 32 (c.toNat * 2 ^ o) &&& m)

def execShl (w : VWord) (s : State) : Host.Outcome State Fault Refusal := word2 s w 2 shl
def execShr (w : VWord) (s : State) : Host.Outcome State Fault Refusal := word2 s w 2 shr
def execSar (w : VWord) (s : State) : Host.Outcome State Fault Refusal := word2 s w 2 sar
def execRot (w : VWord) (s : State) : Host.Outcome State Fault Refusal :=
  word2 s w 2 (fun a b => a.rotateLeft (b.toNat % 32))
def execAndB (w : VWord) (s : State) : Host.Outcome State Fault Refusal := word2 s w 2 (· &&& ·)
def execOrB (w : VWord) (s : State) : Host.Outcome State Fault Refusal := word2 s w 2 (· ||| ·)
def execXorB (w : VWord) (s : State) : Host.Outcome State Fault Refusal := word2 s w 2 (· ^^^ ·)
def execNotB (w : VWord) (s : State) : Host.Outcome State Fault Refusal := word1 s w 2 (~~~ ·)
def execBfe (w : VWord) (s : State) : Host.Outcome State Fault Refusal := word3 s w 2 (bfe w.mod0)
def execBfi (w : VWord) (s : State) : Host.Outcome State Fault Refusal := word3 s w 2 bfi
def execPopc (w : VWord) (s : State) : Host.Outcome State Fault Refusal := word1 s w 2 popc
def execClz (w : VWord) (s : State) : Host.Outcome State Fault Refusal := word1 s w 2 clz
def execBrev (w : VWord) (s : State) : Host.Outcome State Fault Refusal := word1 s w 2 brev

/-! ### Compare, select, moves (R345, R346) -/

/-- Write a compare's outcome: mask bits, or 1 and 0 (R346, R351). -/
def Wave.putCmp (free lat : Nat) (wv : Wave) (d : BitVec 9) (e : Mask) (val : Nat → Word) (f : Nat → Bool) : Wave :=
  if isM d.toNat then wv.putM free lat (d.toNat - 0x140) e f else wv.put free lat d e val

def execIcmp (cc : Cmp) (w : VWord) (s : State) : Host.Outcome State Fault Refusal :=
  onWave s w.msel fun x =>
    let f (l : Nat) : Bool := Cmp.holds cc w.mod0 (src s x w.a l) (src s x w.b l)
    checked s x [(.maskOrDst, w.d), (.src, w.a), (.src, w.b)] 2 none
      (s.setWave x.v (Wave.putCmp s.free 2 x.wv w.d x.e (fun l => boolWord (f l)) f))

def execSel (w : VWord) (s : State) : Host.Outcome State Fault Refusal :=
  valueWord s w [(.dst, w.d), (.src, w.a), (.src, w.b), (.maskSrc, w.c)] 2 fun x l =>
    if (readM s x.wv (w.c.toNat - 0x140)).getLsbD l then src s x w.a l else src s x w.b l

def execMov (w : VWord) (s : State) : Host.Outcome State Fault Refusal := word1 s w 2 id

/-- MOVI writes IMM32 to every thread of the head run (R346). -/
def execMovi (w : LWord) (s : State) : Host.Outcome State Fault Refusal :=
  onWave s 15 fun x => checked s x [(.dst, w.d)] 2 none (s.setWave x.v (x.wv.put s.free 2 w.d x.e (fun _ => w.imm)))

/-! ### Major 0x11 (R347) -/

/-- A word that writes a register pair per lane. -/
def pairWord (s : State) (w : VWord) (ops : List (OpKind2 × BitVec 9)) (lat : Nat) (f : WCtx → Nat → DWord) :
    Host.Outcome State Fault Refusal :=
  onWave s w.msel fun x => checked s x ops lat none (s.setWave x.v (x.wv.putPair s.free lat w.d x.e (f x)))

def execAadd64 (w : VWord) (s : State) : Host.Outcome State Fault Refusal :=
  pairWord s w [(.dstN 2, w.d), (.srcN 2, w.a), (.src, w.b)] 2 fun x l =>
    readPair s x.v x.wv w.a l + (src s x w.b l).signExtend 64

def execAmad64 (w : VWord) (s : State) : Host.Outcome State Fault Refusal :=
  pairWord s w [(.dstN 2, w.d), (.srcN 2, w.a), (.src, w.b), (.src, w.c)] 4 fun x l =>
    readPair s x.v x.wv w.a l + (src s x w.b l).signExtend 64 * (src s x w.c l).setWidth 64

end Sys2Proof.Machine
end

