-- ==== Sys2Proof/Machine/Control.lean ====
section
/-!
DEFINITION. Control words: branches (R307-R310), NOP and YIELD (R311), mask words (R312-R314), barriers and semaphores
(R315-R317), monitored lines (R318) and non-preemptible regions (R319).
-/

namespace Sys2Proof.Machine

/-! ### Branches -/

/-- Take CheckAndBranch's answer in a wave: the branch, or its fault (reason in SUBCODE, R279, R296), park or wait. -/
def branchTo (s : State) (x : WCtx) (ts : List (Nat × Nat)) (then_ : Wave → Wave) : State :=
  match checkTargets s (some (coreOfWave x.v)) (stackOfCore (coreOfWave x.v)) x.wv.ctx ts with
  | .ok => s.setWave x.v (then_ (x.wv.branch x.cl ts))
  | .bad r e => faultWave s x (.of fClauseEntry (slotSub r x.cl.i) e)
  | .wait ws => (ws.foldl askWalk s).waitIssue
  | .park ps => parkWave s x ps
  | .fatal f => faultWave s x f

/-- A sequencer's branch: its one thread is lane 0. -/
def branchSeq (s : State) (x : SCtx) (t : Nat) (then_ : Seq → Seq) : State :=
  match checkTargets s none (x.k / 24) x.sq.cons.ctx [(0, t)] with
  | .ok => s.setSeq x.k (then_ { x.sq with run := some { x.cl with run := 0, gone := [(0, t)] } })
  | .bad r _ => faultSeq s x (.of fClauseEntry (slotSub r x.cl.i) 0)
  | .wait ws => (ws.foldl askWalk s).waitIssue
  | .park ps => parkSeq s x (ps.map (fun p => (p.1, p.2.1, p.2.2.1, 0)))
  | .fatal f => faultSeq s x { f with lanes := 0, detail := 0 }

/-- T = H + 8 × SignExtend(OFFSET) (R294). -/
def relTarget (h : Nat) (off : BitVec 24) : Nat := wrapN 64 ((h : Int) + 8 * off.toInt)

/-- The lanes of E with one target. -/
def toAll (x : WCtx) (t : Nat) : List (Nat × Nat) := (lanesOf x.e).map (fun l => (l, t))

def execBra (w : CWord) (s : State) : Host.Outcome State Fault Refusal :=
  onEither s w.msel
    (fun x => if x.e = 0 then s else branchTo s x (toAll x (relTarget x.cl.h w.off)) id)
    (fun x => branchSeq s x (relTarget x.cl.h w.off) id)

/-- The return stack of a lane (R309). -/
def retOf (wv : Wave) (l : Nat) : List Nat := match SMap.find? wv.pcs l with | some p => p.ret | none => []

def setRet (f : List Nat → List Nat) (e : Mask) (wv : Wave) : Wave :=
  { wv with pcs := (lanesOf e).foldl (fun m l => SMap.modify l (fun p => { p with ret := f p.ret }) m) wv.pcs }

/-- The header that CALL pushes (R308): the next clause's, or for a translated SEGEND.CALL its return segment's (R98, R309).
DEDUCED, log 26: a return segment need not stand next to its CALL. -/
def returnOf (s : State) (c img : Nat) (cl : Clause) : Nat :=
  match imageOf s c img with
  | some im => (SMap.find? im.rets cl.h).getD (cl.h + 8 * (cl.count + 1))
  | none => cl.h + 8 * (cl.count + 1)

/-- CALL (R308): at 16 entries in any lane F_CALL_STACK, reason 1; else branch and push the return header. -/
def execCall (w : CWord) (s : State) : Host.Outcome State Fault Refusal :=
  onEither s w.msel
    (fun x =>
      let full := (lanesOf x.e).filter (fun l => decide ((retOf x.wv l).length ≥ 16))
      if full ≠ [] then faultWave s x (.of fCallStack 1 (maskOf full))
      else if x.e = 0 then s
      else branchTo s x (toAll x (relTarget x.cl.h w.off)) (setRet (fun r => returnOf s x.wv.ctx x.wv.img x.cl :: r) x.e))
    (fun x =>
      if x.sq.ret.length ≥ 16 then faultSeq s x (.of fCallStack 1 0)
      else branchSeq s x (relTarget x.cl.h w.off) (fun q => { q with ret := returnOf s x.sq.cons.ctx x.sq.cons.img x.cl :: q.ret }))

/-- A translated SEGEND.INDIRECT (R309): the listed segment's header, or reason 4. -/
def indirectOf (s : State) (c img pc : Nat) : Option (SMap Nat) :=
  match imageOf s c img with
  | some im => if im.indir.contains pc then some im.segs else none
  | none => none

/-- BRX (R308), and the translated SEGEND.INDIRECT, which reads the 32-bit segment offset in vN, or that in the 64 bits of
qN (R98, R309). -/
def execBrx (w : VWord) (s : State) : Host.Outcome State Fault Refusal :=
  onEither s w.msel
    (fun x =>
      match indirectOf s x.wv.ctx x.wv.img (x.cl.h + 8 * (x.cl.i + 1)) with
      | some segs =>
        let seg (l : Nat) : Option Nat := SMap.find? segs ((if x.wv.access then 2 ^ 32 else 0) + (src s x w.a l).toNat)
        let bad := (lanesOf x.e).filter (fun l => (seg l).isNone)
        checked s x [(.src, w.a)] 0 none
          (match bad with
          | b :: _ => faultWave s x (.of fClauseEntry (slotSub 4 x.cl.i)
              (maskOf (bad.filter (fun l => src s x w.a l == src s x w.a b))))
          | [] => if x.e = 0 then s else branchTo s x ((lanesOf x.e).map (fun l => (l, (seg l).getD 0))) id)
      | none =>
        checked s x [(.regPair, w.a)] 0 none
          (if x.e = 0 then s
           else branchTo s x ((lanesOf x.e).map (fun l => (l, (readPair s x.v x.wv w.a l).toNat))) id))
    (fun x =>
      let v := seqRead s x.k x.sq w.a
      checkedSeq s x [(.q, false, w.a)] none
        (match indirectOf s x.sq.cons.ctx x.sq.cons.img (x.cl.h + 8 * (x.cl.i + 1)) with
        | some segs =>
          match if v.toNat < 2 ^ 32 then SMap.find? segs (2 * 2 ^ 32 + v.toNat) else none with
          | some t => branchSeq s x t id
          | none => faultSeq s x (.of fClauseEntry (slotSub 4 x.cl.i) 0)
        | none => branchSeq s x v.toNat id))

/-- RET (R308): with an empty stack in any lane F_CALL_STACK, reason 2; else branch to each lane's top and pop it. -/
def execRet (w : VWord) (s : State) : Host.Outcome State Fault Refusal :=
  onEither s w.msel
    (fun x =>
      let none_ := (lanesOf x.e).filter (fun l => (retOf x.wv l).isEmpty)
      if none_ ≠ [] then faultWave s x (.of fCallStack 2 (maskOf none_))
      else if x.e = 0 then s
      else branchTo s x ((lanesOf x.e).map (fun l => (l, (retOf x.wv l).headD 0))) (setRet List.tail x.e))
    (fun x =>
      match x.sq.ret with
      | [] => faultSeq s x (.of fCallStack 2 0)
      | t :: r => branchSeq s x t (fun q => { q with ret := r }))

/-! ### NOP and YIELD -/

def execNop (w : VWord) (s : State) : Host.Outcome State Fault Refusal := onEither s w.msel (fun _ => s) (fun _ => s)

/-- YIELD (R311): the wave is held after this clause; in a sequencer, a NOP. -/
def execYield (w : VWord) (s : State) : Host.Outcome State Fault Refusal :=
  onEither s w.msel
    (fun x => if x.e = 0 then s else s.setWave x.v { x.wv with run := some { x.cl with yielded := true } })
    (fun _ => s)

/-! ### Mask words -/

/-- F_MASK_BUSY: the destination has an arrival set (R314). -/
def maskBusy (x : WCtx) (d : BitVec 9) : Option FaultInfo :=
  if x.e ≠ 0 ∧ SMap.get 0 x.wv.arr (d.toNat - 0x140) ≠ 0 then some (.of fMaskBusy (d.toNat - 0x140) x.e) else none

/-- A word that writes the bits of a mask register for the lanes of E (R313). -/
def maskWord (w : VWord) (s : State) (ops : List (OpKind2 × BitVec 9)) (f : WCtx → Nat → Bool) :
    Host.Outcome State Fault Refusal :=
  onWave s w.msel fun x =>
    checked s x ops 2 (maskBusy x w.d)
      (if x.e = 0 then s else s.setWave x.v (x.wv.putM s.free 2 (w.d.toNat - 0x140) x.e (f x)))

/-- Bit l of a mask operand. -/
def mbit (s : State) (x : WCtx) (code : BitVec 9) (l : Nat) : Bool := (readM s x.wv (code.toNat - 0x140)).getLsbD l

def execMset (w : VWord) (s : State) : Host.Outcome State Fault Refusal :=
  maskWord w s [(.maskDst, w.d), (.src, w.a)] (fun x l => src s x w.a l != 0)
def execMand (w : VWord) (s : State) : Host.Outcome State Fault Refusal :=
  maskWord w s [(.maskDst, w.d), (.maskSrc, w.a), (.maskSrc, w.b)] (fun x l => mbit s x w.a l && mbit s x w.b l)
def execMor (w : VWord) (s : State) : Host.Outcome State Fault Refusal :=
  maskWord w s [(.maskDst, w.d), (.maskSrc, w.a), (.maskSrc, w.b)] (fun x l => mbit s x w.a l || mbit s x w.b l)
def execMxor (w : VWord) (s : State) : Host.Outcome State Fault Refusal :=
  maskWord w s [(.maskDst, w.d), (.maskSrc, w.a), (.maskSrc, w.b)] (fun x l => mbit s x w.a l != mbit s x w.b l)
def execMnot (w : VWord) (s : State) : Host.Outcome State Fault Refusal :=
  maskWord w s [(.maskDst, w.d), (.maskSrc, w.a)] (fun x l => !mbit s x w.a l)
def execMcpy (w : VWord) (s : State) : Host.Outcome State Fault Refusal :=
  maskWord w s [(.maskDst, w.d), (.maskSrc, w.a)] (fun x l => mbit s x w.a l)

/-- MBAL (R313): the mask as a 64-bit number, bits at or above W cleared. -/
def execMbal (w : VWord) (s : State) : Host.Outcome State Fault Refusal :=
  pairWord s w [(.dstN 2, w.d), (.maskSrc, w.a)] 2 fun x _ => readM s x.wv (w.a.toNat - 0x140) &&& lowMask x.wv.width

/-- JOIN, LEAVE and WAITM of R153 take effect at once; the release check follows. -/
def joinWord (w : VWord) (s : State) (f : WCtx → Wave) : Host.Outcome State Fault Refusal :=
  onWave s w.msel fun x =>
    checked s x [(.maskJoin, w.d)] 0 none
      (if x.e = 0 then s else s.setWave x.v ((f x).releaseMasks s.aclk))

def execJoin (w : VWord) (s : State) : Host.Outcome State Fault Refusal :=
  joinWord w s fun x => x.wv.setM (w.d.toNat - 0x140) (x.wv.getM (w.d.toNat - 0x140) ||| x.e)
def execLeave (w : VWord) (s : State) : Host.Outcome State Fault Refusal :=
  joinWord w s fun x => x.wv.setM (w.d.toNat - 0x140) (x.wv.getM (w.d.toNat - 0x140) &&& ~~~ x.e)

/-- WAITM: the lanes of E arrive; they wait unless the release condition then holds, in which case they go on to the
next word and the lanes that waited before are released (R153, R314). -/
def execWaitm (w : VWord) (s : State) : Host.Outcome State Fault Refusal :=
  joinWord w s fun x =>
    let n := w.d.toNat - 0x140
    let arr := SMap.get 0 x.wv.arr n ||| x.e
    if x.wv.getM n &&& ~~~ arr = 0 then
      { x.wv.wakeLanes s.aclk (SMap.get 0 x.wv.arr n) with arr := SMap.erase n x.wv.arr }
    else
      { x.wv.waitLanes x.cl x.e (fun _ => .mask n) with arr := SMap.set 0 n arr x.wv.arr }

/-! ### Barriers and semaphores -/

/-- The barrier at which some thread of the wave waits. -/
def waitingBar (wv : Wave) : Option Nat :=
  wv.pcs.findSome? (fun p => match p.2.wait with | some (.bar b) => some b | _ => none)

/-- BAR (R148, R157, R315, R316): the lanes of E wait, unless the barrier is then complete: it releases those that waited
before, and the lanes of E go on to the next word. -/
def execBar (w : VWord) (s : State) : Host.Outcome State Fault Refusal :=
  onWave s w.msel fun x =>
    let b := (readUni s x.v x.wv w.a).toNat
    let own : Option FaultInfo :=
      if x.e = 0 then none
      else if b > 15 then some (.of fBarState b x.e)
      else match waitingBar x.wv with
        | some c => if c ≠ b then some (.of fBarState b x.e) else none
        | none => none
    checked s x [(.uni, w.a)] 0 own
      (match teamOf s x.wv with
       | none => s
       | some t =>
         let waiting := s.setWave x.v (x.wv.waitLanes x.cl x.e (fun _ => .bar b))
         if x.e = 0 then s else if barReady waiting t b then barRelease s t b else waiting)

/-- The semaphore word's number and count, with F_SEM_RANGE (R315). -/
def semFault (x : WCtx) (i n : Nat) : Option FaultInfo :=
  if x.e ≠ 0 ∧ (i > 63 ∨ n > 65535) then some (.of fSemRange i x.e) else none

/-- The order of words on a semaphore in one edge of the core (R317): SEMSIGs by slot, then SEMWAITs by slot. A word that
comes after one of a later place waits at issue; else it learns what heads of the queue took in this edge. -/
def semTurn (s : State) (x : WCtx) (t : Team) (i rank : Nat) : Option Nat :=
  match SMap.find? t.semAt i with
  | some a => if a.1 = coreEdges s (coreOfWave x.v) then (if rank ≤ a.2.1 then none else some a.2.2) else some 0
  | none => some 0

def Team.semMark (t : Team) (s : State) (x : WCtx) (i rank took : Nat) : Team :=
  { t with semAt := SMap.insert i (coreEdges s (coreOfWave x.v), rank, took) t.semAt }

/-- SEMSIG (R317). -/
def execSemsig (w : VWord) (s : State) : Host.Outcome State Fault Refusal :=
  onWave s w.msel fun x =>
    let i := (readUni s x.v x.wv w.a).toNat
    let n := (readUni s x.v x.wv w.b).toNat
    checked s x [(.uni, w.a), (.uni, w.b)] 0 (semFault x i n)
      (match teamOf s x.wv with
      | none => s
      | some t =>
        if x.e = 0 then s
        else match semTurn s x t i (x.v % 48) with
          | none => s.waitIssue
          | some took =>
            if SMap.get 0 t.sems i + took + n > 65535 then faultWave s x (.of fSemRange i x.e)
            else semCheck (s.setTeam x.wv.team ({ t with sems := bump i n t.sems }.semMark s x i (x.v % 48) took)) x.wv.team i)

/-- SEMWAIT (R317): satisfied at issue, or the threads of E wait in the queue. -/
def execSemwait (w : VWord) (s : State) : Host.Outcome State Fault Refusal :=
  onWave s w.msel fun x =>
    let i := (readUni s x.v x.wv w.a).toNat
    let n := (readUni s x.v x.wv w.b).toNat
    checked s x [(.uni, w.a), (.uni, w.b)] 0 (semFault x i n)
      (match teamOf s x.wv with
      | none => s
      | some t =>
        let q := SMap.get [] t.semq i
        if x.e = 0 then s
        else match semTurn s x t i (48 + x.v % 48) with
          | none => s.waitIssue
          | some took =>
            let t := t.semMark s x i (48 + x.v % 48) took
            if q = [] ∧ n ≤ SMap.get 0 t.sems i then s.setTeam x.wv.team { t with sems := drop i n t.sems }
            else
              (s.setWave x.v (x.wv.waitLanes x.cl x.e (fun _ => .sem i))).setTeam x.wv.team
                { t with semq := SMap.set [] i (q ++ [(n, x.v, x.e)]) t.semq })

/-! ### Monitored lines (R218, R318) -/

/-- Arm a monitor for a lane; the 65th armed line of a core wakes the lanes on the line armed longest ago. -/
def armLane (s : State) (x : WCtx) (l ln : Nat) : State :=
  let g := coreOfWave x.v
  let lines := (s.mons.filter (fun m => m.core == g)).foldl (fun (a : List Nat) m => if a.contains m.line then a else a ++ [m.line]) []
  let s := if lines.length ≥ 64 ∧ !lines.contains ln then
      match lines with
      | old :: _ => (s.mons.filter (fun m => m.core == g && m.line == old)).foldl (fun s m => wakeLane s m.wave m.lane) s
      | [] => s
    else s
  { s with mons := s.mons ++ [{ core := g, line := ln, wave := x.v, lane := l, at_ := coreEdges s g }] }

/-- WAITLINE: lanes whose word equals b wait; on a system address the read is made and no lane waits. -/
def execWaitline (w : VWord) (s : State) : Host.Outcome State Fault Refusal :=
  onWave s w.msel fun x =>
    let addr (l : Nat) : Nat := (readPair s x.v x.wv w.a l).toNat
    let accs := (lanesOf x.e).map (fun l =>
      { lane := l, addr := addr l, size := 4, align := 4, glob := true, write := false : LaneAcc })
    let reqs := (lanesOf x.e).map (fun l => { lane := l, va := addr l, size := 4, acc := .read : Req })
    match teamOf s x.wv with
    | none => s
    | some t =>
      checked s x [(.srcN 2, w.a), (.src, w.b)] 0 (addrFault t (regionSize x.nd) accs)
        ((waveGate s x reqs).run s x fun pas =>
          let g := coreOfWave x.v
          let rs := ((lanesOf x.e).zip pas).foldl (fun (a : State × List (Nat × Nat × Bool)) p =>
            let (s, bs) := coreRead a.1 g p.2 4
            (s, a.2 ++ [(p.1, p.2, !isSys p.2 && natOfBytes bs == (src a.1 x w.b p.1).toNat)])) (s, [])
          let asleep := rs.2.filter (fun r => r.2.2)
          let e := maskOf (asleep.map (·.1))
          let s := asleep.foldl (fun s r => armLane s x r.1 (r.2.1 / 128)) rs.1
          match SMap.find? s.waves x.v with
          | none => s
          | some wv =>
            if e = 0 then s
            else s.setWave x.v (wv.waitLanes x.cl e (fun l =>
              match asleep.find? (fun r => r.1 == l) with
              | some r => .line (r.2.1 / 128) (coreEdges s g)
              | none => .line 0 0)))

/-! ### Non-preemptible regions (R172, R173, R319) -/

/-- The run is every thread of the wave that has not exited (R172). -/
def wholeRun (x : WCtx) : Bool := x.cl.run == x.wv.live

/-- NPENTER. In a team that is stopping and has a stopped wave, the wave stops before the word (R173). -/
def execNpenter (w : VWord) (s : State) : Host.Outcome State Fault Refusal :=
  onWave s w.msel fun x =>
    let othersStopped : Bool := match teamOf s x.wv with
      | some t => t.st == .stopping && t.waves.any (fun v => v != x.v && (match SMap.find? s.waves v with | some u => u.stopped | none => false))
      | none => false
    if x.e = 0 then s
    else if x.wv.np.isSome ∨ !wholeRun x then faultWave s x (.of fNpState 0 x.e)
    else if othersStopped then { s.setWave x.v { x.wv with stopped := true } with issue := .parked }
    else s.setWave x.v { x.wv with np := some (coreEdges s (coreOfWave x.v)) }

def execNpleave (w : VWord) (s : State) : Host.Outcome State Fault Refusal :=
  onWave s w.msel fun x =>
    if x.e = 0 then s
    else if x.wv.np.isNone ∨ !wholeRun x then faultWave s x (.of fNpState 0 x.e)
    else s.setWave x.v { x.wv with np := none }

end Sys2Proof.Machine
end

