-- ==== Sys2Proof/Machine/Records.lean ====
section
/-!
DEFINITION. Record words (R167, R253, R320-R328): QAPP, QRSV, RECLD, QPOP, POSTR, EXIT, EXIT.C.
-/

namespace Sys2Proof.Machine

/-- Depths of the rasteriser and traversal FIFOs of a core (R253). -/
def fifoDepth (kind : Nat) : Nat := if kind = 1 then 8 else 16

def fifoOf (q : VQueue) (kind : Nat) : List EItem := if kind = 1 then q.ras else q.trv

/-- The context of an engine entry. -/
def EItem.ctxOf (e : EItem) : Nat := match e with | .tex _ _ _ _ _ _ _ _ c _ _ _ => c | .item c _ _ _ => c

/-- Whether a word with n > 0 entries may begin to enter a core's FIFO (R253): no other word is entering it, and they fit,
or, of more than the depth, they find it empty. Cores send only while their die is in RUN (R45, R255). -/
def fifoRoom (s : State) (g kind n : Nat) : Bool :=
  let have_ := (fifoOf (s.vq g) kind).length
  (s.die (stackOfCore g)).st == .run && (SMap.find? (s.vq g).hold kind).isNone &&
    (decide (have_ + n ≤ fifoDepth kind) || (decide (n > fifoDepth kind) && have_ == 0))

def setVq (s : State) (g : Nat) (q : VQueue) : State := { s with vqs := SMap.set VQueue.reset g q s.vqs }

/-- Put a record into a core's vertical FIFO (R118, R253); it counts in O(D) (R128). -/
def fifoPut (s : State) (g kind c img dst : Nat) (r : Rec) : State :=
  let q := s.vq g
  let it := EItem.item c img dst r
  let s := setVq s g (if kind = 1 then { q with ras := q.ras ++ [it] } else { q with trv := q.trv ++ [it] })
  let s := updQueue s (qidOf s c img dst) (fun q => { q with occ := q.occ + 1 })
  updLaunch s c r.tag (fun l => { l with queued := bump dst 1 l.queued })

/-- The kind of a destination node. -/
def kindOf (s : State) (c img node : Nat) : Nat := match nodeOf s c img node with | some n => n.kind | none => 0

/-- Append records of a wave on a port (R118, R321): to a vertical FIFO for KIND 1 and 2, else towards the queue. -/
def waveAppend (s : State) (v : Nat) (k : Cons) (port : Nat) (r : Rec) : State × Cons :=
  match portEdge s k.ctx k.img k.node port with
  | none => (s, k)
  | some e =>
    let g := coreOfWave v
    let kind := kindOf s k.ctx k.img e.dst
    let (s, k) := useResv s.fresh k port 1
    if kind = 1 ∨ kind = 2 then (fifoPut s g kind k.ctx k.img e.dst r, k)
    else (emitRec s (0x10000 + v) (stackOfCore g) k.ctx k.img e.dst r, k)

/-- The bytes of a lane's registers from r on (R321). -/
def laneBytes (s : State) (x : WCtx) (r n l : Nat) : List Byte :=
  (List.range n).flatMap (fun j => bytesOf 4 (readV s x.wv (r + j) l).toNat)

/-- Every data register from a on is in range (R159, R321). -/
def dataInRange (x : WCtx) (a n : Nat) : Bool := (List.range n).all (fun j => vInRange x.nd false (a + j))

/-- The registers a record of a port's destination takes (R321); one where the port has no edge. -/
def portWords (s : State) (k : Cons) (port : Nat) : Nat :=
  match portEdge s k.ctx k.img k.node port with
  | some e => recSize s k.ctx k.img e.dst / 4
  | none => 1

/-- The edge, its destination's size and the checks of QAPP's table (R321). -/
def qappFault (s : State) (x : WCtx) (k : Cons) (port a : Nat) : Option FaultInfo :=
  if x.e = 0 then none
  else match portEdge s k.ctx k.img k.node port with
  | none => some (.of fEmitOverrun port x.e)
  | some e =>
    if !dataInRange x a (recSize s k.ctx k.img e.dst / 4) then some (.of fRegRange 0 x.e)
    else if e.cont then some (.of fContPort port x.e)
    else if SMap.get 0 k.resv port < (lanesOf x.e).length then some (.of fEmitOverrun port x.e)
    else none

/-- A record that a word appends: its port, data, depth and parent token. -/
structure Append where
  port   : Nat
  words  : List Word
  depth  : Nat
  parent : Option Nat
  deriving DecidableEq, Repr

/-- The FIFO that a record enters, if its destination is vertical. -/
def Append.fifo (s : State) (k : Cons) (a : Append) : Option Nat :=
  match portEdge s k.ctx k.img k.node a.port with
  | none => none
  | some e => if kindOf s k.ctx k.img e.dst = 1 ∨ kindOf s k.ctx k.img e.dst = 2 then some (kindOf s k.ctx k.img e.dst) else none

/-- How many of a word's records enter a FIFO. -/
def fifoNeed (s : State) (k : Cons) (as : List Append) (kind : Nat) : Nat :=
  (as.filter (fun a => a.fifo s k == some kind)).length

/-- Append records in order for a consumer. -/
def appendAll (s : State) (x : WCtx) (k : Cons) (as : List Append) : State :=
  let (s, k) := as.foldl (fun (p : State × Cons) a =>
    waveAppend p.1 x.v p.2 a.port (mkRec p.1 a.words x.wv.tag a.depth a.parent)) (s, k)
  { s with teams := SMap.modify x.wv.team (fun t => { t with cons := k }) s.teams }

/-- Hold a core's FIFOs for a wave's word, or release them. -/
def holdFifos (s : State) (g : Nat) (kinds : List Nat) (v : Option Nat) : State :=
  let q := s.vq g
  setVq s g { q with hold := kinds.foldl (fun m kind => match v with
    | some v => SMap.insert kind v m
    | none => SMap.erase kind m) q.hold }

def setSent (s : State) (v n : Nat) : State :=
  { s with waves := SMap.modify v (fun wv => { wv with run := wv.run.map (fun c => { c with sent := n }) }) s.waves }

/-- A FIFO holds no entry beyond its depth: all are written (R253). -/
def fifoWritten (s : State) (g kind : Nat) : Bool := decide ((fifoOf (s.vq g) kind).length ≤ fifoDepth kind)

/-- A word appends its records, and then does the rest (R253, R321). Those that fit in the FIFOs enter at once, and the word
waits at issue until they do. With more for a FIFO than its depth, it issues on an empty one: the reservation falls, the records
stand in line and the rest is done at once (R321, R327, R328), those beyond the depth are written as the unit takes earlier
ones, and meanwhile the word holds its port, and no other word enters the FIFO. -/
def appendWord (s : State) (x : WCtx) (k : Cons) (as : List Append) (rest : State → State) : State :=
  let g := coreOfWave x.v
  let kinds := [1, 2].filter (fun kind => decide (0 < fifoNeed s k as kind))
  let long := kinds.filter (fun kind => decide (fifoDepth kind < fifoNeed s k as kind))
  if !kinds.all (fun kind => fifoRoom s g kind (fifoNeed s k as kind)) then s.waitIssue
  else
    let t := rest (appendAll s x k as)
    if long = [] then t else (setSent (holdFifos t g long (some x.v)) x.v 1).holdIssue

/-- The rest of a word whose records are more than a FIFO's depth: it lasts until the last of them is written (R253). -/
def writeOn (s : State) (x : WCtx) : State :=
  let g := coreOfWave x.v
  let mine := [1, 2].filter (fun kind => SMap.find? (s.vq g).hold kind == some x.v)
  if mine.all (fifoWritten s g) then setSent (holdFifos s g mine none) x.v 0 else s.holdIssue

/-- A word that appends records, if its records are not being written already. -/
def onAppend (s : State) (msel : BitVec 4) (f : WCtx → State) : Host.Outcome State Fault Refusal :=
  onWave s msel (fun x => if x.cl.sent = 0 then f x else writeOn s x)

/-- One record per active lane, in ascending lane order. -/
def laneAppends (x : WCtx) (port : Nat) (words : Nat → List Word) : List Append :=
  (lanesOf x.e).map (fun l => { port := port, words := words l, depth := 0, parent := none })

def execQapp (w : VWord) (s : State) : Host.Outcome State Fault Refusal :=
  onAppend s w.msel fun x =>
    let port := w.mod.toNat
    match teamOf s x.wv with
    | none => s
    | some t =>
      checked s x [(.vBlock (portWords s t.cons port), w.a)] 0 (qappFault s x t.cons port w.a.toNat)
        (match portEdge s t.cons.ctx t.cons.img t.cons.node port with
        | none => s
        | some e =>
          if x.e = 0 then s
          else
            let size := recSize s t.cons.ctx t.cons.img e.dst
            appendWord s x t.cons (laneAppends x port (fun l => recWords size (laneBytes s x w.a.toNat (size / 4) l))) id)

/-- QRSV lowers the reservation by min(n, remaining), and Rv with it (R322). -/
def execQrsv (w : VWord) (s : State) : Host.Outcome State Fault Refusal :=
  onWave s w.msel fun x =>
    let port := w.mod.toNat
    match teamOf s x.wv with
    | none => s
    | some t =>
      checked s x [(.uni, w.a)] 0 none
        (let n := min (readUni s x.v x.wv w.a).toNat (SMap.get 0 t.cons.resv port)
        let r := useResv s t.cons port n
        { r.1 with teams := SMap.modify x.wv.team (fun t => { t with cons := r.2 }) r.1.teams })

/-- RECLD (R323): k words of the lane's own record. -/
def execRecld (w : VWord) (s : State) : Host.Outcome State Fault Refusal :=
  onWave s w.msel fun x =>
    let k := w.c.toNat - 0x180
    let size := recSize s x.wv.ctx x.wv.img x.wv.node
    let off (l : Nat) : Nat := (src s x w.a l).toNat
    let bad := (lanesOf x.e).filter (fun l => off l % 4 != 0 || decide (off l + 4 * k > size))
    let own : Option FaultInfo := match bad with
      | l :: _ => some (.of fRecordRange (off l) (maskOf bad))
      | [] => none
    let val (l j : Nat) : Word := match laneRec x.wv l with | some r => r.words.getD (off l / 4 + j) 0 | none => 0
    checked s x [(.vDst k 1, w.d), (.src, w.a), (.only ((List.range 16).map (· + 0x181)), w.c)] 1000 own
      (if x.e = 0 then s
       else launchRegs s x w.token
         ((List.range k).flatMap (fun j => regWrites (w.d + BitVec.ofNat 9 j) x.e (fun l => val l j))) x.wv)

/-! ### The register-queue window (R167) -/

/-- Copy the head entry of the window to register d for lanes e, and move the window on. -/
def popEntry (free ready : Nat) (nd : NodeInfo) (wv : Wave) (d : Nat) (e : Mask) : Wave :=
  let r := nd.qbase + wv.qh
  let wv := (lanesOf e).foldl (fun u l => u.writeV free ready d l (wv.getV r l)) wv
  { wv with qh := (wv.qh + 1) % nd.qlen, qc := wv.qc - 1, qready := SMap.erase wv.qh wv.qready }

/-- The pending pops of a wave in order of issue: number × 256 + destination, and lanes. -/
def pendingPops (wv : Wave) : List (Nat × Mask) :=
  wv.pcs.foldl (fun a p => match p.2.wait with
    | some (.pop d) =>
      if a.any (fun q => q.1 == d) then a.map (fun q => if q.1 = d then (d, setBit q.2 p.1 true) else q)
      else SMap.insert d (maskOf [p.1]) a
    | _ => a) []

/-- Serve pending pops while the head entry is ready (R167). -/
def servePops (s : State) (nd : NodeInfo) : Nat → Wave → Wave
  | 0, wv => wv
  | fuel + 1, wv =>
    match pendingPops wv with
    | [] => wv
    | (d, e) :: _ =>
      if wv.qc > 0 ∧ SMap.get 0 wv.qready wv.qh = 1 then
        servePops s nd fuel ((popEntry s.free wv.cyc nd wv (d % 256) e).wakeLanes s.aclk e)
      else wv

/-- The access wave of a compute wave is still there. -/
def accessAlive (s : State) (wv : Wave) : Bool :=
  match wv.pair with | some p => (SMap.find? s.waves p).isSome | none => false

/-- QPOP (R167, R324): the head entry at once where it is ready; else the threads wait for it. -/
def execQpop (w : VWord) (s : State) : Host.Outcome State Fault Refusal :=
  onWave s w.msel fun x =>
    let own : Option FaultInfo :=
      if x.e ≠ 0 ∧ x.wv.qc = 0 ∧ !accessAlive s x.wv then some (.of fQwinEmpty 0 x.e) else none
    checked s x [(.vDst 1 1, w.d)] 2 own
      (if x.e = 0 then s
       else if x.wv.qc > 0 ∧ SMap.get 0 x.wv.qready x.wv.qh = 1 ∧ pendingPops x.wv = [] then
         s.setWave x.v (popEntry s.free (lastCycle x.wv x.e + 2) x.nd x.wv w.d.toNat x.e)
       else
         let n := match (pendingPops x.wv).reverse with | p :: _ => p.1 / 256 + 1 | [] => 0
         s.setWave x.v (x.wv.waitLanes x.cl x.e (fun _ => .pop (n * 256 + w.d.toNat))))

/-! ### Result words and exits -/

/-- POSTR (R325): OR of every active lane into the node's result word of the launch. -/
def execPostr (w : VWord) (s : State) : Host.Outcome State Fault Refusal :=
  onWave s w.msel fun x =>
    let own : Option FaultInfo := if x.e ≠ 0 ∧ !x.nd.result then some (.of fResultWord 0 x.e) else none
    checked s x [(.src, w.a)] 0 own
      (updLaunch s x.wv.ctx x.wv.tag (fun l =>
        let old := SMap.get 0 l.results x.wv.node
        let new := (lanesOf x.e).foldl (fun a k => a ||| src s x w.a k) old
        { l with results := SMap.set 0 x.wv.node new l.results }))

/-- Threads of e leave a wave (R152, R326): the PC table, masks, arrival sets; the release checks of R153 run. -/
def Wave.exitLanes (now : Nat) (wv : Wave) (cl : Clause) (e : Mask) : Wave :=
  let wv := { (wv.dropLanes e) with
    pcs := wv.pcs.filter (fun p => !e.getLsbD p.1)
    run := some { cl with run := cl.run &&& ~~~ e } }
  let wv := { wv with np := if wv.pcs = [] then none else wv.np }
  wv.releaseMasks now

/-- EXIT (R326): the records of a compute wave's exiting lanes retire (R138). -/
def execExitW (w : VWord) (s : State) : Host.Outcome State Fault Refusal :=
  onWave s w.msel fun x =>
    if x.e = 0 then s
    else
      let s := s.setWave x.v (x.wv.exitLanes s.aclk x.cl x.e)
      let s := if x.wv.access then s
        else (lanesOf x.e).foldl (fun s l => match laneRec x.wv l with
          | some r => recDone s x.wv.ctx x.wv.tag r.id 0
          | none => s) s
      if x.wv.access then s else barChecks s x.wv.team

/-- The checks of EXIT.C, in the order of R327. -/
def exitCFault (s : State) (x : WCtx) (k : Cons) (ports : List Nat) (a : Nat) : Option FaultInfo :=
  if x.e = 0 then none
  else
    let edge (p : Nat) : Option Edge := portEdge s k.ctx k.img k.node p
    let dup := ports.zipIdx.find? (fun p => (ports.take p.2).contains p.1)
    let noCont := ports.find? (fun p => match edge p with | some e => !e.cont | none => true)
    let size (p : Nat) : Nat := match edge p with | some e => recSize s k.ctx k.img e.dst | none => 0
    let deep := (lanesOf x.e).filter (fun l => match laneRec x.wv l with | some r => decide (r.depth ≥ 10) | none => false)
    let short := ports.find? (fun p => decide (SMap.get 0 k.resv p < (lanesOf x.e).length))
    match dup with
    | some p => some (.of fContPort p.1 x.e)
    | none =>
      match noCont with
      | some p => some (.of fContPort p x.e)
      | none =>
        if ports.any (fun p => !dataInRange x a (size p / 4)) then some (.of fRegRange 0 x.e)
        else if deep ≠ [] then some (.of fContDepth 0 (maskOf deep))
        else match short with
          | some p => some (.of fEmitOverrun p x.e)
          | none => none

/-- EXIT.C (R327): each lane's continuation records, by lane and then by port, and its exit.
DEDUCED, log 22: when tokens return. -/
def execExitC (w : VWord) (s : State) : Host.Outcome State Fault Refusal :=
  onAppend s w.msel fun x =>
    let ports := (List.range w.nPorts).map w.exitPort
    match teamOf s x.wv with
    | none => s
    | some t =>
      checked s x [(.vBlock ((ports.map (portWords s t.cons)).foldl max 1), w.a)] 0 (exitCFault s x t.cons ports w.a.toNat)
        (if x.e = 0 then s
         else
          let size (p : Nat) : Nat := match portEdge s t.cons.ctx t.cons.img t.cons.node p with
            | some e => recSize s t.cons.ctx t.cons.img e.dst
            | none => 0
          let as := (lanesOf x.e).flatMap (fun l =>
            let me := laneRec x.wv l
            ports.map (fun p =>
              { port := p, words := recWords (size p) (laneBytes s x w.a.toNat (size p / 4) l),
                depth := (match me with | some m => m.depth | none => 0) + 1, parent := me.map (·.id) : Append }))
          appendWord s x t.cons as fun s =>
            let s := { s with teams := SMap.modify x.wv.team (fun t =>
              { t with cons := { t.cons with contd := t.cons.contd + (lanesOf x.e).length } }) s.teams }
            let s := s.setWave x.v (x.wv.exitLanes s.aclk x.cl x.e)
            let s := (lanesOf x.e).foldl (fun s l => match laneRec x.wv l with
              | some m => recDone s x.wv.ctx x.wv.tag m.id ports.length
              | none => s) s
            barChecks s x.wv.team)

end Sys2Proof.Machine
end

