-- ==== Sys2Proof/Machine/Memory.lean ====
section
/-!
DEFINITION. Loads, stores, atomics, reductions and fences (R367-R381), with R205, R206 and R110 as the model performs
them: a release wider than CORE sends the core's writes home, an acquire wider than CORE also drops its copies.
-/

namespace Sys2Proof.Machine

/-! ### Words that reach memory -/

/-- List an operation of a wave as in flight (R291), for a word that writes a register or names a token. -/
def launchOp (s : State) (v : Nat) (tok : BitVec 3) (kind : OpKind) (regs : List RegWrite) : State :=
  let op : PendOp := { id := s.nextId, tok := tokenOf tok, regs := regs, kind := kind, earliest := 0, latest := 0 }
  { s with waves := SMap.modify v (fun wv => wv.launch op) s.waves }.fresh

/-- A word that writes no register is in flight only for its token. -/
def launchStore (s : State) (v : Nat) (tok : BitVec 3) : State :=
  if (tokenOf tok).isSome then launchOp s v tok .store [] else s

def reqOf (a : LaneAcc) : Req :=
  { lane := a.lane, va := a.addr.toNat, size := a.size, acc := if a.write then .write else .read, sys := a.sys }

/-- A memory word: R288, the checks of R369, the token (R291), translation of every lane (R199), then its effect. With
an empty mask it has none (R367). -/
def memWord (s : State) (w : VWord) (ops : List (OpKind2 × BitVec 9)) (accs : WCtx → List LaneAcc)
    (body : WCtx → Team → List Nat → State) : Host.Outcome State Fault Refusal :=
  onWave s w.msel fun x =>
    match teamOf s x.wv with
    | none => s
    | some t =>
      checked s x ops 1000 (if x.e = 0 then none else addrFault t (regionSize x.nd) (accs x))
        (if x.e = 0 then s
         else if tokenFull x.wv w.token then s.waitIssue
         else (waveGate s x (((accs x).filter (·.glob)).map reqOf)).run s x (body x t))

def Size.bytes : Size → Nat
  | .b => 1 | .h => 2 | .w => 4 | .d => 8 | .q => 16

/-- Registers an access of a size names. -/
def Size.regs : Size → Nat
  | .b => 1 | .h => 1 | .w => 1 | .d => 2 | .q => 4

def dstKind (z : Size) : OpKind2 := match z with | .d => .dstN 2 | .q => .dstN 4 | _ => .dst
def dataKind (z : Size) : OpKind2 := match z with | .d => .srcN 2 | .q => .srcN 4 | _ => .src

/-- Off(L) of R368: a signed 9-bit count of access sizes, or a signed 32-bit source. -/
def offset (s : State) (x : WCtx) (w : VWord) (unit l : Nat) : Int :=
  if w.mod0 then w.c.toInt * unit else (src s x w.c l).toInt

def offsetOps (w : VWord) : List (OpKind2 × BitVec 9) := if w.mod0 then [] else [(.src, w.c)]

/-- GAddr and LAddr of R368. -/
def gAddr (s : State) (x : WCtx) (w : VWord) (unit l : Nat) : Int :=
  (wrapN 64 (((readPair s x.v x.wv w.a l).toNat : Int) + offset s x w unit l) : Nat)
def lAddr (s : State) (x : WCtx) (w : VWord) (unit l : Nat) : Int :=
  ((src s x w.a l).toNat : Int) + offset s x w unit l

/-- The accesses of a load or store, one for each lane. -/
def accOf (glob write : Bool) (addr : Nat → Int) (n : Nat) (e : Mask) : List LaneAcc :=
  (lanesOf e).map (fun l => { lane := l, addr := addr l, size := n, align := n, glob := glob, write := write })

/-- Bytes as register words, the last zero-extended (R371). -/
def wordsOf (bs : List Byte) (n : Nat) : List Word :=
  (List.range n).map (fun j => BitVec.ofNat 32 (natOfBytes ((bs.drop (4 * j)).take 4)))

/-- A core outside a scope's reach matters only for scopes wider than CORE (R205): SCOPE codes 3 to 6. -/
def wide (scope : Nat) : Bool := decide (scope ≥ 3)

/-- The release and acquire of a word, on its core's L1 (R205, R206): the release waits for a retraining link (R29), and
what it meets faults the context (R401); then the word goes on. -/
def syncWord (s : State) (x : WCtx) (rel acq : Bool) (k : State → State) : State :=
  let g := coreOfWave x.v
  if !rel && !acq then k s
  else if releaseWaits s g then s.waitIssue
  else match releaseLoss s g with
    | some c => faultWave (l1Release s g) x (.of c 0 x.e)
    | none => k (if acq then l1Flush s g else l1Release s g)

/-- The register writes of a load's results. -/
def loadRegs (d : BitVec 9) (e : Mask) (n : Nat) (res : List (Nat × List Word)) : List RegWrite :=
  (List.range n).flatMap (fun j => regWrites (d + BitVec.ofNat 9 j) e (fun l =>
    match res.find? (fun r => r.1 == l) with | some r => r.2.getD j 0 | none => 0))

/-- A push into the window of the compute wave (R167): entries from (h + c) on, zero outside E. -/
def pushWindow (s : State) (x : WCtx) (tok : BitVec 3) (n : Nat) (res : List (Nat × List Word)) : State :=
  match x.wv.pair with
  | none => s
  | some p =>
    match SMap.find? s.waves p with
    | none => s
    | some cw =>
      let slots := (List.range n).map (fun j => (cw.qh + cw.qc + j) % x.nd.qlen)
      let regs := slots.zipIdx.flatMap (fun q => (List.range x.wv.width).map (fun l =>
        { key := vKey (x.nd.qbase + q.1) l, contested := false,
          val := match res.find? (fun r => r.1 == l) with | some r => r.2.getD q.2 0 | none => 0 : RegWrite }))
      launchOp (s.setWave p { cw with qc := cw.qc + n }) x.v tok (.push slots) regs

/-- Whether n entries fit in the window (R167). -/
def windowRoom (s : State) (x : WCtx) (n : Nat) : Bool :=
  match x.wv.pair with
  | some p => (match SMap.find? s.waves p with | some cw => decide (cw.qc + n ≤ x.nd.qlen) | none => false)
  | none => false

/-- Global loads: LD and LDA, into registers or into the window (R371-R373). -/
def loadWord (z : Size) (acquire : Bool) (w : VWord) (s : State) : Host.Outcome State Fault Refusal :=
  let push (x : WCtx) : Bool := x.wv.access && w.d == 0xFF
  let isPush : Bool := match waveOf s w.msel with | some x => push x | none => false
  memWord s w ((if isPush then [] else [(dstKind z, w.d)]) ++ [(.srcN 2, w.a)] ++ offsetOps w)
    (fun x => accOf true false (gAddr s x w (Size.bytes z)) (Size.bytes z) x.e)
    (fun x _ pas =>
      let g := coreOfWave x.v
      if push x ∧ !windowRoom s x (Size.regs z) then s.waitIssue
      else
        syncWord s x false (acquire && wide w.scope) fun s0 =>
          let r := ((lanesOf x.e).zip pas).foldl (fun (a : State × List (Nat × List Word)) p =>
            let (s, bs) := coreRead a.1 g p.2 (Size.bytes z)
            (s, a.2 ++ [(p.1, wordsOf bs (Size.regs z))])) (s0, [])
          if push x then pushWindow r.1 x w.token (Size.regs z) r.2
          else launchOp r.1 x.v w.token .regs (loadRegs w.d x.e (Size.regs z) r.2))

def execLd (z : Size) (w : VWord) (s : State) : Host.Outcome State Fault Refusal := loadWord z false w s
def execLda (z : Size) (w : VWord) (s : State) : Host.Outcome State Fault Refusal := loadWord z true w s

/-- The data bytes a lane stores (R371). -/
def storeBytes (s : State) (x : WCtx) (z : Size) (b : BitVec 9) (l : Nat) : List Byte :=
  match z with
  | .d => bytesOf 8 (readPair s x.v x.wv b l).toNat
  | .q => (List.range 4).flatMap (fun j => bytesOf 4 (src s x (b + BitVec.ofNat 9 j) l).toNat)
  | z => bytesOf (Size.bytes z) (src s x b l).toNat

/-- FENCE_STRENGTHEN of a context (R109): a launch of revision 1 or 2 is in flight. -/
def strengthened (s : State) (c : Nat) : Bool :=
  (s.ctx c).launches.any (fun l => l.2.kind == .graph && decide (l.2.mmrev ≤ 2))

/-- Global stores: ST and STRL (R371, R372); in the fence-strengthening mode a store is visible at DEVICE scope at once
(R110). -/
def storeWord (z : Size) (release : Bool) (w : VWord) (s : State) : Host.Outcome State Fault Refusal :=
  memWord s w ([(.srcN 2, w.a), (dataKind z, w.b)] ++ offsetOps w)
    (fun x => accOf true true (gAddr s x w (Size.bytes z)) (Size.bytes z) x.e)
    (fun x _ pas =>
      let g := coreOfWave x.v
      let strong := strengthened s x.wv.ctx
      syncWord s x ((release && wide w.scope) || strong) false fun s0 =>
        let s1 := ((lanesOf x.e).zip pas).foldl (fun s' p => coreWrite s' g p.2 (storeBytes s x z w.b p.1)) s0
        launchStore (if strong then l1Release s1 g else s1) x.v w.token)

def execSt (z : Size) (w : VWord) (s : State) : Host.Outcome State Fault Refusal := storeWord z false w s
def execStrl (z : Size) (w : VWord) (s : State) : Host.Outcome State Fault Refusal := storeWord z true w s

/-- LDL (R371): from the team's region. -/
def execLdl (z : Size) (w : VWord) (s : State) : Host.Outcome State Fault Refusal :=
  memWord s w ([(dstKind z, w.d), (.src, w.a)] ++ offsetOps w)
    (fun x => accOf false false (lAddr s x w (Size.bytes z)) (Size.bytes z) x.e)
    (fun x t _ =>
      let res := (lanesOf x.e).map (fun l => (l, wordsOf (localRead s t (lAddr s x w (Size.bytes z) l).toNat (Size.bytes z)) (Size.regs z)))
      launchOp s x.v w.token .regs (loadRegs w.d x.e (Size.regs z) res))

/-- STL (R371): lanes store in ascending order. -/
def execStl (z : Size) (w : VWord) (s : State) : Host.Outcome State Fault Refusal :=
  memWord s w ([(.src, w.a), (dataKind z, w.b)] ++ offsetOps w)
    (fun x => accOf false true (lAddr s x w (Size.bytes z)) (Size.bytes z) x.e)
    (fun x _ _ =>
      let s1 := (lanesOf x.e).foldl (fun s' l =>
        localWrite s' x.wv.team (lAddr s x w (Size.bytes z) l).toNat (storeBytes s x z w.b l)) s
      launchStore s1 x.v w.token)

/-! ### Atomics (R374, R375) -/

def AtomOp.calc (op : AtomOp) (n old b c : Nat) : Nat :=
  match op with
  | .add => reduceInt 0 n old b
  | .min => reduceInt 1 n old b
  | .max => reduceInt 2 n old b
  | .and => reduceInt 3 n old b
  | .or => reduceInt 4 n old b
  | .xor => reduceInt 5 n old b
  | .xchg => b
  | .cas => if old = c then b else old
  | .minu => reduceInt 0x21 n old b
  | .maxu => reduceInt 0x22 n old b

/-- PCIe has FetchAdd, Swap and CAS only (R188). -/
def AtomOp.overPcie : AtomOp → Bool
  | .add => true | .xchg => true | .cas => true | _ => false

/-- A read-modify-write of n bytes by a core, in M in its L1, or sent to PCIe (R188, R191): the state and the old value. -/
def rmw (s : State) (g pa n : Nat) (f : Nat → Nat) : State × Nat :=
  if isSys pa then
    let old := natOfBytes (homeBytes s pa n)
    (coreWrite s g pa (bytesOf n (f old)), old)
  else
    let s := bringM s g (pa / 128)
    let (s, bs) := coreRead s g pa n
    let old := natOfBytes bs
    (coreWrite s g pa (bytesOf n (f old)), old)

/-- The accesses of an atomic or reduction, which PCIe performs or not (R188). -/
def rmwOf (pcie : Bool) (addr : Nat → Int) (n : Nat) (e : Mask) : List LaneAcc :=
  (accOf true true addr n e).map (fun a => { a with sys := pcie })

def execAtom (op : AtomOp) (o : Ord4) (w : VWord) (s : State) : Host.Outcome State Fault Refusal :=
  let d := w.mod0
  let n := if d then 8 else 4
  let sk : OpKind2 := if d then .srcN 2 else .src
  memWord s w ([(if d then .dstN 2 else .dst, w.d), (.srcN 2, w.a), (sk, w.b)] ++ (if op = .cas then [(sk, w.c)] else []))
    (fun x => rmwOf (AtomOp.overPcie op) (fun l => ((readPair s x.v x.wv w.a l).toNat : Int)) n x.e)
    (fun x _ pas =>
      let g := coreOfWave x.v
      let strong := decide (o = .none) && strengthened s x.wv.ctx
      let rel := strong || (decide (o = .rel ∨ o = .acqrel) && wide w.scope)
      let acq := strong || (decide (o = .acq ∨ o = .acqrel) && wide w.scope)
      syncWord s x rel acq fun s0 =>
        let val (code : BitVec 9) (l : Nat) : Nat :=
          if d then (readPair s x.v x.wv code l).toNat else (src s x code l).toNat
        let r := ((lanesOf x.e).zip pas).foldl (fun (a : State × List (Nat × List Word)) p =>
          let (s', old) := rmw a.1 g p.2 n (fun old => AtomOp.calc op n old (val w.b p.1) (if op = .cas then val w.c p.1 else 0))
          (s', a.2 ++ [(p.1, wordsOf (bytesOf n old) (n / 4))])) (s0, [])
        launchOp r.1 x.v w.token .regs (loadRegs w.d x.e (n / 4) r.2))

/-! ### Reductions (R376-R378) -/

def RedOp.num : RedOp → Nat
  | .add => 0 | .min => 1 | .max => 2 | .and => 3 | .or => 4 | .xor => 5 | .fadd => 6 | .minu => 0x21 | .maxu => 0x22

/-- A partial result on a word clashes with a reduction of another operator, width or place (R191). -/
def partClash (code off n : Nat) (p : Nat × Nat × Nat × Nat) : Bool :=
  decide (p.1 < off + n ∧ off < p.1 + p.2.2.1) && !(p.1 == off && p.2.1 == code && p.2.2.1 == n)

/-- A core holds a line in M. -/
def ownM (s : State) (g ln : Nat) : Bool :=
  match SMap.find? s.l1 (l1Key g ln) with | some x => x.st == .m | none => false

/-- An integer reduction on a line in U (R191): copies elsewhere in S or M go first; a clash combines the line first. A
line the core holds in M is reduced there. -/
def redU (s : State) (g pa code n b : Nat) : State :=
  let ln := pa / 128
  let off := pa % 128
  if ownM s g ln then (rmw s g pa n (fun old => reduceInt code n old b)).1
  else
    let gone : List (Nat × Line) := s.l1.filter (fun e => l1Line e.1 == ln && e.2.st != .u)
    let s := gone.foldl (fun s e => { sendHome s ln e.2 with l1 := SMap.erase e.1 (sendHome s ln e.2).l1 }) s
    let clash := s.l1.any (fun e => l1Line e.1 == ln && e.2.part.any (partClash code off n))
    let s := if clash then combineLine s ln else s
    let s := if (SMap.find? s.l1 (l1Key g ln)).isNone then makeRoom s g else s
    let parts := match SMap.find? s.l1 (l1Key g ln) with | some x => x.part | none => []
    let parts := match parts.find? (fun p => p.1 == off) with
      | some p => parts.map (fun q => if q.1 = off then (off, code, n, reduceInt code n p.2.2.2 b) else q)
      | none => parts ++ [(off, code, n, b % 2 ^ (8 * n))]
    wakeLine { s with l1 := SMap.insert (l1Key g ln) { st := .u, data := 0, dirty := 0, part := parts } s.l1 } ln

def execRed (op : RedOp) (w : VWord) (s : State) : Host.Outcome State Fault Refusal :=
  let d := w.mod0
  let n := if d then 8 else 4
  memWord s w [(.srcN 2, w.a), (if d then .srcN 2 else .src, w.b)]
    (fun x => rmwOf false (fun l => ((readPair s x.v x.wv w.a l).toNat : Int)) n x.e)
    (fun x _ pas =>
      let g := coreOfWave x.v
      let val (l : Nat) : Nat := if d then (readPair s x.v x.wv w.b l).toNat else (src s x w.b l).toNat
      let fmt := if d then fp64 else fp32
      let s1 := ((lanesOf x.e).zip pas).foldl (fun s' p =>
        if op = .fadd then (rmw s' g p.2 n (fun old => fAdd fmt (n4 fmt) .ne old (val p.1))).1
        else redU s' g p.2 (RedOp.num op) n (val p.1)) s
      launchStore s1 x.v w.token)

/-- FRED.C2 (R252, R378). -/
def execFredC2 (w : VWord) (s : State) : Host.Outcome State Fault Refusal :=
  let d := w.mod0
  let n := if d then 16 else 8
  let fmt := if d then fp64 else fp32
  memWord s w [(.srcN 2, w.a), (if d then .srcN 2 else .src, w.b)]
    (fun x => rmwOf false (fun l => ((readPair s x.v x.wv w.a l).toNat : Int)) n x.e)
    (fun x _ pas =>
      let g := coreOfWave x.v
      let val (l : Nat) : Nat := if d then (readPair s x.v x.wv w.b l).toNat else (src s x w.b l).toNat
      let half := 2 ^ (4 * n)
      let s1 := ((lanesOf x.e).zip pas).foldl (fun s' p =>
        (rmw s' g p.2 n (fun old =>
          let (a, e) := twoSum fmt (old % half) (old / half) (val p.1)
          a + e * half)).1) s
      launchStore s1 x.v w.token)

/-! ### Fences (R379-R381) -/

/-- A word of a wave with a token and no operands that are read in lanes. -/
def plainWord (s : State) (w : VWord) (ops : List (OpKind2 × BitVec 9)) (f : WCtx → State) : Host.Outcome State Fault Refusal :=
  onWave s w.msel fun x =>
    checked s x ops 1000 none
      (if x.e = 0 then s else if tokenFull x.wv w.token then s.waitIssue else f x)

/-- FENCE (R202, R205, R206): at a scope wider than CORE the core's writes go home and its copies go. -/
def execFence (w : VWord) (s : State) : Host.Outcome State Fault Refusal :=
  plainWord s w [] fun x =>
    let all := wide w.scope || strengthened s x.wv.ctx
    syncWord s x all all fun t => launchStore t x.v w.token

/-- The lowest free token slot (R381). -/
def freeFence (wv : Wave) : Option Nat := (List.range 4).find? (fun i => (SMap.find? wv.fences i).isNone)

/-- FISSUE (R212, R381): takes a slot and writes its token; waits at issue while none is free. -/
def execFissue (w : VWord) (s : State) : Host.Outcome State Fault Refusal :=
  plainWord s w [(.wDst, w.d)] fun x =>
    match freeFence x.wv with
    | none => s.waitIssue
    | some i =>
      let gen := (x.wv.gen + 1) % 2 ^ 22
      let tokv : Word := BitVec.ofNat 32 (0xF1000000 + gen * 4 + i)
      launchOp (s.setWave x.v { x.wv with gen := gen, fences := SMap.insert i (gen, false) x.wv.fences }) x.v w.token .regs
        (regWrites w.d x.e (fun _ => tokv))

/-- FWAIT (R212, R381): F_FENCE_TOKEN for a bad token; waits at issue for the slot's release; then retires the slot. -/
def execFwait (w : VWord) (s : State) : Host.Outcome State Fault Refusal :=
  plainWord s w [(.uni, w.a)] fun x =>
    let a := (readUni s x.v x.wv w.a).toNat
    let bad (sub : Nat) : State := faultWave s x { FaultInfo.of fFenceToken sub x.e with detail := a }
    if a / 2 ^ 24 ≠ 0xF1 then bad 1
    else match SMap.find? x.wv.fences (a % 4) with
      | none => bad 2
      | some (gen, done) =>
        if gen ≠ a / 4 % 2 ^ 22 then bad 2
        else if !done then s.waitIssue
        else launchStore (s.setWave x.v { x.wv with fences := SMap.erase (a % 4) x.wv.fences }) x.v w.token

/-- SPLIT_FENCE_RELEASE_DONE (R212): the release of a slot is complete; the core's writes are at their homes. -/
def execSplitFenceReleaseDone (v i : Nat) (s : State) : Host.Outcome State Fault Refusal :=
  match SMap.find? s.waves v with
  | none => .next s
  | some wv =>
    match SMap.find? wv.fences i with
    | none => .next s
    | some (gen, done) =>
      let g := coreOfWave v
      if done ∨ releaseWaits s g then .next s
      else .next { releaseAs s g (reportOf wv.ctx (unitOfCore g) (v % 48) 0 (.of 0 0 0)) with
        waves := SMap.insert v { wv with fences := SMap.insert i (gen, true) wv.fences } s.waves }

/-- FALIAS (R213): copies are held by physical address, so aliases agree already. -/
def execFalias (w : VWord) (s : State) : Host.Outcome State Fault Refusal :=
  plainWord s w [] fun x => launchStore s x.v w.token

/-- FPATH (R214): earlier ordinary writes go home, and stale copies go. -/
def execFpath (w : VWord) (s : State) : Host.Outcome State Fault Refusal :=
  plainWord s w [] fun x => syncWord s x true true fun t => launchStore t x.v w.token

end Sys2Proof.Machine
end

