-- ==== Sys2Proof/Machine/Copies.lean ====
section
/-!
DEFINITION. Copies, range locks and prefetch (R382-R395): ACOPY, CWAIT, CFENCE, TCOPY, RLOCK, RUNLOCK, PREF, the landing
of a copy's chunks, and the completion of an operation of a wave (R291, R400).
-/

namespace Sys2Proof.Machine

/-! ### Completion of operations -/

/-- Apply one register write of a completed operation; a contested one may give way to the value the register has (R293). -/
def applyReg (free : Nat) (wv : Wave) (r : RegWrite) : Wave :=
  if r.contested && Config.freeBit free (lanePick r.key 0) then wv
  else if r.key < 0x4000 then { wv with v := SMap.set 0 r.key r.val wv.v }
  else { wv with w := SMap.set 0 (r.key - 0x4000) r.val wv.w }

/-- What may still be read in place of a write that is not yet readable is the value of the operation that has completed
meanwhile (R293). -/
def settleHaz (hs : List Haz) (rs : List RegWrite) : List Haz :=
  hs.map (fun h => match rs.find? (fun r => r.key == h.key) with
    | some r => { h with old := r.val.setWidth 64 }
    | none => h)

/-- A wave between clauses whose head run's header waits for token k and for no token that is busy (R151, R275). -/
def headWaits (s : State) (v : Nat) (wv : Wave) (k : Nat) : Bool :=
  wv.run.isNone && wv.park == .no && (match headRun wv with
    | some (h, _, _) =>
      (match fetchCode { s with cur := some (.wave v) } (some (coreOfWave v)) (stackOfCore (coreOfWave v)) wv.ctx h with
      | .word w => (match decodeHeader w with
        | .ok hd => isHeader w && hd.wait.getLsbD k && tokensIdle wv.tok hd
        | .error _ => false)
      | _ => false)
    | none => false)

/-- An operation of wave v completes: its registers are written and its token falls (R291, R400); a wave that this makes
ready has been so since now (R164). -/
def completeOp (s : State) (v id : Nat) : State :=
  match SMap.find? s.waves v with
  | none => s
  | some wv =>
    match wv.ops.find? (fun o => o.id == id) with
    | none => s
    | some o =>
      let rs : List RegWrite := if o.isPush then [] else o.regs
      let wv := rs.foldl (applyReg s.free) wv
      let wv := { wv with
        tok := match o.tok with | some k => SMap.set 0 k (wv.getTok k - 1) wv.tok | none => wv.tok
        haz := settleHaz wv.haz rs
        ops := (wv.ops.filter (fun (p : PendOp) => p.id != id)).map (PendOp.contest (rs.map RegWrite.key)) }
      let freed := match o.tok with | some k => wv.getTok k == 0 && headWaits s v wv k | none => false
      waveEndCheck (s.setWave v (if freed then { wv with readySince := s.aclk } else wv)) v

/-! ### ACOPY (R382-R385) -/

/-- The chunks of 512 bytes that byte addresses of a region lie in. -/
def chunksOf (as : List Nat) : List Nat := (as.map (· / 512)).eraseDups

def raise (m : SMap Nat) (ks : List Nat) : SMap Nat := ks.foldl (fun m k => bump k 1 m) m
def lower (m : SMap Nat) (ks : List Nat) : SMap Nat := ks.foldl (fun m k => drop k 1 m) m

/-- Bytes each lane of an ACOPY moves: 4, 8 or 16, by the code in C. -/
def copySize (w : VWord) : Nat := w.c.toNat - 0x180

def acopyOps (w : VWord) : List (OpKind2 × BitVec 9) := [(.srcN 2, w.a), (.src, w.b), (.codes [0x184, 0x188, 0x190], w.c)]

def acopyAccs (inward : Bool) (s : State) (w : VWord) (x : WCtx) : List LaneAcc :=
  accOf true (!inward) (fun l => ((readPair s x.v x.wv w.a l).toNat : Int)) (copySize w) x.e ++
    accOf false inward (fun l => ((src s x w.b l).toNat : Int)) (copySize w) x.e

/-- ACOPY.GL (R384): the global bytes are read at their homes as the word issues, and land chunk by chunk. -/
def execAcopyGl (w : VWord) (s : State) : Host.Outcome State Fault Refusal :=
  memWord s w (acopyOps w) (acopyAccs true s w)
    (fun x t pas =>
      let r := ((lanesOf x.e).zip pas).foldl (fun (a : State × List (Nat × Byte)) p =>
        let (s', bs) := homeRead a.1 false p.2 (copySize w)
        (s', a.2 ++ bs.zipIdx.map (fun b => ((src s x w.b p.1).toNat + b.2, b.1)))) (s, [])
      let ch := chunksOf (r.2.map (·.1))
      launchOp (r.1.setTeam x.wv.team { t with cin := raise t.cin ch }) x.v w.token (.copy true ch r.2 []) [])

/-- ACOPY.LG (R384): the team-local bytes as they are when the word issues, unless a write meets them (R385). -/
def execAcopyLg (w : VWord) (s : State) : Host.Outcome State Fault Refusal :=
  memWord s w (acopyOps w) (acopyAccs false s w)
    (fun x t pas =>
      let rs := ((lanesOf x.e).zip pas).flatMap (fun p =>
        (localRead s t (src s x w.b p.1).toNat (copySize w)).zipIdx.map (fun b =>
          ((src s x w.b p.1).toNat + b.2, p.2 + b.2, b.1)))
      let ch := chunksOf (rs.map (·.1))
      launchOp (s.setTeam x.wv.team { t with cout := raise t.cout ch }) x.v w.token
        (.copy false ch (rs.map (fun r => (r.2.1, r.2.2))) (rs.map (fun r => (r.1, r.2.1, 0)))) [])

/-- COPY_CHUNK_RELEASE (R383, R384): chunk k of operation i of wave v has landed, or has been read. -/
def execCopyChunkRelease (v i k : Nat) (s : State) : Host.Outcome State Fault Refusal :=
  match SMap.find? s.waves v with
  | none => .next s
  | some wv =>
    match wv.ops.find? (fun o => o.id == i) with
    | none => .next s
    | some o =>
      let put (kd : OpKind) : State :=
        s.setWave v { wv with ops := wv.ops.map (fun p => if p.id = i then { p with kind := kd } else p) }
      match o.kind with
      | .copy inward ch bs src =>
        if !ch.contains k then .next s
        else
          let rest := ch.filter (· != k)
          if inward then
            let s := put (.copy true rest (bs.filter (fun b => b.1 / 512 != k)) src)
            let s := (bs.filter (fun b => b.1 / 512 == k)).foldl (fun s b => localWrite s wv.team b.1 [b.2]) s
            .next { s with teams := SMap.modify wv.team (fun t => { t with cin := lower t.cin [k] }) s.teams }
          else
            let s := put (.copy false rest bs src)
            .next { s with teams := SMap.modify wv.team (fun t => { t with cout := lower t.cout [k] }) s.teams }
      | _ => .next s

/-! ### CWAIT and CFENCE (R386, R387) -/

/-- The chunks a CWAIT waits for: bits of the mask in cb j. -/
def waitedChunks (j : Nat) (m : DWord) : List Nat := (lanesOf m).map (fun i => 64 * j + i)

def execCwait (w : VWord) (s : State) : Host.Outcome State Fault Refusal :=
  plainWord s w [(.codes [0x180, 0x181, 0x182, 0x183], w.a), (.uniPair, w.b), (.codes [0x181, 0x182, 0x183], w.c)] fun x =>
    match teamOf s x.wv with
    | none => s
    | some t =>
      let ks := waitedChunks (w.a.toNat - 0x180) (readUniPair s x.v x.wv w.b)
      let busy := ks.any (fun k => (w.c.toNat != 0x182 && SMap.get 0 t.cin k != 0) ||
        (w.c.toNat != 0x181 && SMap.get 0 t.cout k != 0))
      if busy then s.waitIssue else launchStore s x.v w.token

/-- A copy of the wave towards global memory that has not completed (R387). -/
def outwardOp (s : State) (o : PendOp) : Bool :=
  match o.kind with
  | .copy false _ _ _ => true
  | .long id => s.longs.any (fun l => l.id == id && (match l.kind with
      | .tcopy d => d.getD 2 0 % 4 != 0
      | _ => false))
  | _ => false

/-- CFENCE (R215, R387): waits for the wave's outward copies, whose writes are then at their homes, and releases them. What
the core holds of the lines they wrote may be old, so its copies go at every scope.
DEDUCED, log 12, safe: copies of other lines go too. -/
def execCfence (w : VWord) (s : State) : Host.Outcome State Fault Refusal :=
  plainWord s w [] fun x =>
    if x.wv.ops.any (outwardOp s) then s.waitIssue else syncWord s x true true fun t => launchStore t x.v w.token

/-! ### TCOPY (R388-R392) -/

/-- A tensor descriptor's words as captured: GADDR, XADDR, FLAGS, then SIZE and STRIDE of the nine dimensions. -/
def descOf (bs : List Byte) : List Nat :=
  let at_ (o n : Nat) : Nat := natOfBytes ((bs.drop o).take n)
  [at_ 0 8, at_ 8 8, at_ 0x10 4] ++
    (List.range 9).flatMap (fun k => [at_ (0x20 + 16 * k) 4, at_ (0x28 + 16 * k) 8])

/-- The reserved bytes of a descriptor. -/
def descReserved (bs : List Byte) : Bool :=
  let zero (o n : Nat) : Bool := natOfBytes ((bs.drop o).take n) == 0
  zero 0x14 12 && zero 0xB0 16 && (List.range 9).all (fun k => zero (0x24 + 16 * k) 4)

def dGaddr (d : List Nat) : Nat := d.getD 0 0
def dXaddr (d : List Nat) : Nat := d.getD 1 0
def dFlags (d : List Nat) : Nat := d.getD 2 0
def dDir (d : List Nat) : Nat := dFlags d % 4
def dElog (d : List Nat) : Nat := bits (dFlags d) 2 3
def dRank (d : List Nat) : Nat := bits (dFlags d) 5 4 + 1
def dSize (d : List Nat) (k : Nat) : Nat := d.getD (3 + 2 * k) 0
def dStride (d : List Nat) (k : Nat) : Int := sext 64 (d.getD (4 + 2 * k) 0)

/-- A swizzle: the log of its unit (0 for none), its width and its row shift. -/
structure Swz where
  u : Nat
  b : Nat
  s : Nat
  on : Bool
  deriving DecidableEq, Repr

def swzOf (swz b s : Nat) : Swz := { u := swz + 3, b := b, s := s, on := decide (swz ≠ 0) }
def dSwz (d : List Nat) : Swz := swzOf (bits (dFlags d) 9 3) (bits (dFlags d) 12 2) (bits (dFlags d) 14 5)

/-- Swz of R389. -/
def Swz.place (z : Swz) (o : Nat) : Nat := if z.on then o ^^^ (o / 2 ^ z.s % 2 ^ z.b * 2 ^ z.u) else o

/-- The reserved values of a swizzle's fields (R388, R413). -/
def swzBad (swz b s : Nat) : Bool :=
  decide (swz > 4) || (if swz = 0 then b != 0 || s != 0 else decide (b = 0 ∨ s < 7 ∨ 16 < s))

/-- The dense span B in bytes, and S of R390. -/
def dSpan (d : List Nat) : Nat := 2 ^ dElog d * ((List.range (dRank d)).foldl (fun p k => p * dSize d k) 1)
def dDense (d : List Nat) : Nat :=
  let z := dSwz d
  if z.on then ceilDiv (dSpan d) (2 ^ z.s) * 2 ^ z.s else dSpan d

/-- The strided extent: lowest element address, and one past the highest byte (R390). -/
def dLow (d : List Nat) : Int :=
  (List.range (dRank d)).foldl (fun a k => a + min 0 (((dSize d k : Int) - 1) * dStride d k)) (dGaddr d : Int)
def dHigh (d : List Nat) : Int :=
  (List.range (dRank d)).foldl (fun a k => a + max 0 (((dSize d k : Int) - 1) * dStride d k)) (dGaddr d : Int) + 2 ^ dElog d

/-- The lowest reason of R390 a descriptor breaks. -/
def descReason (bs : List Byte) (region : Nat) : Option Nat :=
  let d := descOf bs
  let f := dFlags d
  let z := dSwz d
  let el := 2 ^ dElog d
  let ks := List.range 9
  if !descReserved bs || decide (2 ^ 19 ≤ f) || swzBad (bits f 9 3) (bits f 12 2) (bits f 14 5) ||
      decide (dRank d > 9 ∨ dElog d > 4 ∨ dDir d = 3) ||
      ks.any (fun k => if k < dRank d then decide (dSize d k < 1 ∨ 65536 < dSize d k)
        else dSize d k != 0 || dStride d k != 0) ||
      (dDir d != 2 && decide (2 ^ 32 ≤ dXaddr d)) then some 1
  else if dGaddr d % el ≠ 0 ∨ (ks.any (fun k => dStride d k % (el : Int) != 0)) ∨ dXaddr d % el ≠ 0 ∨
      (z.on ∧ dXaddr d % 2 ^ z.s ≠ 0) then some 2
  else if z.on ∧ (dDir d = 2 ∨ z.s < z.u + z.b) then some 3
  else if dLow d < 0 ∨ (2 : Int) ^ 52 < dHigh d ∨ (dDir d = 2 ∧ (2 ^ 52 < dXaddr d + dSpan d ∨ 2 ^ 31 < dSpan d)) then some 4
  else if dDir d ≠ 2 ∧ region < dXaddr d + dDense d then some 5
  else if dDir d = 2 ∧ dLow d < (dXaddr d + dDense d : Nat) ∧ (dXaddr d : Int) < dHigh d then some 6
  else none

/-- The source and destination extents of a TCOPY: space, first byte, one past the last. -/
def dExtents (d : List Nat) : (Bool × Nat × Nat) × (Bool × Nat × Nat) :=
  let str := (true, (dLow d).toNat, (dHigh d).toNat)
  let den := (dDir d == 2, dXaddr d, dXaddr d + dDense d)
  if dDir d = 1 then (den, str) else (str, den)

/-- The chunks of an extent of the region. -/
def extentChunks (e : Bool × Nat × Nat) : List Nat :=
  if e.1 then [] else (List.range (ceilDiv e.2.2 512 - e.2.1 / 512)).map (fun j => e.2.1 / 512 + j)

/-- The first range-lock entry that forbids an access to an extent (R217). -/
def extentHit (t : Team) (e : Bool × Nat × Nat) (write : Bool) : Option Nat :=
  lockHit t { lane := 0, addr := e.2.1, size := e.2.2 - e.2.1, align := 0, glob := e.1, write := write }

def freeLocks (t : Team) : List Nat := (List.range 16).filter (fun i => (SMap.find? t.locks i).isNone)

/-- Take a range-lock entry (R217). -/
def takeLock (t : Team) (i : Nat) (dst : Bool) (e : Bool × Nat × Nat) (user : Bool) : Team :=
  { t with locks := SMap.insert i { dst := dst, glob := e.1, lo := e.2.1, hi := e.2.2, user := user } t.locks }

def lockFault (e : Nat) (m : Mask) : FaultInfo :=
  { FaultInfo.of fRangeLock 1 m with detail := lowestLane m + e * 65536 }

/-- Start a long operation of a wave: it is listed, with the token of its word. -/
def launchLong (s : State) (x : WCtx) (tok : BitVec 3) (kind : LongKind) (locks inward outward : List Nat) : State :=
  let l : LongOp := { id := s.nextId, pc := x.cl.h, ctx := x.wv.ctx, team := x.wv.team, wave := x.v, op := s.nextId, kind := kind,
                      locks := locks, inward := inward, outward := outward, park := .no, captured := false }
  launchOp { s with longs := s.longs ++ [l] } x.v tok (.long s.nextId) []

/-- TCOPY (R390, R391): the descriptor is read and captured as the word issues. -/
def execTcopy (w : VWord) (s : State) : Host.Outcome State Fault Refusal :=
  onWave s w.msel fun x =>
    match teamOf s x.wv with
    | none => s
    | some t =>
      let l := lowestLane x.e
      let a := (readPair s x.v x.wv w.a l).toNat
      let desc (r : Nat) : FaultInfo := .of fTensorDesc r x.e
      let own : Option FaultInfo :=
        if x.e = 0 then none
        else match addrFault t (regionSize x.nd) [{ lane := l, addr := a, size := 192, align := 0, glob := true, write := false }] with
          | some f => some f
          | none => if a % 64 ≠ 0 then some (desc 2) else none
      checked s x [(.srcN 2, w.a)] 1000 own
        (if x.e = 0 then s
         else if tokenFull x.wv w.token then s.waitIssue
         else (waveGate s x ((List.range 3).map (fun j => { lane := l, va := a + 64 * j, size := 64, acc := .read }))).run s x
          (fun pas =>
            let r := pas.foldl (fun (q : State × List Byte) pa =>
              let (s', bs) := homeRead q.1 false pa 64
              (s', q.2 ++ bs)) (s, [])
            match descReason r.2 (regionSize x.nd) with
            | some n => faultWave s x (desc n)
            | none =>
              let d := descOf r.2
              let (from_, to_) := dExtents d
              match extentHit t from_ false, extentHit t to_ true with
              | some e, _ => faultWave s x (lockFault e x.e)
              | none, some e => faultWave s x (lockFault e x.e)
              | none, none =>
                match freeLocks t with
                | i :: j :: _ =>
                  let t := takeLock (takeLock t i false from_ false) j true to_ false
                  let inw := extentChunks to_
                  let out := extentChunks from_
                  launchLong (r.1.setTeam x.wv.team { t with cin := raise t.cin inw, cout := raise t.cout out }) x w.token
                    (.tcopy d) [i, j] inw out
                | _ => s.waitIssue))

/-- The elements of a TCOPY in ascending dense offset (R389): strided address and dense address. -/
def dElements (d : List Nat) : List (Nat × Nat) :=
  let n := (List.range (dRank d)).foldl (fun p k => p * dSize d k) 1
  (List.range n).map (fun e =>
    let idx := (List.range (dRank d)).foldl (fun (a : Nat × Int) k =>
      (a.1 / max 1 (dSize d k), a.2 + ((a.1 % max 1 (dSize d k) : Nat) : Int) * dStride d k)) (e, (dGaddr d : Int))
    (idx.2.toNat, dXaddr d + (dSwz d).place (e * 2 ^ dElog d)))

/-! ### RLOCK, RUNLOCK, PREF (R393-R395) -/

/-- RLOCK.SRC and RLOCK.DST (R394).
DEDUCED, log 14: the length comes before the range checks. -/
def rlock (dst : Bool) (w : VWord) (s : State) : Host.Outcome State Fault Refusal :=
  onWave s w.msel fun x =>
    match teamOf s x.wv with
    | none => s
    | some t =>
      let glob := w.c == 0x180
      let a := if glob then (readUniPair s x.v x.wv w.a).toNat else (readUni s x.v x.wv w.a).toNat
      let len := (readUni s x.v x.wv w.b).toNat
      let own : Option FaultInfo :=
        if len = 0 ∨ 2 ^ 31 < len then some (.of fRangeLock 3 x.e)
        else if glob ∧ 2 ^ 52 ≤ a then some { FaultInfo.of fVaRange 0 x.e with va := a, detail := lowestLane x.e }
        else if ¬glob ∧ regionSize x.nd < a + len then some { FaultInfo.of fLocalRange 0 x.e with detail := lowestLane x.e }
        else none
      checked s x [(.wDst, w.d), (if glob then .uniPair else .uni, w.a), (.uni, w.b), (.codes [0x180, 0x181], w.c)] 1000 own
        (if tokenFull x.wv w.token then s.waitIssue
         else match freeLocks t with
          | i :: _ =>
            launchOp (s.setTeam x.wv.team (takeLock t i dst (glob, a, a + len) true)) x.v w.token .regs
              (regWrites w.d x.e (fun _ => BitVec.ofNat 32 (0x100 + i)))
          | [] => s.waitIssue)

def execRlockSrc (w : VWord) (s : State) : Host.Outcome State Fault Refusal := rlock false w s
def execRlockDst (w : VWord) (s : State) : Host.Outcome State Fault Refusal := rlock true w s

/-- RUNLOCK (R394). -/
def execRunlock (w : VWord) (s : State) : Host.Outcome State Fault Refusal :=
  onWave s w.msel fun x =>
    match teamOf s x.wv with
    | none => s
    | some t =>
      let h := (readUni s x.v x.wv w.a).toNat
      let held : Bool := decide (0x100 ≤ h) && (match SMap.find? t.locks (h - 0x100) with | some e => e.user | none => false)
      checked s x [(.uni, w.a)] 1000 (if held then none else some { FaultInfo.of fRangeLock 2 x.e with detail := h })
        (if tokenFull x.wv w.token then s.waitIssue
         else launchStore (s.setTeam x.wv.team { t with locks := SMap.erase (h - 0x100) t.locks }) x.v w.token)

/-- PREF (R395): lanes that fail a check or a walk are dropped, and no later word sees what those walks found; the word waits
while a walk is under way.
DEDUCED, log 14, safe: it changes no value. -/
def execPref (w : VWord) (s : State) : Host.Outcome State Fault Refusal :=
  onWave s w.msel fun x =>
    checked s x ([(.srcN 2, w.a)] ++ offsetOps w) 1000 none
      (if x.e = 0 then s
       else if tokenFull x.wv w.token then s.waitIssue
       else
        let g := coreOfWave x.v
        let reqs := (lanesOf x.e).filterMap (fun l =>
          let a := gAddr s x w 128 l
          if a < 2 ^ 52 then some { lane := l, va := a.toNat, size := 1, acc := .read : Req } else none)
        let xs := reqs.map (fun r => (r, xlate s (some g) (stackOfCore g) x.wv.ctx r))
        let misses := xs.filter (fun p => p.2 == .miss)
        if misses ≠ [] then
          (misses.foldl (fun s p => askWalk s { ctx := x.wv.ctx, page := p.1.va / 4096, acc := .read, stack := stackOfCore g, core := some g,
                                                who := askerOf s }) s).waitIssue
        else if xs.any (fun p => p.2 == .hold) then s.waitIssue
        else
          let s' := xs.foldl (fun s p => match p.2 with | .hit pa => bringS s g (pa / 128) | _ => s) s
          launchStore { s' with wfault := s'.wfault.filter (fun f =>
            !(f.ctx == x.wv.ctx && f.who == askerOf s && reqs.any (fun r => r.va / 4096 == f.page))) } x.v w.token)

end Sys2Proof.Machine
end

