-- ==== Sys2Proof/Machine/Float.lean ====
section
/-!
DEFINITION. Floating-point and conversion words (R339, R348-R357), by the context's numeric-behaviour version (R249,
R250).
-/

namespace Sys2Proof.Machine

/-- CTX_NBV of a context (R61, R249). -/
def nbvOf (s : State) (c : Nat) : Nat := (s.ctx c).nbv

/-- The type field MOD[3:2]: 0 FP32, 1 FP16x2, 2 BF16x2 (R339). -/
def VWord.fpType (w : VWord) : Nat := w.mod.toNat / 4
def fmtOfType (t : Nat) : Fmt := if t = 0 then fp32 else if t = 1 then fp16 else bf16
def constOfType (t : Nat) : ConstTy := if t = 0 then .int else .packed (fmtOfType t)

/-- Compute on one FP32 value, or on both halves (R339). -/
def perElem (t : Nat) (f : Fmt → Nat → Nat → Nat → Nat) (a b c : Word) : Word :=
  let g := f (fmtOfType t)
  if t = 0 then BitVec.ofNat 32 (g a.toNat b.toNat c.toNat)
  else
    let lo := g (a.toNat % 65536) (b.toNat % 65536) (c.toNat % 65536)
    let hi := g (a.toNat / 65536) (b.toNat / 65536) (c.toNat / 65536)
    BitVec.ofNat 32 (lo % 65536 + 65536 * (hi % 65536))

/-- A floating-point source (R284, R339). -/
def fsrc (s : State) (x : WCtx) (w : VWord) (code : BitVec 9) (l : Nat) : Word :=
  readSrc s x.v x.wv (constOfType (VWord.fpType w)) code l

def VWord.rm (w : VWord) : Rm := rmOf (w.mod.toNat % 4)

/-- A two-source word of major 0x18. -/
def fword2 (s : State) (w : VWord) (f : NumRules → Fmt → Nat → Nat → Nat) : Host.Outcome State Fault Refusal :=
  valueWord s w [(.dst, w.d), (.src, w.a), (.src, w.b)] 4 fun x l =>
    perElem (VWord.fpType w) (fun t a b _ => f (rulesOf (nbvOf s x.wv.ctx) t) t a b) (fsrc s x w w.a l) (fsrc s x w w.b l) 0

def execFadd (w : VWord) (s : State) : Host.Outcome State Fault Refusal :=
  fword2 s w (fun k t => fAdd t k (VWord.rm w))
def execFsub (w : VWord) (s : State) : Host.Outcome State Fault Refusal :=
  fword2 s w (fun k t => fSub t k (VWord.rm w))
def execFmul (w : VWord) (s : State) : Host.Outcome State Fault Refusal :=
  fword2 s w (fun k t => fMul t k (VWord.rm w))
def execFmin (w : VWord) (s : State) : Host.Outcome State Fault Refusal := fword2 s w (fun k t => fMinMax t k false)
def execFmax (w : VWord) (s : State) : Host.Outcome State Fault Refusal := fword2 s w (fun k t => fMinMax t k true)
def execFfma (w : VWord) (s : State) : Host.Outcome State Fault Refusal :=
  valueWord s w [(.dst, w.d), (.src, w.a), (.src, w.b), (.src, w.c)] 4 fun x l =>
    perElem (VWord.fpType w) (fun t a b c => fFma t (rulesOf (nbvOf s x.wv.ctx) t) (VWord.rm w) a b c)
      (fsrc s x w w.a l) (fsrc s x w w.b l) (fsrc s x w w.c l)

/-- FCMP (R351): a mask takes element 0's outcome; a value destination 1 or 0, per half for packed types. -/
def execFcmp (cc : FCmp) (w : VWord) (s : State) : Host.Outcome State Fault Refusal :=
  onWave s w.msel fun x =>
    let val (l : Nat) : Word := perElem (VWord.fpType w) (fun t a b _ =>
      if fCmp t (rulesOf (nbvOf s x.wv.ctx) t) (FCmp.num cc) a b then 1 else 0) (fsrc s x w w.a l) (fsrc s x w w.b l) 0
    checked s x [(.maskOrDst, w.d), (.src, w.a), (.src, w.b)] 4 none
      (s.setWave x.v (Wave.putCmp s.free 4 x.wv w.d x.e val (fun l => (val l).getLsbD 0)))

/-- A word of group VAR that writes one register per lane, complete no earlier than `early` ACLK on (R291, R352). -/
def varWord (s : State) (w : VWord) (ops : List (OpKind2 × BitVec 9)) (late : Nat) (f : WCtx → Nat → Word) :
    Host.Outcome State Fault Refusal :=
  onWave s w.msel fun x => checked s x ops 1000 none
    (if x.e = 0 then s else launchTimed s x w.token (lastCycle x.wv x.e + 8) (lastCycle x.wv x.e + late) (regWrites w.d x.e (f x)) x.wv)

/-- FRCP to FCOS (R352). -/
def fnWord (s : State) (w : VWord) (f : Fn) : Host.Outcome State Fault Refusal :=
  varWord s w [(.dst, w.d), (.src, w.a)] (if f = .sin ∨ f = .cos then 64 else 32) fun x l =>
    perElem (VWord.fpType w) (fun t a _ _ => fFn f (nbvOf s x.wv.ctx) t a) (fsrc s x w w.a l) 0 0

def execFrcp (w : VWord) (s : State) : Host.Outcome State Fault Refusal := fnWord s w .rcp
def execFrsq (w : VWord) (s : State) : Host.Outcome State Fault Refusal := fnWord s w .rsq
def execFsqrt (w : VWord) (s : State) : Host.Outcome State Fault Refusal := fnWord s w .sqrt
def execFexp2 (w : VWord) (s : State) : Host.Outcome State Fault Refusal := fnWord s w .exp2
def execFlog2 (w : VWord) (s : State) : Host.Outcome State Fault Refusal := fnWord s w .log2
def execFsin (w : VWord) (s : State) : Host.Outcome State Fault Refusal := fnWord s w .sin
def execFcos (w : VWord) (s : State) : Host.Outcome State Fault Refusal := fnWord s w .cos

/-- FFRC and FRND (R353). -/
def fword1 (s : State) (w : VWord) (f : Nat → Fmt → Nat → Nat) : Host.Outcome State Fault Refusal :=
  valueWord s w [(.dst, w.d), (.src, w.a)] 6 fun x l =>
    perElem (VWord.fpType w) (fun t a _ _ => f (nbvOf s x.wv.ctx) t a) (fsrc s x w w.a l) 0 0

def execFfrc (w : VWord) (s : State) : Host.Outcome State Fault Refusal := fword1 s w fFrc
def execFrnd (w : VWord) (s : State) : Host.Outcome State Fault Refusal := fword1 s w (fun n t => fRnd n t (VWord.rm w))

/-- DADD, DMUL and DFMA (R354): FP64 pairs under N4's rules; the word holds its port 32 cycles for each half. -/
def dword (s : State) (w : VWord) (c : Bool) (f : Nat → Nat → Nat → Nat) : Host.Outcome State Fault Refusal :=
  onWave s w.msel fun x =>
    let ops := [(.dstN 2, w.d), (.srcN 2, w.a), (.srcN 2, w.b)] ++ (if c then [(OpKind2.srcN 2, w.c)] else [])
    let rd (code : BitVec 9) (l : Nat) : Nat := (readPair s x.v x.wv code l).toNat
    let val (l : Nat) : DWord := BitVec.ofNat 64 (f (rd w.a l) (rd w.b l) (if c then rd w.c l else 0))
    let halves := lastCycle x.wv x.e - x.wv.cyc + 1
    checked s x ops 1000 none
      (if x.e = 0 then s
       else launchRegs s x w.token
         (regWrites w.d x.e (fun l => (val l).setWidth 32) ++ regWrites (w.d + 1) x.e (fun l => (val l).extractLsb' 32 32))
         { x.wv with cyc := x.wv.cyc + 31 * halves })

def execDadd (w : VWord) (s : State) : Host.Outcome State Fault Refusal :=
  dword s w false (fun a b _ => fAdd fp64 (n4 fp64) (VWord.rm w) a b)
def execDmul (w : VWord) (s : State) : Host.Outcome State Fault Refusal :=
  dword s w false (fun a b _ => fMul fp64 (n4 fp64) (VWord.rm w) a b)
def execDfma (w : VWord) (s : State) : Host.Outcome State Fault Refusal :=
  dword s w true (fun a b c => fFma fp64 (n4 fp64) (VWord.rm w) a b c)

/-! ### Conversions (R355-R357) -/

/-- A slot word of a node (R95). -/
def slotOf (n : NodeInfo) (i : Nat) : DWord := n.slots.getD i 0

/-- Which of the three conversion words. -/
inductive CvtKind | cvt | lg | ln
  deriving DecidableEq, Repr

def isLgElem (n : Nat) : Bool := decide (7 ≤ n ∧ n ≤ 10)

/-- The slots suit the word (R356). -/
def slotsSuit (k : CvtKind) (sr ds : DWord) : Bool :=
  let a := isLgElem (slotElem sr)
  let b := isLgElem (slotElem ds)
  match k with | .cvt => !a && !b | .lg => !a && b | .ln => a && !b

/-- The formats of R249's list: FP32, FP16, BF16 and I32. -/
def nbvElem : Elem → Bool
  | .flt t => t == fp32 || t == fp16 || t == bf16
  | .int w => w == 32
  | .lg _ => false

/-- The rounding of a conversion (R250, R355): an override as written; else the slot's ROUND, which a version's own
toward-zero rounding replaces only where it is 0. -/
def cvtMode (n : Nat) (src dst : Elem) (ovr : Option Nat) (round rnd : Nat) : Rm :=
  match ovr with
  | some m => rmOf m
  | none =>
    match round with
    | 1 => .sr rnd
    | 2 => .rz
    | _ =>
      match src, dst with
      | .flt _, .int 32 => if n ≤ 3 ∧ nbvElem src then .rz else .ne
      | .flt a, .flt b => if n = 1 ∧ a = fp32 ∧ (b = fp16 ∨ b = bf16) then .rz else .ne
      | _, _ => .ne

/-- CVT of one element under a version (R234, R250, R251): N1 and N2 flush subnormals and have their own NaN. -/
def cvtNbv (n : Nat) (src dst : Elem) (mode : Rm) (sat : Bool) (σs σd : Int) (x : Nat) : Nat × Nat :=
  if nbvElem src && nbvElem dst && decide (n ≤ 2) then
    let x := match src with | .flt t => flushCode t (rulesOf n t) x | _ => x
    let (c, f) := cvtLin src dst mode sat σs σd x
    match dst with
    | .flt t => ((if fDecode t c = .nan then (rulesOf n t).nan else flushCode t (rulesOf n t) c), f)
    | _ => (c, f)
  else cvtLin src dst mode sat σs σd x

/-- One element of a conversion word. -/
def cvtElem (k : CvtKind) (n : Nat) (src dst : Elem) (mode : Rm) (sat : Bool) (σs σd : Int) (x : Nat) : Nat × Nat :=
  match k, src, dst with
  | .cvt, _, _ => cvtNbv n src dst mode sat σs σd x
  | .lg, _, .lg t => cvtLg src t mode σs σd x
  | .ln, .lg t, _ => cvtLn t dst mode sat σs σd x
  | _, _, _ => (0, 0)

/-- The next random word of a cluster's generator (R426). -/
def Rng.next (r : Rng) : Rng × Nat :=
  let st := r.st + (r.inc ||| 1)
  ({ r with st := st }, st.toNat / 2 ^ 48)

/-- n random words in order. -/
def Rng.take : Nat → Rng → Rng × List Nat
  | 0, r => (r, [])
  | n + 1, r =>
    let (r, x) := r.next
    let (r, xs) := Rng.take n r
    (r, x :: xs)

/-- The place of a wave among the requests of one ACLK, where the sequencer's is 0: by core member, then by slot (R426). -/
def rngPlace (v : Nat) : Nat := 1 + coreOfWave v % 4 * 48 + v % 48

/-- A request comes in its turn: no later one of this ACLK has been served (R426). -/
def rngTurn (s : State) (k place : Nat) : Bool := !((s.rng k).served.1 == s.aclk && decide (place < (s.rng k).served.2))

/-- A request of n words is served. -/
def serveRng (s : State) (k place n : Nat) : State :=
  { s with rngs := SMap.set Rng.reset k { (Rng.take n (s.rng k)).1 with served := (s.aclk, place) } s.rngs }

/-- The elements a lane converts (R357): k = floor(32 / max(ws, wd)), taking k random words from position j. -/
def cvtLane (f : Rm → Nat → Nat × Nat) (mode : Nat → Rm) (ws wd : Nat) (a : Word) (j : Nat) : Nat × Nat :=
  let k := 32 / max ws wd
  (List.range k).foldl (fun acc i =>
    let r := f (mode (j * k + i)) (bits a.toNat (ws * i) ws)
    (acc.1 + (r.1 % 2 ^ wd) * 2 ^ (wd * i), acc.2 ||| r.2)) (0, 0)

/-- The type in which a conversion reads an inline constant: elements of the source slot's format for ELEM 0-4 (R284). -/
def cvtConst (e : Nat) (k : Nat) (c : Nat) : Word :=
  if c < 0x1B0 then const32 .int c
  else match elemOf e with
    | some (.flt t) => BitVec.ofNat 32 ((List.range k).foldl (fun a i => a + fltConst t (c - 0x1B0) * 2 ^ (t.width * i)) 0)
    | _ => const32 .int c

/-- CVT, CVTLG and CVTLN. -/
def cvtWord (k : CvtKind) (lat : Nat) (w : VWord) (s : State) : Host.Outcome State Fault Refusal :=
  onWave s w.msel fun x =>
    let sr := slotOf x.nd w.slotA
    let ds := slotOf x.nd w.slotB
    let scaled := slotBlock sr == 1 || slotBlock ds == 1
    if !scaled ∧ w.b ≠ 0 then faultWave s x (.of fIllegalInstr (slotSub 2 x.cl.i) x.e)
    else
      let se := (elemOf (slotElem sr)).getD (.int 32)
      let de := (elemOf (slotElem ds)).getD (.int 32)
      let ops : List (OpKind2 × BitVec 9) := [(.dst, w.d), (.src, w.a)] ++ (if scaled then [(.src, w.b)] else [])
      let ne := 32 / max se.width de.width
      let a (l : Nat) : Word :=
        if isConst w.a.toNat then cvtConst (slotElem sr) ne w.a.toNat else src s x w.a l
      let sc (l : Nat) : Word := src s x w.b l
      let bad := if scaled then (lanesOf x.e).filter (fun l => sc l >>> 24 != 0) else []
      let own : Option FaultInfo :=
        if x.e = 0 then none
        else if !slotsSuit k sr ds then some (.of fFormatSlot (16 * w.slotA + w.slotB) x.e)
        else if bad ≠ [] then some (.of fScaleWord 0 (maskOf bad))
        else none
      let ovr : Option Nat := if w.mod.getLsbD 2 then some (w.mod.toNat % 4) else none
      let stoch := ovr.isNone && slotRound ds == 1
      let lanes := lanesOf x.e
      let cl := clusterOfCore (coreOfWave x.v)
      let rnds := (Rng.take (if stoch then lanes.length * ne else 0) (s.rng cl)).2
      let n := nbvOf s x.wv.ctx
      let mode (i : Nat) : Rm := cvtMode n se de ovr (slotRound ds) (rnds.getD i 0)
      let res := lanes.zipIdx.map (fun l =>
        let σ : Int := sext 24 (sc l.1).toNat
        let σs := if slotBlock sr = 1 then σ else 0
        let σd := if slotBlock ds = 1 then σ else 0
        (l.1, cvtLane (fun m e => cvtElem k n se de m (slotSat ds) σs σd e) mode se.width de.width (a l.1) l.2))
      let val (l : Nat) : Word := match res.find? (fun r => r.1 == l) with | some r => BitVec.ofNat 32 r.2.1 | none => 0
      let flags := res.foldl (fun f r => f ||| r.2.2) 0
      checked s x ops lat own
        (if x.e = 0 then s
         else if stoch && !rngTurn s cl (rngPlace x.v) then s.waitIssue
         else
          let s := if stoch then serveRng s cl (rngPlace x.v) (lanes.length * ne) else s
          s.setWave x.v ((x.wv.put s.free lat w.d x.e val).flag flags))

def execCvt (w : VWord) (s : State) : Host.Outcome State Fault Refusal := cvtWord .cvt 4 w s
def execCvtlg (w : VWord) (s : State) : Host.Outcome State Fault Refusal := cvtWord .lg 6 w s
def execCvtln (w : VWord) (s : State) : Host.Outcome State Fault Refusal := cvtWord .ln 6 w s

end Sys2Proof.Machine
end

