-- ==== Sys2Proof/Machine/System.lean ====
section
/-!
DEFINITION. System words of waves and sequencers (R329-R334, R403, R434): TRAP, BRK, SNAPT, GETSR, SETSR.
-/

namespace Sys2Proof.Machine

/-! ### TRAP, BRK, SNAPT -/

/-- TRAP (R330): F_TRAP, with IMM16 and the lowest active lane's A. -/
def execTrap (w : VWord) (s : State) : Host.Outcome State Fault Refusal :=
  onEither s w.msel
    (fun x => checked s x [(.src, w.a)] 0
      (if x.e = 0 then none
       else some { cause := fTrap, sub := w.imm16, va := 0, lanes := x.e, detail := (src s x w.a (lowestLane x.e)).toNat }) s)
    (fun x => checkedSeq s x [(.val, false, w.a)]
      (some { cause := fTrap, sub := w.imm16, va := 0, lanes := 0, detail := (seqRead s x.k x.sq w.a).toNat % 2 ^ 32 }) s)

/-- BRK (R331): the wave or sequencer parks until REPLAY; each BRK writes its own entry. -/
def execBrk (w : VWord) (s : State) : Host.Outcome State Fault Refusal :=
  onEither s w.msel
    (fun x =>
      let s := (s.pageWait x.wv.ctx).report
        (reportOf x.wv.ctx (unitOfCore (coreOfWave x.v)) (x.v % 48) x.cl.h (.of fBreak w.imm16 x.e))
      { s.setWave x.v { x.wv with park := .brk, notReadySince := s.aclk } with issue := .parked })
    (fun x =>
      let s := (s.pageWait x.sq.cons.ctx).report
        (reportOf x.sq.cons.ctx (unitOfCluster x.k) 0xFFFF x.cl.h (.of fBreak w.imm16 0))
      { s.setSeq x.k { x.sq with park := .brk } with issue := .parked })

/-- SNAPT (R332): an event entry; the hub fires the trigger for it where it is armed for the context (R76). -/
def execSnapt (w : VWord) (s : State) : Host.Outcome State Fault Refusal :=
  onEither s w.msel
    (fun x => s.send (reportOf x.wv.ctx (unitOfCore (coreOfWave x.v)) (x.v % 48) x.cl.h (.of fSnaptMark w.imm16 x.e)))
    (fun x => s.send (reportOf x.sq.cons.ctx (unitOfCluster x.k) 0xFFFF x.cl.h (.of fSnaptMark w.imm16 0)))

/-! ### System registers of a wave (R333, R334) -/

/-- Width of an assigned system register of a wave, and whether it is read-only. -/
def waveSr (n : Nat) : Option (Bool × Bool) :=
  if n = 0 then some (false, false)
  else if n ≤ 3 then some (false, true)
  else if 0x10 ≤ n ∧ n ≤ 0x1F then some (false, true)
  else if 0x30 ≤ n ∧ n ≤ 0x33 then some (true, true)
  else none

/-- cb j of a team (R383): bit i is 1 when both counts of its chunk are zero. -/
def chunkBits (t : Team) (j : Nat) : DWord :=
  maskOf ((List.range 64).filter (fun i => SMap.get 0 t.cin (64 * j + i) == 0 && SMap.get 0 t.cout (64 * j + i) == 0))

/-- The value of a wave's system register in a lane (R334). -/
def readSr (s : State) (x : WCtx) (n l : Nat) : DWord :=
  if n = 0 then x.wv.nstat.setWidth 64
  else if n = 1 then BitVec.ofNat 64 x.wv.spcount
  else if n = 2 then match x.wv.np with
    | some t => BitVec.ofNat 64 (2 ^ 31 + (coreEdges s (coreOfWave x.v) - t) % 2 ^ 17)
    | none => 0
  else if n = 3 then match SMap.find? x.wv.pcs l with | some p => BitVec.ofNat 64 p.ret.length | none => 0
  else match teamOf s x.wv with
    | none => 0
    | some t => if n < 0x30 then BitVec.ofNat 64 (SMap.get 0 t.cons.resv (n - 0x10)) else chunkBits t (n - 0x30)

/-- The system registers of a sequencer (R434): 64-bit, read-only. -/
def seqSr (n : Nat) : Option (Bool × Bool) :=
  match n with
  | 0 => some (false, false)
  | 0x40 => some (false, false) | 0x41 => some (false, false)
  | 0x42 => some (true, false) | 0x43 => some (true, false)
  | 0x44 => some (true, false) | 0x45 => some (true, false)
  | 0x46 => some (false, true) | 0x47 => some (false, true)
  | _ => none

/-- Matrix operations issued and not committed (R417, R434). -/
def Seq.pending (q : Seq) : Nat := q.queue.length

def tileState (q : Seq) (t : Nat) : TileSt := SMap.get .empty q.tst t

def readSeqSr (s : State) (x : SCtx) (n : Nat) : DWord :=
  match n with
  | 0 => x.sq.nstat.setWidth 64
  | 0x40 => if x.sq.mctl then 1 else 0
  | 0x41 => x.sq.bind.setWidth 64
  | 0x42 => x.sq.tripos
  | 0x43 => x.sq.trival
  | 0x44 => (s.rng x.k).st
  | 0x45 => (s.rng x.k).inc ||| 1
  | 0x46 => BitVec.ofNat 64 ((List.range 16).foldl (fun a t =>
      a + (if tileState x.sq t = .full then 2 ^ t else 0) + (if tileState x.sq t = .busy then 2 ^ (16 + t) else 0)) 0)
  | 0x47 => BitVec.ofNat 64 (Seq.pending x.sq)
  | _ => 0

def sysreg (reason : Nat) (e : Mask) : Option FaultInfo := some (.of fSysreg reason e)

/-- Issue a GETSR of a sequencer: its token counts up. -/
def Seq.launchGet (q : Seq) (g : QGet) : Seq := { q with tok := bump g.tok 1 q.tok, gets := q.gets ++ [g] }

/-- A GETSR of a sequencer completes (R291, R333). One still in flight to the same register is contested from then on: its
own value or this one may stand at its end (R293). -/
def Seq.endGet (free : Nat) (q : Seq) (g : QGet) : Seq :=
  { q with q := if g.contested && Config.freeBit free (0x30000 + g.q) then q.q else SMap.set 0 g.q g.val q.q
           tok := drop g.tok 1 q.tok
           gets := (q.gets.filter (fun h => h.id != g.id)).map (fun h => if h.q = g.q then { h with contested := true } else h) }

/-- GETSR (R333): group VAR, complete on its token. -/
def execGetsr (w : VWord) (s : State) : Host.Outcome State Fault Refusal :=
  let n := w.imm16
  onEither s w.msel
    (fun x =>
      let wide : Bool := match waveSr n with | some (b, _) => b | none => false
      let own : Option FaultInfo :=
        if x.e = 0 then none
        else match waveSr n with
          | none => sysreg 1 x.e
          | some _ => if wide ∧ w.d.toNat % 2 = 1 then sysreg 4 x.e else none
      checked s x ([(.dst, w.d)] ++ (if wide ∧ w.d ≠ 0x0FF ∧ w.d ≠ 0x13F then [(OpKind2.dst, w.d + 1)] else [])) 1000 own
        (if x.e = 0 then s
         else launchRegs s x w.token
           (regWrites w.d x.e (fun l => (readSr s x n l).setWidth 32) ++
             (if wide then regWrites (w.d + 1) x.e (fun l => (readSr s x n l).extractLsb' 32 32) else [])) x.wv))
    (fun x =>
      checkedSeq s x [(.q, true, w.d)] (match seqSr n with | none => sysreg 1 0 | some _ => none)
        (match tokenOf w.token with
         | none => s
         | some t =>
           if 63 ≤ SMap.get 0 x.sq.tok t then s.waitIssue
           else (s.setSeq x.k (x.sq.launchGet { id := s.nextId, tok := t, q := w.d.toNat, val := readSeqSr s x n,
                                                contested := false })).fresh))

/-- Some program of the context other than cluster k's, running or saved, holds a key (R405). -/
def keyHeld (s : State) (c k : Nat) (key : Word) : Bool :=
  s.seqs.any (fun q => q.1 != k && q.2.cons.ctx == c && q.2.bind == key) ||
    s.savedSeqs.any (fun q => q.cons.ctx == c && q.bind == key)

/-- The group a program is in: it has formed (R429). -/
def Seq.standing (q : Seq) : Option Grp :=
  match q.grp with
  | some g => if g.formed then some g else none
  | none => none

/-- A program's name: the record it runs. -/
def Seq.prog (q : Seq) : Nat := match q.cons.recs with | r :: _ => r.id | [] => 0

/-- The cluster that runs a program. -/
def progAt (s : State) (p : Nat) : Option Nat :=
  match List.find? (fun q => q.2.prog == p) s.seqs with | some q => some q.1 | none => none

/-- The group a program's next word is in: once formed and until it leaves (R429). -/
def Seq.inGroup (q : Seq) : Option Grp := if q.queue.any (fun o => o.1 == .mleave) then none else q.standing

/-- The members of a program's group. -/
def members (s : State) (q : Seq) : List (Nat × Seq) :=
  match q.grp with
  | none => []
  | some g => s.seqs.filter (fun p => p.2.cons.ctx == q.cons.ctx &&
      (match p.2.grp with | some h => h.key == g.key && h.formed | none => false))

/-- The member of a program's group at a place (R430). -/
def memberAt (s : State) (q : Seq) (row col : Nat) : Option Nat :=
  match (members s q).find? (fun p => match p.2.grp with | some h => h.row == row && h.col == col | none => false) with
  | some p => some p.1
  | none => none

/-- The cluster whose tile serves as A or B of a program's MMA, and whose accumulator a .RED one adds to (R430), for an
operation issued in group g. -/
def ownerA (s : State) (k : Nat) (q : Seq) (g : Option Grp) : Nat :=
  match g with | some g => if g.shA then (memberAt s q g.row 0).getD k else k | none => k
def ownerB (s : State) (k : Nat) (q : Seq) (g : Option Grp) : Nat :=
  match g with | some g => if g.shB then (memberAt s q 0 g.col).getD k else k | none => k
def ownerRed (s : State) (k : Nat) (q : Seq) (g : Option Grp) : Nat :=
  match g with | some g => (memberAt s q g.row 0).getD k | none => k

/-- The name of the program on a cluster, for the program q of cluster k. -/
def progOf (s : State) (k : Nat) (q : Seq) (j : Nat) : Nat :=
  if j = k then q.prog else match SMap.find? s.seqs j with | some p => p.prog | none => q.prog

/-- The owners of an operation that a program issues now (R430). -/
def ownersOf (s : State) (k : Nat) (q : Seq) : Owners :=
  { a := progOf s k q (ownerA s k q q.inGroup), b := progOf s k q (ownerB s k q q.inGroup), red := progOf s k q (ownerRed s k q q.inGroup) }

/-- The cluster of an owner of an operation of cluster k's program; none once that program has exited. -/
def ownerAt (s : State) (k : Nat) (q : Seq) (p : Nat) : Option Nat := if p = q.prog then some k else progAt s p

/-- A sub-tile of cluster k is CLEAR once its program's queued operations have committed (R417, R421). DEDUCED, log 15. -/
def clearAfter (q : Seq) (m : Nat) : Bool :=
  q.queue.foldl (fun c o => match o.1 with
    | .mzero z => if bit z m then true else c
    | .mma sub _ _ _ _ _ red _ _ _ _ _ own => if sub = m ∧ (!red ∨ own.red = q.prog) then false else c
    | _ => c) (SMap.get Sub.reset q.subs m).clear

/-- Every sub-tile is CLEAR (R424): those of the operations issued so far. DEDUCED, log 15. -/
def allClear (q : Seq) : Bool := (List.range 9).all (clearAfter q)

/-- F_MATRIX_STATE: DETAIL bytes 0-3 hold the operand that failed (R432). -/
def matrixState (reason : Nat) (v : Nat) (e : Mask) : FaultInfo :=
  { cause := fMatrixState, sub := reason, va := 0, lanes := e, detail := v % 2 ^ 32 }

/-- The effect of SETSR in a sequencer, or its fault (R403, R405, R424). -/
def setSeqSr (s : State) (x : SCtx) (n : Nat) (v : DWord) : Sum FaultInfo State :=
  match seqSr n with
  | none => .inl (.of fSysreg 1 0)
  | some (wide, ro) =>
    if ro then .inl (.of fSysreg 2 0)
    else if !wide ∧ v.toNat ≥ 2 ^ 32 then .inl (.of fSysreg 3 0)
    else match n with
      | 0 => if v.toNat ≥ 64 then .inl (.of fSysreg 3 0) else .inr (s.setSeq x.k { x.sq with nstat := v.setWidth 32 })
      | 0x40 =>
        if v.toNat ≥ 2 then .inl (.of fSysreg 3 0)
        else if !allClear x.sq then .inl (matrixState 5 v.toNat 0)
        else .inr (s.setSeq x.k { x.sq with mctl := v.getLsbD 0 })
      | 0x41 =>
        if v ≠ 0 ∧ keyHeld s x.sq.cons.ctx x.k (v.setWidth 32) then .inl (matrixState 8 v.toNat 0)
        else .inr (s.setSeq x.k { x.sq with bind := v.setWidth 32 })
      | 0x42 => if v.toNat ≥ 2 ^ 48 then .inl (.of fSysreg 3 0) else .inr (s.setSeq x.k { x.sq with tripos := v })
      | 0x43 => .inr (s.setSeq x.k { x.sq with trival := v })
      | 0x44 => .inr { s with rngs := SMap.set Rng.reset x.k { s.rng x.k with st := v } s.rngs }
      | _ => .inr { s with rngs := SMap.set Rng.reset x.k { s.rng x.k with inc := v ||| 1 } s.rngs }

/-- SETSR (R333, R334, R403). -/
def execSetsr (w : VWord) (s : State) : Host.Outcome State Fault Refusal :=
  let n := w.imm16
  onEither s w.msel
    (fun x =>
      let v := readUni s x.v x.wv w.a
      let own : Option FaultInfo :=
        match waveSr n with
        | none => sysreg 1 x.e
        | some (_, ro) => if ro then sysreg 2 x.e else if v.toNat ≥ 64 then sysreg 3 x.e else none
      checked s x [(.uni, w.a)] 0 own (s.setWave x.v { x.wv with nstat := v }))
    (fun x =>
      checkedSeq s x [(.val, false, w.a)] none
        (match setSeqSr s x n (seqRead s x.k x.sq w.a) with
        | .inl f => faultSeq s x f
        | .inr t => t))

end Sys2Proof.Machine
end

