-- ==== Sys2Proof/Machine/Tiles.lean ====
section
/-!
DEFINITION. Tile words of waves (R405-R408, R411-R416): TFEED, TTAKE, TLD, TST, the time limit of a key, and the commit
of every long operation of a wave (R179, R391, R414, R415).
-/

namespace Sys2Proof.Machine

/-! ### Programs, groups and tiles -/

/-- The running program of a context that holds a key (R405). -/
def keyProg (s : State) (c : Nat) (key : Word) : Option Nat :=
  match List.find? (fun q => q.2.cons.ctx == c && q.2.bind == key) s.seqs with | some q => some q.1 | none => none

def keySaved (s : State) (c : Nat) (key : Word) : Bool := s.savedSeqs.any (fun q => q.cons.ctx == c && q.bind == key)

def tileKey (t o : Nat) : Nat := t * 5120 + o
def tileByte (q : Seq) (t o : Nat) : Byte := SMap.get 0 q.tiles (tileKey t o)
def setTile (s : State) (k t : Nat) (x : TileSt) : State :=
  { s with seqs := SMap.modify k (fun q => { q with tst := SMap.set .empty t x q.tst, rel := SMap.erase t q.rel }) s.seqs }

/-- An operation that has issued still reads a tile (R408): a TST, or an MMA of any program (tile A is 16 where the
latch supplies it). -/
def tileRead (s : State) (k t : Nat) : Bool :=
  s.seqs.any (fun p => p.2.queue.any (fun o => match o.1 with
    | .mma _ ta tb _ _ _ _ _ _ _ _ _ own =>
      (ta == t && ownerAt s p.1 p.2 own.a == some k) || (tb == t && ownerAt s p.1 p.2 own.b == some k)
    | _ => false)) ||
  s.longs.any (fun l => match l.kind with
    | .tst p tile _ _ _ _ => tile == t && progAt s p == some k
    | _ => false)

/-- The members that read a shared tile of a member (R430), or the program alone. -/
def readersOf (s : State) (k : Nat) (q : Seq) (t : Nat) : List Nat :=
  match q.standing with
  | none => [k]
  | some g =>
    let ms := members s q
    if t < 8 ∧ g.shA ∧ g.col = 0 then
      (ms.filter (fun p => match p.2.grp with | some h => h.row == g.row | none => false)).map (·.1)
    else if 8 ≤ t ∧ g.shB ∧ g.row = 0 then
      (ms.filter (fun p => match p.2.grp with | some h => h.col == g.col | none => false)).map (·.1)
    else [k]

/-- Member `by_` releases tile t of cluster k (R407, R430): EMPTY once every reader has released it. -/
def releaseTile (s : State) (by_ k t : Nat) : State :=
  match SMap.find? s.seqs k with
  | none => s
  | some q =>
    if tileState q t ≠ .full then s
    else
      let rel := by_ :: SMap.get [] q.rel t
      if (readersOf s k q t).all (fun m => rel.contains m) then setTile s k t .empty
      else { s with seqs := SMap.modify k (fun q => { q with rel := SMap.insert t rel q.rel }) s.seqs }

/-! ### Waiting for a key -/

/-- F_MATRIX_STATE of a tile word; DETAIL holds the operand that failed (R432). -/
def tileFault (reason v : Nat) (e : Mask) : FaultInfo := matrixState reason v e

/-- Find the program of a key: fault for key 0 (reason 1), wait while no program holds it (R405), else go on. -/
def withKey (s : State) (x : WCtx) (key : Word) (k : Nat → Seq → State) : State :=
  let note (o : Option (Nat × Word × Mask)) : State := s.setWave x.v { x.wv with keySince := o }
  if key = 0 then faultWave s x (tileFault 1 0 x.e)
  else match keyProg s x.wv.ctx key with
    | some c =>
      match SMap.find? s.seqs c with
      | some q => if x.wv.keySince = none then k c q else (note none).waitIssue
      | none => s.waitIssue
    | none =>
      if keySaved s x.wv.ctx key then (note none).waitIssue
      else match x.wv.keySince with
        | some _ => s.waitIssue
        | none => (note (some (coreEdges s (coreOfWave x.v), key, x.e))).waitIssue

/-- A wave's word has waited 65,536 edges of its core for a key that no program holds. -/
def keyLate (s : State) (v : Nat) (wv : Wave) : Option (Word × Mask) :=
  match wv.keySince with
  | some (since, key, e) =>
    if since + 65536 ≤ coreEdges s (coreOfWave v) ∧ (s.ctx wv.ctx).st = .active ∧ !wv.stopped ∧ keyProg s wv.ctx key = none ∧
        !keySaved s wv.ctx key then some (key, e) else none
  | none => none

/-- The words that have waited too long for their key fault, and their waves stop (R69, R405). -/
def keyTimeouts (s : State) : State :=
  s.waves.foldl (fun s w =>
    match keyLate s w.1 w.2 with
    | some (key, e) =>
      (s.setWave w.1 { w.2 with keySince := none, stopped := true }).fatal
        (reportOf w.2.ctx (unitOfCore (coreOfWave w.1)) (w.1 % 48) (pcOfWave w.2) (tileFault 1 key.toNat e))
    | none => s) s

/-- TILE_KEY_TIMEOUT (R405).
DEDUCED, log 36: every step faults what has waited too long by then. -/
def execTileKeyTimeout (s : State) : Host.Outcome State Fault Refusal := .next (keyTimeouts s)

/-! ### TFEED and TTAKE (R411, R412) -/

/-- Lanes whose tile offset, or element index for .A, is out of range or misaligned (reason 2). -/
def badOffsets (x : WCtx) (acc : Bool) (o : Nat → Nat) : List Nat :=
  (lanesOf x.e).filter (fun l => if acc then decide (9216 ≤ o l) else o l % 4 != 0 || decide (5120 ≤ o l))

/-- Sub-tile of an accumulator element index (R412, R418). -/
def subOfElem (i : Nat) : Nat := i / 96 / 32 * 3 + i % 96 / 32

/-- A matrix operation that touches a sub-tile. -/
def MOp.touches (o : MOp) (m : Nat) : Bool :=
  match o with
  | .mma sub _ _ _ _ _ _ _ _ _ _ _ _ => sub == m
  | .mzero k => bit k m
  | .mscale k _ _ => bit k m
  | .mdrain _ sub _ _ _ _ => sub == m
  | _ => false

/-- Some uncommitted operation touches a sub-tile of cluster k: its own, or a .RED one of its row (R412, R430). -/
def subBusy (s : State) (k m : Nat) : Bool :=
  s.seqs.any (fun p => p.2.queue.any (fun o => match o.1 with
    | .mma sub _ _ _ _ _ red _ _ _ _ _ own => sub == m && (if red then ownerAt s p.1 p.2 own.red == some k else p.1 == k)
    | o => p.1 == k && o.touches m))

/-- An accumulator element's key. -/
def accKey (r c : Nat) : Nat := r * 96 + c

/-- TFEED: words into a tile, or elements into the accumulator. -/
def execTfeed (w : VWord) (s : State) : Host.Outcome State Fault Refusal :=
  let acc := w.mod0
  let done := w.mod.getLsbD 1
  onWave s w.msel fun x =>
    let o (l : Nat) : Nat := (src s x w.b l).toNat
    let dat (j l : Nat) : Word := readV s x.wv (w.a.toNat + j) l
    let bads := badOffsets x acc o
    let scales := (lanesOf x.e).filter (fun l => !acc && decide (4096 ≤ o l) && dat 0 l >>> 24 != 0)
    let own : Option FaultInfo :=
      match bads with
      | l :: _ => some (tileFault 2 (o l) (maskOf bads))
      | [] => if scales ≠ [] then some (.of fScaleWord 0 (maskOf scales)) else none
    checked s x [(.uni, w.d), (.vSrc (if acc then 3 else 1), w.a), (.src, w.b)] 1000 own
      (if x.e = 0 then s
       else if tokenFull x.wv w.token then s.waitIssue
       else withKey s x (readUni s x.v x.wv w.d) fun k q =>
        if acc then
          if (lanesOf x.e).any (fun l => subBusy s k (subOfElem (o l))) then s.waitIssue
          else if (lanesOf x.e).any (fun l => q.bad.contains (16 + subOfElem (o l))) then faultWave s x (.of fEcc 0 x.e)
          else
            match (lanesOf x.e).find? (fun l => (SMap.get Sub.reset q.subs (subOfElem (o l))).tri.isSome) with
            | some l => faultWave s x (tileFault 4 (o l) x.e)
            | none =>
              let q := (lanesOf x.e).foldl (fun (q : Seq) l =>
                let m := subOfElem (o l)
                let e : AccE := { sum := (dat 2 l ++ dat 1 l ++ dat 0 l : BitVec 96).signExtend 128, sat := false, nar := false, count := 0 }
                { q with acc := SMap.set AccE.zero (o l) e q.acc
                         subs := SMap.set Sub.reset m { SMap.get Sub.reset q.subs m with clear := false, fedA := true } q.subs }) q
              launchStore (s.setSeq k q) x.v w.token
        else if tileState q w.tile ≠ .empty ∨ tileRead s k w.tile then s.waitIssue
        else if q.bad.contains w.tile then faultWave s x (.of fEcc 0 x.e)
        else
          let q := (lanesOf x.e).foldl (fun (q : Seq) l =>
            (bytesOf 4 (dat 0 l).toNat).zipIdx.foldl (fun (q : Seq) b =>
              { q with tiles := SMap.set 0 (tileKey w.tile (o l + b.2)) b.1 q.tiles }) q) q
          let s := s.setSeq k q
          launchStore (if done then setTile s k w.tile .full else s) x.v w.token)

/-- The three SUM words and the flags word of an element as TTAKE.A reads it (R412). -/
def accWords (e : AccE) (j : Nat) : Word :=
  let out := decide (e.sum.toInt < -(2 : Int) ^ 95 ∨ (2 : Int) ^ 95 ≤ e.sum.toInt)
  match j with
  | 0 => e.sum.extractLsb' 0 32
  | 1 => e.sum.extractLsb' 32 32
  | 2 => e.sum.extractLsb' 64 32
  | _ => BitVec.ofNat 32 (e.sat.toNat + 2 * e.nar.toNat + 4 * out.toNat)

/-- TTAKE: words from a FULL tile, or elements of the accumulator. -/
def execTtake (w : VWord) (s : State) : Host.Outcome State Fault Refusal :=
  let acc := w.mod0
  let done := w.mod.getLsbD 1
  onWave s w.msel fun x =>
    let o (l : Nat) : Nat := (src s x w.b l).toNat
    let bads := badOffsets x acc o
    let own : Option FaultInfo := match bads with
      | l :: _ => some (tileFault 2 (o l) (maskOf bads))
      | [] => none
    checked s x [(.vDst (if acc then 4 else 1) 1, w.d), (.uni, w.a), (.src, w.b)] 1000 own
      (if x.e = 0 then s
       else if tokenFull x.wv w.token then s.waitIssue
       else withKey s x (readUni s x.v x.wv w.a) fun k q =>
        if acc then
          if (lanesOf x.e).any (fun l => subBusy s k (subOfElem (o l))) then s.waitIssue
          else if (lanesOf x.e).any (fun l => q.bad.contains (16 + subOfElem (o l))) then faultWave s x (.of fEcc 0 x.e)
          else launchOp s x.v w.token .regs ((List.range 4).flatMap (fun j =>
            regWrites (w.d + BitVec.ofNat 9 j) x.e (fun l => accWords (SMap.get AccE.zero q.acc (o l)) j)))
        else if tileState q w.tile ≠ .full then s.waitIssue
        else if q.bad.contains w.tile then faultWave s x (.of fEcc 0 x.e)
        else
          let val (l : Nat) : Word := BitVec.ofNat 32 (natOfBytes ((List.range 4).map (fun j => tileByte q w.tile (o l + j))))
          let s' := if done then releaseTile s k k w.tile else s
          launchOp s' x.v w.token .regs (regWrites w.d x.e val))

/-! ### TLD and TST (R413-R415) -/

/-- The fields of a layout word. -/
def layPitch (y : Nat) : Nat := y % 65536
def layRoww (y : Nat) : Nat := bits y 16 6
def laySwz (y : Nat) : Swz := swzOf (bits y 22 3) (bits y 25 2) (bits y 27 5)

/-- How a slot lays its rows out in memory (R414): 1 interleaved scales, 2 separate scales, 0 a plain copy. -/
def slotRows (sl : DWord) : Nat :=
  if 5 ≤ slotElem sl ∧ slotElem sl ≤ 10 ∧ slotBlock sl = 1 then (if slotScale sl = 1 then 1 else if slotScale sl = 2 then 2 else 0)
  else 0

/-- Width and row length K of an operand format (R406). -/
def opWidth (sl : DWord) : Nat := match elemOf (slotElem sl) with | some e => e.width | none => 32
def opK (sl : DWord) : Nat :=
  match slotElem sl with | 5 => 256 | 6 => 128 | 7 => 128 | 8 => 128 | 9 => 64 | 10 => 64 | _ => 0

/-- Whether ROWW is what the slot asks for. -/
def rowwOk (sl : Option DWord) (n : Nat) : Bool :=
  match sl with
  | none => decide (n ≤ 32)
  | some sl =>
    match slotRows sl with
    | 1 => n == opK sl / 32 * (1 + opWidth sl)
    | 2 => n == opK sl * opWidth sl / 32
    | _ => decide (n ≤ 32)

/-- F_TENSOR_DESC reason 7 (R413). -/
def layoutBad (y a : Nat) (loc : Bool) (sl : Option DWord) : Bool :=
  let z := laySwz y
  swzBad (bits y 22 3) (bits y 25 2) (bits y 27 5) || layRoww y == 0 || layPitch y % 4 != 0 ||
    (z.on && !loc) || (z.on && decide (z.s < z.u + z.b)) || a % 4 != 0 || (z.on && a % 2 ^ z.s != 0) || !rowwOk sl (layRoww y)

/-- The address of word j of memory row r. -/
def rowAddr (y a r j : Nat) : Nat := a + (laySwz y).place (r * layPitch y + 4 * j)

/-- Every word of a panel, row by row. -/
def rowAddrs (y a : Nat) : List Nat := (List.range 32).flatMap (fun r => (List.range (layRoww y)).map (rowAddr y a r))

/-- The separate scale words of a panel (R414). -/
def scaleAddrs (sl : DWord) (y a : Nat) : List Nat :=
  if slotRows sl = 2 then (List.range (opK sl)).map (fun i => a + 32 * layPitch y + 4 * i) else []

/-- The extent of a list of words from a on. -/
def wordExtent (glob : Bool) (a : Nat) (ws : List Nat) : Bool × Nat × Nat := (glob, a, ws.foldl (fun m x => max m (x + 4)) a)

/-- TLD and TST: one act for the word, with the operands of the lowest lane. -/
def panelWord (w : VWord) (s : State) (store : Bool) (extent : WCtx → Nat → Nat → Bool × Nat × Nat)
    (sl : WCtx → Option DWord) (act : WCtx → Team → Nat → Seq → Nat → Nat → State) : Host.Outcome State Fault Refusal :=
  let loc := w.mod0
  onWave s w.msel fun x =>
    match teamOf s x.wv with
    | none => s
    | some t =>
      let l := lowestLane x.e
      let a := if loc then (src s x w.a l).toNat else (readPair s x.v x.wv w.a l).toNat
      let y := (readUni s x.v x.wv w.b).toNat
      let ext := extent x a y
      let acc (at_ n : Nat) : LaneAcc := { lane := l, addr := at_, size := n, align := 0, glob := !loc, write := store }
      let own : Option FaultInfo :=
        if x.e = 0 then none
        else if layoutBad y a loc (sl x) then some (.of fTensorDesc 7 x.e)
        else addrFault t (regionSize x.nd) [acc a (ext.2.2 - a), acc (ext.2.2 - 1) 1]
      checked s x [(.uni, w.d), (if loc then .src else .srcN 2, w.a), (.uni, w.b)] 1000 own
        (if x.e = 0 then s
         else if tokenFull x.wv w.token then s.waitIssue
         else withKey s x (readUni s x.v x.wv w.d) fun k q => act x t k q a y)

def execTld (w : VWord) (s : State) : Host.Outcome State Fault Refusal :=
  let sl (x : WCtx) : DWord := slotOf x.nd w.slot
  let ext (x : WCtx) (a y : Nat) : Bool × Nat × Nat := wordExtent (!w.mod0) a (rowAddrs y a ++ scaleAddrs (sl x) y a)
  panelWord w s false ext (fun x => some (sl x)) fun x t k q a y =>
    match freeLocks t with
    | [] => s.waitIssue
    | i :: _ =>
      if tileState q w.tile ≠ .empty ∨ tileRead s k w.tile then s.waitIssue
      else
        let s := setTile (s.setTeam x.wv.team (takeLock t i false (ext x a y) false)) k w.tile .busy
        launchLong s x w.token (.tld (Seq.prog q) w.tile a y (!w.mod0) (sl x)) [i] [] []

def execTst (w : VWord) (s : State) : Host.Outcome State Fault Refusal :=
  let ext (_ : WCtx) (a y : Nat) : Bool × Nat × Nat := wordExtent (!w.mod0) a (rowAddrs y a)
  panelWord w s true ext (fun _ => none) fun x t _ q a y =>
    match freeLocks t with
    | [] => s.waitIssue
    | i :: _ =>
      if tileState q w.tile ≠ .full then s.waitIssue
      else
        let s := s.setTeam x.wv.team (takeLock t i true (ext x a y) false)
        launchLong s x w.token (.tst (Seq.prog q) w.tile a y (!w.mod0) (w.mod.getLsbD 1)) [i] [] []

/-! ### Commit (R179, R391, R414, R415) -/

/-- The end of a long operation: entries and counts are freed, and its token completes. -/
def longDone (s : State) (l : LongOp) : State :=
  let s := { s with
    longs := s.longs.filter (fun m => m.id != l.id)
    teams := SMap.modify l.team (fun t =>
      { t with locks := l.locks.foldl (fun m i => SMap.erase i m) t.locks
               cin := lower t.cin l.inward, cout := lower t.cout l.outward }) s.teams }
  completeOp s l.wave l.op

/-- A fatal fault of a long operation (R392, R416). -/
def longFault (s : State) (l : LongOp) (f : FaultInfo) : State :=
  s.fatal (reportOf l.ctx (unitOfCore (coreOfWave l.wave)) (l.wave % 48) l.pc { f with lanes := 0 })

def parkLong (s : State) (l : LongOp) : State :=
  let ls : List LongOp := s.longs.map (fun m => if m.id = l.id then { m with park := .xlat } else m)
  { s with longs := ls }

/-- Translate what a long operation reaches: go on, wait for walks, park, or fault (R392). -/
def longGate (s : State) (l : LongOp) (rs : List Req) (k : List Nat → State) : State :=
  match gate s none (stackOfCore (coreOfWave l.wave)) l.ctx rs (askOp l.id) with
  | .go pas => k pas
  | .wait ws => ws.foldl askWalk s
  | .park ps =>
    (parkLong s l).logPages l.ctx
      (unitOfCore (coreOfWave l.wave)) (l.wave % 48) l.pc (ps.map (fun p => (p.1, p.2.1, p.2.2.1, 0))) (askOp l.id)
  | .fatal f => longFault s l { f with detail := 0 }

def readsOf (as : List Nat) (n : Nat) (acc : Acc) : List Req := as.map (fun a => { lane := 0, va := a, size := n, acc := acc })

/-- Bytes at places of a space: pieces of n bytes. -/
def readPieces (s : State) (t : Team) (glob : Bool) (as : List Nat) (n : Nat) : State × List (List Byte) :=
  if glob then as.foldl (fun (a : State × List (List Byte)) pa =>
    let (s', bs) := homeRead a.1 false pa n
    (s', a.2 ++ [bs])) (s, [])
  else (s, as.map (fun a => localRead s t a n))

def writePieces (s : State) (team : Nat) (glob : Bool) (ws : List (Nat × List Byte)) : State :=
  ws.foldl (fun s w => if glob then asyncStore s w.1 w.2 else localWrite s team w.1 w.2) s

/-- The commit of a TCOPY: every element, in ascending dense offset. -/
def commitTcopy (s : State) (l : LongOp) (t : Team) (d : List Nat) : State :=
  let n := 2 ^ dElog d
  let es := dElements d
  let str := es.map (·.1)
  let den := es.map (·.2)
  let (from_, to_) := if dDir d = 1 then (den, str) else (str, den)
  let fg := dDir d != 1
  let tg := dDir d != 0
  let rs := (if fg then readsOf from_ n .read else []) ++ (if tg then readsOf to_ n .write else [])
  longGate s l rs fun pas =>
    let src := if fg then pas.take es.length else from_
    let dst := if tg then (if fg then pas.drop es.length else pas) else to_
    let (s, bs) := readPieces s t fg src n
    longDone (writePieces s l.team tg (dst.zip bs)) l

/-- A tile and its side-array written whole (R414): an error in it is gone. -/
def writeTile (q : Seq) (t : Nat) (bs : List (Nat × Byte)) : Seq :=
  { q with bad := q.bad.filter (· != t)
           tiles := bs.foldl (fun m b => SMap.set 0 (tileKey t b.1) b.2 m) (q.tiles.filter (fun e => e.1 / 5120 != t)) }

/-- The tile bytes and the scale words a panel's words spell (R414). -/
def panelBytes (sl : DWord) (y : Nat) (rows scales : List (List Byte)) : List (Nat × Byte) × List (List Byte) :=
  let n := layRoww y
  let w := opWidth sl
  let row (r : Nat) : List (List Byte) := (rows.drop (r * n)).take n
  let put (at_ : Nat) (ws : List (List Byte)) : List (Nat × Byte) := (ws.flatMap id).zipIdx.map (fun b => (at_ + b.2, b.1))
  let g := opK sl / 32
  match slotRows sl with
  | 1 =>
    let sc (r : Nat) : List (List Byte) := (List.range g).map (fun i => (row r).getD (i * (1 + w)) [])
    ((List.range 32).flatMap (fun r =>
      put (128 * r) ((List.range g).flatMap (fun i => ((row r).drop (i * (1 + w) + 1)).take w)) ++ put (4096 + 32 * r) (sc r)),
     (List.range 32).flatMap sc)
  | 2 =>
    ((List.range 32).flatMap (fun r => put (128 * r) (row r) ++ put (4096 + 32 * r) ((scales.drop (g * r)).take g)), scales)
  | _ => ((List.range 32).flatMap (fun r => put (128 * r) (row r)), [])

def commitTld (s : State) (l : LongOp) (t : Team) (k tile a y : Nat) (glob : Bool) (sl : DWord) : State :=
  let ra := rowAddrs y a
  let sa := scaleAddrs sl y a
  longGate s l (if glob then readsOf (ra ++ sa) 4 .read else []) fun pas =>
    let (s, ws) := readPieces s t glob (if glob then pas else ra ++ sa) 4
    let (bs, scs) := panelBytes sl y (ws.take ra.length) (ws.drop ra.length)
    if scs.any (fun b => b.getD 3 0 != 0) then longFault s l (.of fScaleWord 0 0)
    else
      let s := { s with seqs := SMap.modify k (fun q => writeTile q tile bs) s.seqs }
      longDone (setTile s k tile .full) l

def commitTst (s : State) (l : LongOp) (k : Nat) (q : Seq) (tile a y : Nat) (glob done : Bool) : State :=
  let ra := rowAddrs y a
  if q.bad.contains tile then longFault s l (.of fEcc 0 0)
  else longGate s l (if glob then readsOf ra 4 .write else []) fun pas =>
    let words := (List.range 32).flatMap (fun r => (List.range (layRoww y)).map (fun j =>
      (List.range 4).map (fun b => tileByte q tile (128 * r + 4 * j + b))))
    let s := writePieces s l.team glob ((if glob then pas else ra).zip words)
    let s := if done then releaseTile s k k tile else s
    longDone s l

/-- LONG_OPERATION_COMMIT (R179): the whole result of a long operation of a wave becomes visible, unless it parks or
faults. One that waits for a pre-empted program, or is parked or captured, does not commit.
DEDUCED, log 13: translated as it commits, unsafe for tables that change meanwhile. -/
def execLongOperationCommit (i : Nat) (s : State) : Host.Outcome State Fault Refusal :=
  match s.longs.find? (fun l => l.id == i) with
  | none => .next s
  | some l =>
    match SMap.find? s.teams l.team with
    | none => .next s
    | some t =>
      if l.park != .no || l.captured || !ctxRuns s l.ctx || !stackRuns s (stackOfCore (coreOfWave l.wave)) then .next s
      else match l.kind with
        | .tcopy d => .next (commitTcopy s l t d)
        | .tld p tile a y glob sl =>
          match progAt s p with
          | some k => .next (commitTld s l t k tile a y glob sl)
          | none => .next s
        | .tst p tile a y glob done =>
          match progAt s p with
          | some k =>
            match SMap.find? s.seqs k with
            | some q => .next (commitTst s l k q tile a y glob done)
            | none => .next s
          | none => .next s

end Sys2Proof.Machine
end

