-- ==== Sys2Proof/Machine/CoreEvents.lean ====
section
/-!
DEFINITION. Events of the shader cores: clause selection (R151), completions (R167, R291), bounds (R171, R172), firn
parking (R163-R165), wake-ups (R218, R318) and page walks (R193-R198).
-/

namespace Sys2Proof.Machine

/-- CLAUSE_SELECT (R151): free port p of core g takes a clause. -/
def execClauseSelect (g p : Nat) (s : State) : Host.Outcome State Fault Refusal := .next (selectClause s g p)

/-- A word of wave v still enters its records in a FIFO (R253). -/
def entering (s : State) (v : Nat) : Bool := (s.vq (coreOfWave v)).hold.any (fun h => h.2 == v)

/-- TOKEN_COMPLETE (R291, R400): operation i of a wave completes, on an edge its core receives (R32), when nothing of it is
left to do: a register result or a store; a copy all of whose chunks are released, whose global writes are then performed at
their homes (R384). While a word of the wave enters its records, no store of it completes: one may be its own. Texture, window and long operations complete by their own events, and a sequencer's operations at their commit, but for its GETSR. -/
def execTokenComplete (u : Actor) (i : Nat) (s : State) : Host.Outcome State Fault Refusal :=
  match u with
  | .wave v =>
    match SMap.find? s.waves v with
    | none => .next s
    | some wv =>
      match wv.ops.find? (fun o => o.id == i) with
      | none => .next s
      | some o =>
        if coreEdges s (coreOfWave v) < o.earliest ∨ !edgeHere s (coreOfWave v) then .next s
        else match o.kind with
          | .regs => .next (completeOp s v i)
          | .store => if entering s v then .next s else .next (completeOp s v i)
          | .copy true [] _ _ => .next (completeOp s v i)
          | .copy false [] bs _ =>
            if bs.any (fun b => pathWaits s (coreOfWave v / 96) (homeEnd b.1) || lineWaits s none false (b.1 / 128)) then .next s
            else
              let t := completeOp (asyncWrites s bs) v i
              match homeLoss s bs with
              | some c => .next (t.fatal (reportOf wv.ctx (unitOfCore (coreOfWave v)) (v % 48) (pcOfWave wv) (.of c 0 (lanesOfWave wv))))
              | none => .next t
          | _ => .next s
  | .seq k =>
    match SMap.find? s.seqs k with
    | none => .next s
    | some q =>
      match q.gets.find? (fun g => g.id == i) with
      | some g => .next (s.setSeq k (q.endGet s.free g))
      | none => .next s
  | .mor _ => .next s

/-- QWIN_ENTRY_READY (R167): the oldest push of access wave v has its data: the entries of the compute wave are written
and READY, and pending pops are served, on an edge its core receives (R32). -/
def execQwinEntryReady (v : Nat) (s : State) : Host.Outcome State Fault Refusal :=
  match SMap.find? s.waves v with
  | none => .next s
  | some aw =>
    match aw.ops.find? (fun o => o.isPush), aw.pair with
    | some o, some p =>
      match SMap.find? s.waves p with
      | none => .next s
      | some cw =>
        if !edgeHere s (coreOfWave p) then .next s else
        let slots := match o.kind with | .push sl => sl | _ => []
        let cw := o.regs.foldl (fun (w : Wave) r => { w with v := SMap.set 0 r.key r.val w.v }) cw
        let cw := { cw with qready := slots.foldl (fun m e => SMap.insert e 1 m) cw.qready }
        let cw := match nodeOf s cw.ctx cw.img cw.node with
          | some nd => servePops s nd cw.qc cw
          | none => cw
        .next (completeOp (s.setWave p cw) v o.id)
    | _, _ => .next s

/-! ### Bounds -/

/-- SAFEPOINT_BOUND (R171): a wave whose next word would be the 4,097th is not issued and faults. -/
def execSafepointBound (s : State) : Host.Outcome State Fault Refusal :=
  .next (s.waves.foldl (fun s w =>
    match wctxOf s w.1 (·.run) with
    | some x =>
      if x.wv.stopped = false ∧ x.wv.spcount ≥ 4096 ∧ x.cl.i < x.cl.count ∧ x.cl.run ≠ 0 ∧ ctxRuns s x.wv.ctx then
        { boundFault s x with issue := s.issue }
      else s
    | none => s) s)

/-- NP_BOUND (R172): a region's timer reaches 65,536 edges of the core. -/
def execNpBound (s : State) : Host.Outcome State Fault Refusal :=
  .next (s.waves.foldl (fun s w =>
    match w.2.np with
    | some since =>
      if since + 65536 ≤ coreEdges s (coreOfWave w.1) ∧ ctxRuns s w.2.ctx then
        s.fatal (reportOf w.2.ctx (unitOfCore (coreOfWave w.1)) (w.1 % 48) (pcOfWave w.2) (.of fNpBound 0 (lanesOfWave w.2)))
      else s
    | none => s) s)

/-! ### Firn parking (R162-R165) -/

/-- The register allocation of a wave (R162). -/
def allocOf (n : NodeInfo) (access : Bool) : Nat := ceilDiv ((if access then 64 else n.vregs) * n.width * 4) 4096 * 4096

def allocWave (s : State) (wv : Wave) : Nat :=
  match nodeOf s wv.ctx wv.img wv.node with | some nd => allocOf nd wv.access | none => 0

/-- Bytes of the register file that residents and recalled waves of a core hold (R163). -/
def residentBytes (s : State) (g : Nat) : Nat :=
  (coreWaves s g).foldl (fun n w => match w.2.res with
    | .resident => n + allocWave s w.2
    | .recalling _ => n + allocWave s w.2
    | _ => n) 0

def fileBytes : Nat := 524288

/-- A wave that could go on: between clauses, one that a port would take (R151); inside one, one that waits at issue, whose
word may issue again.
DESIGN CHOICE, log 16, safe: whether that word would still wait shows only when it issues. -/
def couldRun (s : State) (v : Nat) (wv : Wave) : Bool :=
  match wv.run with
  | some c => c.port == 4 && wv.park == .no && !wv.stopped && midClause s wv.ctx && stackRuns s (stackOfCore (coreOfWave v))
  | none => match pickWave s v wv with | .not => false | .walk _ => false | _ => true

/-- A resident wave that is not ready and issues nothing (R151, R164): between clauses, or waiting at issue inside one. -/
def parkable (s : State) (w : Nat × Wave) : Bool :=
  w.2.res == .resident && (match w.2.run with | some c => c.port == 4 | none => true) && !isReady s w.1 w.2

/-- The parked wave of a core that became ready first (R164).
DESIGN CHOICE, log 16, safe: of two that became ready in one cycle, the lower slot. -/
def nextRecall (s : State) (g : Nat) : Option (Nat × Wave) :=
  ((coreWaves s g).filter (fun w => w.2.res == .parked && couldRun s w.1 w.2)).foldl (fun (a : Option (Nat × Wave)) w =>
    match a with | none => some w | some b => if w.2.readySince < b.2.readySince then some w else a) none

/-- Cycles of a transfer: its size after compression is free up to the allocation's registers (R161, R165).
DEDUCED, log 16, safe. -/
def transferTime (s : State) (v : Nat) (wv : Wave) : Nat :=
  match nodeOf s wv.ctx wv.img wv.node with
  | some nd => ceilDiv (Config.freeNat s.free v % ((if wv.access then 64 else nd.vregs) * nd.width * 4 + 1)) 256
  | none => 0

/-- WAVE_PARK (R164): room is needed, and v is the resident wave that has not been ready longest. -/
def execWavePark (v : Nat) (s : State) : Host.Outcome State Fault Refusal :=
  match SMap.find? s.waves v with
  | none => .next s
  | some wv =>
    let g := coreOfWave v
    let need : Bool := match nextRecall s g with
      | some (_, u) => decide (fileBytes < residentBytes s g + allocWave s u)
      | none => false
    let first := ((coreWaves s g).filter (parkable s)).all (fun w =>
      (wv.hint && !w.2.hint) || (wv.hint == w.2.hint && decide (wv.notReadySince ≤ w.2.notReadySince)))
    if need && parkable s (v, wv) && first then
      .next (s.setWave v { wv with res := .parking (s.aclk + transferTime s v wv) })
    else .next s

/-- WAVE_RECALL (R164, R165): the parked wave that became ready first, once its allocation fits. -/
def execWaveRecall (v : Nat) (s : State) : Host.Outcome State Fault Refusal :=
  match nextRecall s (coreOfWave v) with
  | some (u, wv) =>
    if u = v ∧ residentBytes s (coreOfWave v) + allocWave s wv ≤ fileBytes then
      .next (s.setWave v { wv with res := .recalling (s.aclk + transferTime s v wv) })
    else .next s
  | none => .next s

/-- FIRN_TRANSFER_DONE (R165): every transfer whose last cycle has passed ends. -/
def execFirnTransferDone (s : State) : Host.Outcome State Fault Refusal :=
  .next { s with waves := s.waves.map (fun w => (w.1, match w.2.res with
    | .parking t => if t ≤ s.aclk then { w.2 with res := .parked } else w.2
    | .recalling t => if t < s.aclk then { w.2 with res := .resident } else w.2
    | _ => w.2)) }

/-! ### Monitored lines -/

/-- WAITLINE_WAKE (R218): lane l of wave v is woken; a wake-up may be spurious. -/
def execWaitlineWake (v l : Nat) (s : State) : Host.Outcome State Fault Refusal := .next (wakeLane s v l)

/-- WAITLINE_TIMEOUT (R318): lanes armed for 1,048,576 edges of their core are woken. -/
def execWaitlineTimeout (s : State) : Host.Outcome State Fault Refusal :=
  .next ((s.mons.filter (fun m => decide (m.at_ + 1048576 ≤ coreEdges s m.core))).foldl (fun s m => wakeLane s m.wave m.lane) s)

/-! ### Page walks (R193-R198) -/

/-- Where a walk ends: a page (base, physical base, size, W, X), a fault, or, for now, a link that retrains between the hub and
the home of a table (R29). -/
inductive Walked
  | page (va pa size : Nat) (w x : Bool)
  | fault (cause : Nat)
  | hold
  deriving DecidableEq, Repr

/-- An 8-byte page-table entry at its home (R197). -/
def readPte (s : State) (pa : Nat) : Nat := natOfBytes (homeBytes (combineLine s (pa / 128)) pa 8)

def pteAddr (e : Nat) : Nat := bits e 12 36 * 4096

/-- Some byte of a range may not be mapped (R23, R176, R196, R438). -/
def rangeBad (pa n : Nat) : Bool :=
  let meets (lo hi : Nat) : Bool := decide (pa < hi ∧ lo < pa + n)
  meets 0x1800000000 0x2000000000 || meets 0x3800000000 0x10000000000 ||
    (List.range 4).any (fun d => meets (moraineBase d) (moraineBase d + 0x4000000)) ||
    (List.range 2).any (fun st => meets (saveBase st) (saveBase st + 0x80000000))

/-- The reserved bits, and the LEAF and PS bits a level allows (R194, R196). -/
def pteFormatBad (level e : Nat) : Bool :=
  let leaf := bit e 1
  let ps := bit e 3
  bits e 48 16 != 0 || bits e 6 6 != 0 || bit e 2 ||
    (if level ≥ 3 then leaf else if level = 0 then !leaf else false) ||
    (!leaf && (ps || bit e 4 || bit e 5)) || (leaf && decide (level = 1) && ps)

/-- The page size of a leaf (R193). -/
def leafSize (level e : Nat) : Nat :=
  match level, bit e 3 with
  | 2, false => 0x40000000
  | 2, true => 0x100000000
  | 1, _ => 0x200000
  | _, false => 0x1000
  | _, true => 0x10000

/-- The group of a 4 GiB or 64 KiB page agrees (R195). -/
def groupOk (s : State) (level table idx e : Nat) : Bool :=
  if !bit e 3 then true
  else
    let n := if level = 2 then 4 else 16
    (List.range n).all (fun j =>
      let g := readPte s (table + 8 * (idx / n * n + j))
      bit g 0 && bit g 1 && bit g 3 && bit g 4 == bit e 4 && bit g 5 == bit e 5 && pteAddr g == pteAddr e &&
        !pteFormatBad level g)

/-- The group a walk reads with an entry (R195): its first address and bytes. -/
def entryGroup (level table idx e : Nat) : Nat × Nat :=
  let n := if level = 2 then 4 else 16
  if bit e 1 && bit e 3 then (table + 8 * (idx / n * n), 8 * n) else (table + 8 * idx, 8)

/-- The walk from a table of a level down (R196), which reads its entries at their homes (R197). -/
def walkFrom (s : State) (va : Nat) (acc : Acc) : Nat → Nat → Walked
  | level, table =>
    let shift := 12 + 9 * level
    let idx := if level = 4 then bits va 48 4 else bits va shift 9
    let e := readPte s (table + 8 * idx)
    if rangeBad table 4096 then .fault fPhysRange
    else if offline s table then .fault fMemoryOffline
    else if pathWaits s 2 (homeEnd table) || lineWaits s none false ((table + 8 * idx) / 128) then .hold
    else if poisoned s (entryGroup level table idx e).1 (entryGroup level table idx e).2 then .fault fEcc
    else if !bit e 0 then .fault fPageNotPresent
    else
      let size := leafSize level e
      if pteFormatBad level e || (bit e 1 && (pteAddr e % size != 0 || !groupOk s level table idx e)) then .fault fPteFormat
      else if rangeBad (pteAddr e) (if bit e 1 then size else 4096) then .fault fPhysRange
      else if bit e 1 then
        if (acc == .write && !bit e 4) || (acc == .fetch && !bit e 5) then .fault fPagePerm
        else .page (va / size * size) (pteAddr e) size (bit e 4) (bit e 5)
      else match level with
        | 0 => .fault fPteFormat
        | l + 1 => walkFrom s va acc l (pteAddr e)

/-- The lines that hold the entries a walk reads (R192, R197). -/
def walkLines (s : State) (va : Nat) : Nat → Nat → List Nat
  | level, table =>
    let idx := if level = 4 then bits va 48 4 else bits va (12 + 9 * level) 9
    let e := readPte s (table + 8 * idx)
    if rangeBad table 4096 || offline s table then []
    else (table + 8 * idx) / 128 :: (if bit e 0 && !bit e 1 then match level with
      | 0 => []
      | l + 1 => walkLines s va l (pteAddr e) else [])

/-- The home combines the lines that a walk reads (R192). -/
def combineWalk (s : State) (c va : Nat) : State :=
  if s.l1 = [] then s else (walkLines s va 4 (s.ctx c).ptRoot).foldl combineLine s

/-- Put an entry into a TLB of a capacity: the oldest goes when it is full (R198).
DEDUCED, log 11, unsafe: the spec names no replacement. -/
def tlbPut (cap : Nat) (es : List TlbE) (e : TlbE) : List TlbE :=
  let es := es.filter (fun x => x != e)
  (if es.length ≥ cap then es.drop 1 else es) ++ [e]

/-- Install a translation in the TLBs of the unit that asked (R198). -/
def installTlb (s : State) (w : Walk) (e : TlbE) : State :=
  let s := { s with tlb2 := SMap.insert w.stack (tlbPut 8192 (SMap.get [] s.tlb2 w.stack) e) s.tlb2 }
  match w.core with
  | some g => { s with tlb1 := SMap.insert g (tlbPut 64 (SMap.get [] s.tlb1 g) e) s.tlb1 }
  | none => s

/-- The walk of a miss. -/
def walkOf (s : State) (w : Walk) : Walked := walkFrom s (w.page * 4096) w.acc 4 (s.ctx w.ctx).ptRoot

/-- One asker's walk ends. -/
def endWalk (s : State) (w : Walk) : State :=
  match walkOf s w with
  | .hold => s
  | .page va pa size wr x => installTlb s w { ctx := w.ctx, va := va, size := size, pa := pa, w := wr, x := x }
  | .fault c =>
    let f : WalkFault := { ctx := w.ctx, page := w.page, acc := w.acc, cause := c, who := w.who }
    if s.wfault.contains f then s else { s with wfault := s.wfault ++ [f] }

/-- PAGE_WALK (R196, R198): walk i of the pool ends, for every miss that joined it; the pool holds the first 128 pages
asked for. A walk waits while a link carries nothing between the hub and a table's home or an asker's stack (R29), and combines what it
reads (R192).
DEDUCED, log 11. -/
def execPageWalk (i : Nat) (s : State) : Host.Outcome State Fault Refusal :=
  match s.walks[i]? with
  | none => .next s
  | some w =>
    let same (u : Walk) : Bool := u.ctx == w.ctx && u.page == w.page
    let held : Bool := (s.walks.filter same).any (fun u => walkOf s u == .hold || pathWaits s 2 u.stack)
    if ((walkPages s).take 128).contains (w.ctx, w.page) && !held then
      .next ((combineWalk ((s.walks.filter same).foldl endWalk { s with walks := s.walks.filter (fun u => !same u) }) w.ctx (w.page * 4096)).count 0x200)
    else .next s

end Sys2Proof.Machine
end

