-- ==== Sys2Proof/Machine/Queues.lean ====
section
/-!
DEFINITION. Queues (R116-R124, R141): placing a record that arrives, mapping and evicting halves, the far segment, and the
translation of what hub units read and write.
-/

namespace Sys2Proof.Machine

/-! ### Reads and writes of hub units -/

/-- A range of virtual addresses cut at 4 KiB pages. -/
def pagesOf : Nat → Nat → Nat → List (Nat × Nat)
  | 0, _, _ => []
  | fuel + 1, va, n =>
    if n = 0 then []
    else
      let k := min n (4096 - va % 4096)
      (va, k) :: pagesOf fuel (va + k) (n - k)

def pieces (va n : Nat) : List (Nat × Nat) := pagesOf (n / 4096 + 2) va n

/-- What a unit outside the cores meets when it reaches virtual memory: it goes on, waits, parks or faults. -/
inductive HubRes
  | go (pas : List (Nat × Nat))
  | wait (s : State)
  | park (pages : List (Nat × Nat × Nat × Mask))
  | fatal (cause va : Nat)

/-- Translate a range for a context through the L2 TLB of a stack and the walker pool. -/
def hubGate (s : State) (st c va n : Nat) (acc : Acc) (who : Nat := 0) : HubRes :=
  if 2 ^ 52 < va + n then .fatal fVaRange va
  else
    let ps := pieces va n
    match gate s none st c (ps.map (fun p => { lane := 0, va := p.1, size := p.2, acc := acc })) who with
    | .go pas => .go (pas.zip (ps.map (·.2)))
    | .wait ws => .wait (ws.foldl askWalk s)
    | .park l => .park (l.map (fun p => (p.1, p.2.1, p.2.2.1, 0)))
    | .fatal f => .fatal f.cause f.va

def lineCut : Nat → Nat → Nat → List (Nat × Nat)
  | 0, _, _ => []
  | fuel + 1, pa, n =>
    if n = 0 then []
    else
      let k := min n (128 - pa % 128)
      (pa, k) :: lineCut fuel (pa + k) (n - k)

/-- A range of physical addresses cut at 128-byte lines. -/
def linePieces (pa n : Nat) : List (Nat × Nat) := lineCut (n / 128 + 2) pa n

/-- A translated range cut at lines. -/
def linesOf (l : List (Nat × Nat)) : List (Nat × Nat) := l.flatMap (fun p => linePieces p.1 p.2)

/-- Read a translated range at its homes. -/
def hubRead (s : State) (l : List (Nat × Nat)) : State × List Byte :=
  (linesOf l).foldl (fun (a : State × List Byte) p =>
    let (s', bs) := homeRead a.1 true p.1 p.2
    (s', a.2 ++ bs)) (s, [])

/-- Write bytes to a translated range at its homes. -/
def hubWrite (s : State) (l : List (Nat × Nat)) (bs : List Byte) : State :=
  ((linesOf l).foldl (fun (a : State × List Byte) p => (homeStore a.1 p.1 (a.2.take p.2), a.2.drop p.2)) (s, bs)).1

/-! ### Halves and the record store -/

def Queue.half (q : Queue) (sk : Nat) : Half := if sk = 0 then q.half0 else q.half1
def Queue.setHalf (q : Queue) (sk : Nat) (h : Half) : Queue := if sk = 0 then { q with half0 := h } else { q with half1 := h }

/-- Records of a block or page (R119). -/
def perBlock (s : State) (q : Queue) : Nat := 4096 / max 4 (recSize s q.ctx q.img q.node)

/-- Blocks of a stack's record store: 32 MiB (R22). -/
def storeBlocks : Nat := 8192

def usedBlocks (s : State) (sk : Nat) : Nat := s.queues.foldl (fun n e => n + (e.2.half sk).blocks.length) 0
def freeBlocks (s : State) (sk : Nat) : Nat := storeBlocks - usedBlocks s sk

/-- Room in a half's current block. -/
def Half.hasRoom (h : Half) (per : Nat) : Bool :=
  match h.cur with | some (b, u) => decide (u < per) && (SMap.find? h.blocks b).isSome | none => false

/-- A half can take one more record (R118). -/
def halfRoom (s : State) (q : Queue) (sk : Nat) : Bool :=
  (q.half sk).hasRoom (perBlock s q) || decide (0 < freeBlocks s sk)

/-- Append a record to a half: in its current block, or a new one. A record that came from the far segment keeps its place
in the page, which is free once the record no longer counts (R119, R141), and the time it arrived at the queue (R131). -/
def putHalf (s : State) (qid sk : Nat) (r : Rec) : State :=
  match SMap.find? s.queues qid with
  | none => s
  | some q =>
    let h := q.half sk
    let (b, u) := if h.hasRoom (perBlock s q) then (match h.cur with | some c => c | none => (s.nextId, 0)) else (s.nextId, 0)
    let r := { r with blk := some (sk, b), lodged := s.aclk }
    let h := { h with recs := h.recs ++ [r], blocks := bump b 1 h.blocks, cur := some (b, u + 1) }
    { s.setQueue qid (q.setHalf sk h) with nextId := s.nextId + 1 }

/-! ### The far segment (R104, R119, R141) -/

/-- The spill pages of a queue: those with a place whose record still counts. -/
def Queue.pageList (q : Queue) : List Nat := (q.pages.map (fun e => e.1 / 4096)).eraseDups

/-- Pages of the spill region of an image in use, and in all. -/
def pagesUsed (s : State) (c img : Nat) : Nat :=
  s.queues.foldl (fun n e => if e.2.ctx = c ∧ e.2.img = img then n + e.2.pageList.length else n) 0
def pagesAll (s : State) (c img : Nat) : Nat :=
  match imageOf s c img with | some im => (match im.spill with | some r => r.2 / 4096 | none => 0) | none => 0

/-- The lowest free page of the spill region of an image. -/
def freePage (s : State) (c img : Nat) : Option Nat :=
  (List.range (pagesAll s c img)).find? (fun p =>
    s.queues.all (fun e => e.2.ctx != c || e.2.img != img || !e.2.pageList.contains p))

/-- The free places in the pages of a queue (R119, R141). -/
def roomIn (s : State) (q : Queue) : List Nat :=
  q.pageList.flatMap (fun p => ((List.range (perBlock s q)).map (p * 4096 + ·)).filter (fun k => (SMap.find? q.pages k).isNone))

def pageRoom (s : State) (q : Queue) : Nat := (roomIn s q).length

/-- The place the next spilled record of a queue takes: the lowest free one in its pages, or the first of the lowest free page.
DESIGN CHOICE, log 19, unsafe: which free place a record takes. -/
def spillPlace (s : State) (q : Queue) : Option Nat :=
  match roomIn s q with
  | k :: _ => some k
  | [] => (freePage s q.ctx q.img).map (· * 4096)

/-- The bytes of a spilled record, in a place of its page (R10, R119).
DESIGN CHOICE, log 19, unsafe: place u of a page begins at u × SIZE, and where no translation gives the page, the bytes are
kept in the hub alone. -/
def spillBytes (s : State) (q : Queue) (p u : Nat) (r : Rec) : State :=
  match imageOf s q.ctx q.img with
  | some im => match im.spill with
    | some (base, _) =>
      let va := base + 4096 * p + u * recSize s q.ctx q.img q.node
      match walkFrom s va .write 4 (s.ctx q.ctx).ptRoot with
      | .page v pa _ _ _ => hubWrite (combineWalk s q.ctx va) [(pa + (va - v), 4 * r.words.length)] (recBytes r.words)
      | _ => s
    | none => s
  | none => s

/-- Append a record to a queue's far segment, or none if there is no place for it (R119, R141). A record that still has a
place in a page goes back to it. -/
def putFar (s : State) (qid : Nat) (r : Rec) : Option State :=
  match SMap.find? s.queues qid with
  | none => none
  | some q =>
    match r.page with
    | some _ => some (s.setQueue qid { q with far := q.far ++ [{ r with blk := none }] })
    | none =>
      match spillPlace s q with
      | none => none
      | some k =>
        let r := { r with blk := none, page := some k }
        some (spillBytes (s.setQueue qid { q with far := q.far ++ [r], pages := SMap.insert k 1 q.pages }) q (k / 4096) (k % 4096) r)

/-- F_SPILL_EXHAUSTED (R141): SUBCODE the node, DETAIL the pages in use. -/
def spillFault (s : State) (c img node unit : Nat) : State :=
  s.fatal (reportOf c unit 0xFFFF 0
    { cause := fSpillExhausted, sub := node, va := 0, lanes := 0, detail := pagesUsed s c img })

/-! ### RECORD_ARRIVAL (R118, R142) -/

/-- The first eight bytes of a record (R94). -/
def recAddr (r : Rec) : Nat := (r.words.getD 0 0).toNat + (r.words.getD 1 0).toNat * 2 ^ 32

/-- The end of the links a record comes from (R27): the hub, for the entry feed and conditional deliveries. -/
def transitEnd (t : Transit) : Nat := if 0x20000 ≤ t.src ∧ t.src < 0x40000 then 2 else t.stack

/-- A record waits at its sender while a link towards an end retrains (R29). -/
def recordWaits (s : State) (t : Transit) (b : Nat) : Bool := pathWaits s (transitEnd t) b

/-- A record whose placement faults its context stays where it is.
DEDUCED, log 22. -/
def holdTransit (s : State) (i : Nat) (t : Transit) (p : Park) : State :=
  let tr : List Transit := s.transit.set i { t with park := p }
  { s with transit := tr }

/-- Place a record of KIND 4: at the moraine dispatcher of the DRAM stack that holds its address (R118, R142). -/
def placeMoraine (s : State) (i : Nat) (t : Transit) : State :=
  let unit := unitOfDispatcher t.stack
  match hubGate s t.stack t.ctx (recAddr t.rcd) 1 .read (askRec t.rcd.id) with
  | .wait s => s
  | .park ps => (holdTransit s i t .xlat).logPages t.ctx unit 0xFFFF 0 ps (askRec t.rcd.id)
  | .fatal c va => (holdTransit s i t .brk).fatal (reportOf t.ctx unit 0xFFFF 0 { FaultInfo.of c 0 0 with va := va })
  | .go l =>
    match l with
    | (pa, _) :: _ =>
      match dramOf pa with
      | some d =>
        let r : Rec := { t.rcd with arr := s.aclk }
        if recordWaits s t (d / 2) then s else { s with
                 transit := s.transit.eraseIdx i
                 mdisp := SMap.set [] d (SMap.get [] s.mdisp d ++ [{ t with rcd := r }]) s.mdisp }
      | none => (holdTransit s i t .brk).fatal (reportOf t.ctx unit 0xFFFF 0 { FaultInfo.of fMorainePlace 0 0 with va := recAddr t.rcd })
    | [] => s

/-- Records on their way to a queue, which R118 does not yet count there. -/
def onTheWay (s : State) (t : Transit) : Nat :=
  (s.transit.filter (fun u => u.ctx == t.ctx && u.img == t.img && u.node == t.node)).length

/-- Place a record by the first row of R118 that applies to a queue with halves. -/
def placeQueue (s : State) (i : Nat) (t : Transit) : State :=
  let t := { t with rcd := { t.rcd with arr := s.aclk } }
  let qid := qidOf s t.ctx t.img t.node
  let s' : State := { s with transit := s.transit.eraseIdx i }
  match SMap.find? s.queues qid, nodeOf s t.ctx t.img t.node with
  | some q, some nd =>
    let far : State := if recordWaits s t 2 then s else match putFar s' qid t.rcd with
      | some u => u
      | none => spillFault (holdTransit s i t .brk) t.ctx t.img t.node (unitOfDispatcher t.stack)
    let own := t.stack
    let other := 1 - t.stack
    let mapped (sk : Nat) : Bool := (q.half sk).st == .mapped
    if !mapped 0 && !mapped 1 then far
    else if q.occ - onTheWay s t ≥ nd.qcap then far
    else if mapped own && halfRoom s q own then (if recordWaits s t own then s else putHalf s' qid own t.rcd)
    else if mapped other && halfRoom s q other then (if recordWaits s t other then s else putHalf s' qid other t.rcd)
    else far
  | _, _ => s

/-- An earlier record of the same emitter to the same queue is still on its way (R28). -/
def overtakes (s : State) (i : Nat) (t : Transit) : Bool :=
  (s.transit.take i).any (fun u => u.src == t.src && u.ctx == t.ctx && u.img == t.img && u.node == t.node)

/-- RECORD_ARRIVAL: record i in transit arrives. A context that is ABORTING, or a record whose placement is parked,
takes no arrival. -/
def execRecordArrival (i : Nat) (s : State) : Host.Outcome State Fault Refusal :=
  match s.transit[i]? with
  | none => .next s
  | some t =>
    if overtakes s i t || t.park != .no || (s.ctx t.ctx).st == .aborting then .next s
    else match kindOf s t.ctx t.img t.node with
      | 4 => .next (placeMoraine s i t)
      | 5 =>
        let n := bits ((t.rcd.words.getD 3 0).toNat) 0 5
        let v := s.venc n
        if recordWaits s t 2 then .next s else .next { s with
                       transit := s.transit.eraseIdx i
                       vencs := SMap.set Venc.reset n { v with queue := v.queue ++ [t] } s.vencs }
      | _ => .next (placeQueue s i t)

/-! ### Mapping halves (R122-R124) -/

/-- Consumers of a context may start, and its queues be mapped (R123). -/
def runnable (s : State) (c : Nat) : Bool := (s.ctx c).st == .active && !(s.ctx c).budgetOut

/-- The cores a launch's cluster masks name on a stack, in ascending id: none unless the compute die is in RUN (R57). -/
def clustersOf (l : Launch) (sk : Nat) : BitVec 24 := if sk = 0 then l.cl0 else l.cl1
def coreSet (s : State) (l : Launch) (sk : Nat) : List Nat :=
  if (s.die sk).st != .run then []
  else ((usable s sk).filter (fun p => (clustersOf l sk).getLsbD (p / 4))).map (fun p => sk * 96 + p)

/-- The clusters of a stack with a core in a launch's core set. -/
def clusterSet (s : State) (l : Launch) (sk : Nat) : List Nat :=
  (List.range 24).filterMap (fun c =>
    if (coreSet s l sk).any (fun g => g % 96 / 4 == c) then some (sk * 24 + c) else none)

/-- A record waits in the entry feed for a node (R123). -/
def feedWaits (s : State) (q : Queue) : Bool :=
  (s.ctx q.ctx).launches.any (fun l => l.2.kind == .graph && l.2.img == q.img && l.2.entryNode == q.node && decide (l.2.fed < l.2.entryN))

/-- The three conditions of R123. -/
def wantsHalf (s : State) (q : Queue) (sk : Nat) : Bool :=
  (q.far != [] || feedWaits s q) && runnable s q.ctx && decide (kindOf s q.ctx q.img q.node ≤ 3) &&
    (s.ctx q.ctx).launches.any (fun l => l.2.kind == .graph && l.2.img == q.img && coreSet s l.2 sk != [])

/-- Halves of a stack that hold a slot, in all and of a context. -/
def slotsUsed (s : State) (sk : Nat) : Nat := (s.queues.filter (fun e => (e.2.half sk).st != .unmapped)).length
def slotsOf (s : State) (sk c : Nat) : Nat :=
  (s.queues.filter (fun e => (e.2.half sk).st != .unmapped && e.2.ctx == c)).length

def setHalfSt (s : State) (qid sk : Nat) (st : HalfSt) : State :=
  updQueue s qid (fun q => q.setHalf sk { q.half sk with st := st, since := s.hclk })

/-- Records of a half that have no place in a page. -/
def unpaged (q : Queue) (sk : Nat) : Nat := ((q.half sk).recs.filter (·.page.isNone)).length

/-- A half's records fit in the spill region: in free pages alone (R124, source 3), or with the page the queue is filling
(source 4, R141). -/
def evictFits (s : State) (q : Queue) (sk : Nat) (also : Bool) : Bool :=
  let n := unpaged q sk - (if also then pageRoom s q else 0)
  decide (ceilDiv n (perBlock s q) + pagesUsed s q.ctx q.img ≤ pagesAll s q.ctx q.img)

def firstBy (f : (Nat × Queue) → (Nat × Queue) → Bool) (l : List (Nat × Queue)) : Option (Nat × Queue) :=
  l.foldl (fun a x => match a with | none => some x | some y => if f x y then some x else a) none

/-- The half a context may take a slot from (R124, sources 2 to 4). -/
inductive Source | evict (q : Nat) | exhausted | nothing
  deriving DecidableEq, Repr

def slotSource (s : State) (c sk : Nat) : Source :=
  let mapped := s.queues.filter (fun e => (e.2.half sk).st == .mapped)
  let older (a b : Nat × Queue) : Bool := decide ((a.2.half sk).since < (b.2.half sk).since)
  match mapped.find? (fun e => (e.2.half sk).recs == []) with
  | some e => .evict e.1
  | none =>
    let third := if slotsOf s sk c < 8 then
        firstBy (fun a b => decide ((s.ctx a.2.ctx).prio < (s.ctx b.2.ctx).prio) ||
            ((s.ctx a.2.ctx).prio == (s.ctx b.2.ctx).prio && older a b))
          (mapped.filter (fun e => decide (8 < slotsOf s sk e.2.ctx) && evictFits s e.2 sk false))
      else none
    match third with
    | some e => .evict e.1
    | none =>
      match firstBy older (mapped.filter (fun e => e.2.ctx == c)) with
      | some e => if evictFits s e.2 sk true then .evict e.1 else .exhausted
      | none => .nothing

/-- The key of a half in the map of slots claimed while they are evicted. -/
def halfKey (qid sk : Nat) : Nat := qid * 2 + sk

/-- Begin the eviction of a half (R122). -/
def evictHalf (s : State) (qid sk : Nat) : State := setHalfSt s qid sk .evicting

/-- The hub gives an UNMAPPED half a slot (R124): a free one at once, another half's after its eviction. -/
def takeSlot (s : State) (qid sk : Nat) (q : Queue) : State :=
  if (q.half sk).st ≠ .unmapped ∨ s.claims.any (fun e => e.2 == halfKey qid sk + 1) then s
  else if slotsUsed s sk < 512 then setHalfSt s qid sk .mapping
  else match slotSource s q.ctx sk with
    | .evict v => { evictHalf s v sk with claims := SMap.insert (halfKey v sk) (halfKey qid sk + 1) s.claims }
    | .exhausted => spillFault s q.ctx q.img q.node 0
    | .nothing => s

/-- The hub maps the half of queue q on stack sk where the conditions of R123 hold. -/
def mapHalf (s : State) (qid sk : Nat) : State :=
  match SMap.find? s.queues qid with
  | none => s
  | some q => if sk > 1 || !wantsHalf s q sk then s else takeSlot s qid sk q

/-- HALF_MAP (R123, R124).
DEDUCED, log 19. -/
def execHalfMap (qid sk : Nat) (s : State) : Host.Outcome State Fault Refusal := .next (mapHalf s qid sk)

/-- Since when the conditions of R123 hold for each half without a slot. -/
def noteWants (s : State) : State :=
  let one (q : Queue) (sk : Nat) (h : Half) : Half :=
    let want := if h.st = .unmapped ∧ wantsHalf s q sk then (match h.want with | some t => some t | none => some s.hclk) else none
    if h.want = want then h else { h with want := want }
  { s with queues := s.queues.map (fun e => (e.1, { e.2 with half0 := one e.2 0 e.2.half0, half1 := one e.2 1 e.2.half1 })) }

/-- HALF_MAPPING_DONE (R122): the first block is filled, or the far segment is empty. -/
def execHalfMappingDone (qid sk : Nat) (s : State) : Host.Outcome State Fault Refusal :=
  match SMap.find? s.queues qid with
  | none => .next s
  | some q =>
    if sk ≤ 1 ∧ (q.half sk).st = .mapping ∧ (q.far = [] ∨ perBlock s q ≤ (q.half sk).recs.length) then
      .next (setHalfSt s qid sk .mapped)
    else .next s

/-- FAR_SEGMENT_MOVE_IN (R120, R122): the oldest far record moves into a half that is being mapped, until its first
block is full, or is mapped and has room, and no link bars the way from the hub (R29). -/
def execFarSegmentMoveIn (qid sk : Nat) (s : State) : Host.Outcome State Fault Refusal :=
  match SMap.find? s.queues qid with
  | none => .next s
  | some q =>
    match q.far with
    | [] => .next s
    | r :: rest =>
      let h := q.half sk
      let open_ := h.st == .mapped || (h.st == .mapping && decide (h.recs.length < perBlock s q))
      if sk > 1 || !open_ || !halfRoom s q sk || pathWaits s 2 sk then .next s
      else .next (putHalf (s.setQueue qid { q with far := rest }) qid sk r)

/-- Write a half's records to the far segment, in order, behind those already there (R120); what finds no page is left.
DEDUCED, log 19: also where those of the half are older. -/
def spillRecs (s : State) (qid : Nat) : List Rec → State × List Rec
  | [] => (s, [])
  | r :: rs =>
    match putFar s qid r with
    | some u =>
      let u := match r.blk with
        | some (st, b) => updQueue u qid (fun q => q.setHalf st { q.half st with blocks := drop b 1 (q.half st).blocks })
        | none => u
      spillRecs u qid rs
    | none => (s, r :: rs)

/-- A half that claimed the slot of another takes it: key is its half's plus 1, 0 for none. -/
def grantSlot (s : State) (key sk : Nat) : State :=
  if key = 0 then s
  else match SMap.find? s.queues ((key - 1) / 2) with
    | some c => if (c.half sk).st = .unmapped then setHalfSt s ((key - 1) / 2) sk .mapping else s
    | none => s

/-- The halves of some queues are gone: their claims end, and who claimed one of them takes its slot. -/
def dropClaims (s : State) (gone : Nat → Bool) : State :=
  let live := s.claims.filter (fun e => !gone ((e.2 - 1) / 2))
  let free_ := live.filter (fun e => gone (e.1 / 2))
  free_.foldl (fun s e => grantSlot s e.2 (e.1 % 2)) { s with claims := live.filter (fun e => !gone (e.1 / 2)) }

/-- Some queue-directory entries are released: what claimed a slot of theirs takes it (R112, R114). -/
def dropQueues (s : State) (p : Queue → Bool) : State :=
  let ids := (s.queues.filter (fun e => p e.2)).map (·.1)
  let s := dropClaims s ids.contains
  { s with queues := s.queues.filter (fun e => !p e.2) }

/-- The eviction of a half ends (R122): its unheld records lie in the far segment; it is UNMAPPED, and its slot goes to the
half it was claimed for. Records that find no page fault their context (R124, R141). It waits for a link on the way (R29). -/
def evictDone (s : State) (qid sk : Nat) : State :=
  match SMap.find? s.queues qid with
  | none => s
  | some q =>
    if sk > 1 ∨ (q.half sk).st ≠ .evicting ∨ pathWaits s sk 2 then s
    else
      let (u, left) := spillRecs s qid (q.half sk).recs
      let u := updQueue u qid (fun q => q.setHalf sk { q.half sk with recs := left, cur := none })
      if left ≠ [] then (if (s.ctx q.ctx).st = .faulted then u else spillFault u q.ctx q.img q.node 0)
      else
        let u := setHalfSt u qid sk .unmapped
        let key := SMap.get 0 u.claims (halfKey qid sk)
        grantSlot { u with claims := SMap.erase (halfKey qid sk) u.claims } key sk

/-- HALF_EVICT_DONE (R122). -/
def execHalfEvictDone (qid sk : Nat) (s : State) : Host.Outcome State Fault Refusal := .next (evictDone s qid sk)

/-- A half that must be mapped by now is: also where the slot it takes is another's that is evicted for it (R123, R124). -/
def mapBy (s : State) (qid sk : Nat) : State :=
  let s := mapHalf s qid sk
  match List.find? (fun e => e.2 == halfKey qid sk + 1) s.claims with
  | some e => evictDone s (e.1 / 2) sk
  | none => s

/-- The hub maps a half within 65,536 HCLK (R123), while the record store is not stopped (R31). -/
def mapDue (s : State) : State :=
  let one (s : State) (e : Nat × Queue) (sk : Nat) : State :=
    match (e.2.half sk).want with
    | some t => if t + 65536 ≤ s.hclk then mapBy s e.1 sk else s
    | none => s
  if s.moving.isSome then s else s.queues.foldl (fun s e => one (one s e 0) e 1) s

end Sys2Proof.Machine
end

