-- ==== Sys2Proof/Machine/Starts.lean ====
section
/-!
DEFINITION. Starting consumers (R120, R125-R131, R133, R134, R156, R160, R162, R166, R186, R402): the closure of nodes
(R137), the batches a half offers, the tests of R127 in the order of R131, and the starts of teams and programs.
-/

namespace Sys2Proof.Machine

/-! ### Closure (R137) -/

/-- CLOSED, QUIET and DRAINED of a node for a launch. -/
structure Closure where
  closed  : Bool
  quiet   : Bool
  drained : Bool
  deriving DecidableEq, Repr

def Closure.no : Closure := { closed := false, quiet := false, drained := false }

/-- The entry feed of a launch is complete (R132). -/
def feedDone (l : Launch) : Bool := decide (l.entryN ≤ l.fed)

/-- One round of R137 over the nodes, from what is known so far. -/
def closureRound (im : Image) (l : Launch) (known : List Closure) : List Closure :=
  let at_ (p : Nat) : Closure := known.getD p Closure.no
  (List.range im.nodes.length).map (fun n =>
    let closed := (n != l.entryNode || feedDone l) && im.edges.all (fun e => e.dst != n || (at_ e.src).quiet) &&
      im.cedges.all (fun e => e.dst != n || ((at_ e.src).drained && l.delivered.contains e.src))
    let quiet := closed && SMap.get 0 l.queued n == 0 && SMap.get 0 l.running n == 0
    { closed := closed, quiet := quiet, drained := quiet && SMap.get 0 l.unret n == 0 })

def closureRounds (im : Image) (l : Launch) : Nat → List Closure
  | 0 => []
  | k + 1 => closureRound im l (closureRounds im l k)

/-- The condition of a node for a launch: the least solution, reached after one round a node. -/
def closureOf (im : Image) (l : Launch) (n : Nat) : Closure := (closureRounds im l (im.nodes.length + 1)).getD n Closure.no

/-! ### Batches (R120, R125, R126, R133) -/

/-- A batch, or a team's batches, that a queue's half offers to a dispatcher; a tagged load names its own core. -/
structure Cand where
  qid  : Nat
  ctx  : Nat
  img  : Nat
  node : Nat
  tag  : Nat
  batches : List (List Rec)
  own  : Option Nat
  deriving DecidableEq, Repr

def Cand.recs (c : Cand) : List Rec := c.batches.flatten

/-- Cut a list in pieces of w. -/
def batchesOf (w : Nat) : Nat → List Rec → List (List Rec)
  | 0, _ => []
  | _ + 1, [] => []
  | f + 1, r :: rs => (r :: rs).take w :: batchesOf w f ((r :: rs).drop w)

/-- Spill pressure (R126). -/
def pressure (s : State) (q : Queue) (nd : NodeInfo) (sk : Nat) : Bool :=
  decide (q.occ > nd.qcap) || decide (freeBlocks s sk < 256)

/-- A batch of KIND 0 is eligible (R126); one that has become so stays so. -/
def eligible (s : State) (q : Queue) (nd : NodeInfo) (sk : Nat) (closed : Bool) (b : List Rec) : Bool :=
  decide (nd.width ≤ b.length) || closed || pressure s q nd sk ||
    (match b with | r :: _ => decide (r.lodged + nd.linger ≤ s.aclk) || q.lingered.contains r.id | [] => false)

/-- The launches, and for a node with a CONT edge the depths, of a half's records (R120). -/
def groupKeys (cont : Bool) (rs : List Rec) : List (Nat × Nat) :=
  (rs.map (fun r => (r.tag, if cont then r.depth else 0))).eraseDups

def inGroup (cont : Bool) (k : Nat × Nat) (r : Rec) : Bool := r.tag == k.1 && (!cont || r.depth == k.2)

/-- The batches of one launch (and depth) in a half, eligible or not. -/
def halfBatches (s : State) (q : Queue) (nd : NodeInfo) (sk : Nat) (k : Nat × Nat) : List (List Rec) :=
  let cont := hasCont s q.ctx q.img q.node
  let rs := (q.half sk).recs.filter (fun r => r.load.isNone && inGroup cont k r)
  batchesOf nd.width rs.length rs

/-- What the half of a KIND 0 node offers: for each launch and depth, its eligible batches up to TEAM. -/
def teamCands (s : State) (qid : Nat) (q : Queue) (nd : NodeInfo) (im : Image) (sk : Nat) : List Cand :=
  let cont := hasCont s q.ctx q.img q.node
  let keys := groupKeys cont ((q.half sk).recs.filter (·.load.isNone))
  keys.filterMap (fun k =>
    match launchOf s q.ctx k.1 with
    | none => none
    | some l =>
      let closed := (closureOf im l q.node).closed
      let bs := ((halfBatches s q nd sk k).filter (eligible s q nd sk closed)).take nd.team
      if bs = [] then none
      else some { qid := qid, ctx := q.ctx, img := q.img, node := q.node, tag := k.1, batches := bs, own := none })

/-- Records of team load j of a launch (R133). -/
def loadSize (nd : NodeInfo) (l : Launch) (j : Nat) : Nat :=
  min (nd.width * nd.team) (l.entryN - j * (nd.width * nd.team))

/-- Records of the entry feed in the order in which it fed them. -/
def feedOrder (rs : List Rec) : List Rec :=
  (rs.foldl (fun (m : SMap Rec) r => SMap.insert (r.entry.getD 0) r m) []).map (·.2)

/-- The tagged loads whose records have all arrived, for the cores of a stack (R133), in the order of the feed (R120). -/
def loadCands (s : State) (qid : Nat) (q : Queue) (nd : NodeInfo) (sk : Nat) : List Cand :=
  let rs := (q.half0.recs ++ q.half1.recs).filter (·.load.isSome)
  ((rs.map (fun r => (r.tag, r.load))).eraseDups).filterMap (fun k =>
    match k.2, launchOf s q.ctx k.1 with
    | some (g, j), some l =>
      let mine := feedOrder (rs.filter (fun r => r.tag == k.1 && r.load == some (g, j)))
      if stackOfCore g = sk ∧ mine.length = loadSize nd l j then
        some { qid := qid, ctx := q.ctx, img := q.img, node := q.node, tag := k.1,
               batches := batchesOf nd.width mine.length mine, own := some g }
      else none
    | _, _ => none)

/-- One record for each launch and depth: what the half of a node of another kind offers (R125). -/
def recCands (s : State) (qid : Nat) (q : Queue) (sk : Nat) : List Cand :=
  let cont := hasCont s q.ctx q.img q.node
  let rs := (q.half sk).recs
  (groupKeys cont rs).filterMap (fun k =>
    match rs.find? (inGroup cont k) with
    | some r => some { qid := qid, ctx := q.ctx, img := q.img, node := q.node, tag := k.1, batches := [[r]], own := none }
    | none => none)

/-- What the mapped halves of a stack offer, of nodes of a kind, in runnable contexts. -/
def candsOf (s : State) (sk kind : Nat) : List Cand :=
  s.queues.flatMap (fun e =>
    let q := e.2
    match imageOf s q.ctx q.img with
    | none => []
    | some im =>
      match im.nodes[q.node]? with
      | none => []
      | some nd =>
        if nd.kind ≠ kind ∨ !runnable s q.ctx then []
        else
          let own := (q.half sk).st == .mapped
          if kind = 0 then (if own then teamCands s e.1 q nd im sk else []) ++ loadCands s e.1 q nd sk
          else if own then recCands s e.1 q sk else [])

/-- LINGER_EXPIRY and spill pressure (R126): the oldest records of the partial batches that are eligible now are kept,
so that those batches stay eligible. -/
def noteEligible (s : State) : State :=
  let heads (q : Queue) (sk : Nat) : List Nat :=
    match nodeOf s q.ctx q.img q.node with
    | none => []
    | some nd =>
      if nd.kind ≠ 0 ∨ (q.half sk).recs = [] then []
      else
        (groupKeys (hasCont s q.ctx q.img q.node) ((q.half sk).recs.filter (·.load.isNone))).flatMap (fun k =>
          ((halfBatches s q nd sk k).filter (fun b => eligible s q nd sk false b && decide (b.length < nd.width))).filterMap
            (fun b => match b with | r :: _ => some r.id | [] => none))
  { s with queues := s.queues.map (fun e =>
      let new := (heads e.2 0 ++ heads e.2 1).filter (fun i => !e.2.lingered.contains i)
      if new = [] then e else (e.1, { e.2 with lingered := e.2.lingered ++ new })) }

/-- DEDUCED, log 36: a timer without a unit acts on every unit that is due. -/
def execLingerExpiry (s : State) : Host.Outcome State Fault Refusal := .next (noteEligible s)

/-! ### The tests of R127 -/

/-- The reservation terms of a batch of n records (R128), by port. -/
def resTerms (s : State) (c img node n : Nat) : List (Edge × Nat) :=
  match imageOf s c img with
  | some im => (edgesFrom im node).map (fun e => (e, e.max * n))
  | none => []

def resOn (ts : List (Edge × Nat)) (dst : Nat) : Nat := ts.foldl (fun a t => if t.1.dst = dst then a + t.2 else a) 0

/-- The reservation fits at every destination (R128). -/
def resFits (s : State) (c img node n : Nat) : Bool :=
  let ts := resTerms s c img node n
  ts.all (fun t =>
    match nodeOf s c img t.1.dst, SMap.find? s.queues (qidOf s c img t.1.dst) with
    | some nd, some q => decide (q.occ + q.rv + resOn ts t.1.dst ≤ nd.qcap + nd.spill)
    | _, _ => false)

/-- Tokens a batch takes: none without a CONT edge, and none at depth 10 (R130). -/
def tokensFor (s : State) (c img node : Nat) (rs : List Rec) : Nat :=
  if hasCont s c img node && (match rs with | r :: _ => decide (r.depth ≤ 9) | [] => false) then rs.length else 0

def tokensFit (s : State) (c img node : Nat) (rs : List Rec) : Bool :=
  let n := tokensFor s c img node rs
  let d := match rs with | r :: _ => r.depth | [] => 0
  n == 0 || decide (1024 * (9 - d) + n ≤ (s.ctx c).tokens)

/-- The reservation and token tests together. -/
def roomFor (s : State) (c img node : Nat) (rs : List Rec) : Bool :=
  resFits s c img node rs.length && tokensFit s c img node rs

/-- The teams a core holds: running, parked or pre-empted in place (R176). -/
def teamsOn (s : State) (g : Nat) : List (Nat × Team) := s.teams.filter (fun t => t.2.core == g && t.2.st != .written)

def localOf (s : State) (t : Team) : Nat :=
  match nodeOf s t.cons.ctx t.cons.img t.cons.node with | some n => n.loc | none => 0

/-- The place test of R127 for a team of a node on a core (R162, R186). -/
def placeOk (s : State) (nd : NodeInfo) (g : Nat) : Bool :=
  let waves := coreWaves s g
  let pairs := if nd.access.isSome then 2 else 1
  let a := allocOf nd false + (if nd.access.isSome then allocOf nd true else 0)
  let held := waves.foldl (fun n w => n + allocWave s w.2) 0
  let ts := teamsOn s g
  decide (waves.length + nd.team * pairs ≤ 48) && decide (held + nd.team * a ≤ 1310720) &&
    (SMap.get 0 s.carve g == nd.loc || ts.all (fun t => localOf s t.2 == nd.loc)) &&
    (nd.loc == 0 || decide ((ts.filter (fun t => localOf s t.2 != 0)).length < 2))

/-- The cores of a stack a launch may use for a node, lowest id first, or a tagged load's own (R131, R133). -/
def coresFor (s : State) (c tag sk : Nat) (own : Option Nat) : List Nat :=
  match launchOf s c tag with
  | none => []
  | some l => match own with
    | some g => (coreSet s l sk).filter (· == g)
    | none => coreSet s l sk

/-- The free sequencers a launch may use on a stack (R125, R142). -/
def freeSeqs (s : State) (c tag sk : Nat) : List Nat :=
  match launchOf s c tag with
  | none => []
  | some l => (clusterSet s l sk).filter (fun k => (SMap.find? s.seqs k).isNone)

/-! ### The order of R131 -/

/-- Priority, charged units, oldest record and node of a candidate, the first to start having the least. -/
def orderKey (s : State) (c node : Nat) (rs : List Rec) : List Nat :=
  let x := s.ctx c
  [256 - x.prio, x.charged, rs.foldl (fun a r => min a r.arr) (2 ^ 80), node]

def lexLt : List Nat → List Nat → Bool
  | a :: as, b :: bs => decide (a < b) || (a == b && lexLt as bs)
  | _, _ => false

/-- What a stack dispatcher could start now: a team, a program, or the resumption of one. -/
inductive Move
  | team (c : Cand) (g : Nat)
  | prog (c : Cand) (k : Nat)
  | teamBack (t g : Nat)
  | progBack (i k : Nat)
  deriving DecidableEq, Repr

def nodeAt (s : State) (c : Cand) : Option NodeInfo := nodeOf s c.ctx c.img c.node

/-- The place a candidate team would take. -/
def placeFor (s : State) (c : Cand) (sk : Nat) : Option Nat :=
  match nodeAt s c with
  | some nd => (coresFor s c.ctx c.tag sk c.own).find? (placeOk s nd)
  | none => none

/-- New work that fails only the place test (R144). -/
def lacksPlace (s : State) (sk : Nat) : List Cand :=
  (candsOf s sk 0).filter (fun c => roomFor s c.ctx c.img c.node c.recs && (placeFor s c sk).isNone &&
      coresFor s c.ctx c.tag sk c.own != []) ++
  (candsOf s sk 3).filter (fun c => roomFor s c.ctx c.img c.node c.recs && freeSeqs s c.ctx c.tag sk == [] &&
      (match launchOf s c.ctx c.tag with | some l => clusterSet s l sk != [] | none => false))

/-- Remove a team and its waves, to see what place that would leave. -/
def without (s : State) (t : Nat) : State :=
  match SMap.find? s.teams t with
  | none => s
  | some x => { s with teams := SMap.erase t s.teams, waves := s.waves.filter (fun w => !x.waves.contains w.1) }

/-- A consumer as the candidate it was: it competes for a place like one when it is to resume (R144). -/
def consCand (s : State) (k : Cons) : Cand :=
  { qid := qidOf s k.ctx k.img k.node, ctx := k.ctx, img := k.img, node := k.node, tag := k.tag, batches := [k.recs], own := none }

/-- Programs that resume with one: the saved members of its group (R429), or itself. -/
def savedGroup (s : State) (q : Seq) : List (Seq × Nat) :=
  match q.grp with
  | none => s.savedSeqs.zipIdx.filter (fun p => p.1 == q)
  | some g => s.savedSeqs.zipIdx.filter (fun p => p.1.cons.ctx == q.cons.ctx &&
      (match p.1.grp with | some h => h.key == g.key | none => false))

/-- Free sequencers for programs, each on its own stack (R429, R433); none while one of them has no place. -/
def groupPlaces (s : State) : List (Seq × Nat) → List Nat → Option (List Nat)
  | [], _ => some []
  | (q, _) :: qs, taken =>
    match (freeSeqs s q.cons.ctx q.cons.tag q.stack).find? (fun k => !taken.contains k) with
    | some k => (groupPlaces s qs (k :: taken)).map (fun l => k :: l)
    | none => none

/-- Pre-empted work of a stack that waits for a place to resume. -/
def backWants (s : State) (sk : Nat) : List Cand :=
  (s.teams.filter (fun t => t.2.st == .written && stackOfCore t.2.core == sk && runnable s t.2.cons.ctx &&
    (placeFor s (consCand s t.2.cons) sk).isNone)).map (fun t => consCand s t.2.cons) ++
  (s.savedSeqs.filter (fun q => q.stack == sk && runnable s q.cons.ctx && (groupPlaces s (savedGroup s q) []).isNone)).map
    (fun q => consCand s q.cons)

/-- All that waits for a place of a stack. -/
def wants (s : State) (sk : Nat) : List Cand := lacksPlace s sk ++ backWants s sk

/-- A candidate would have a place on a core once the pre-empted teams of lower priority there have left it. -/
def fitsOnceGone (s : State) (d : Cand) (g : Nat) : Bool :=
  let leaving := s.teams.filter (fun t => t.2.core == g && (t.2.st == .stopping || t.2.st == .stopped) &&
    decide ((s.ctx t.2.cons.ctx).prio < (s.ctx d.ctx).prio))
  match nodeAt s d with
  | some nd => placeOk (leaving.foldl (fun s t => without s t.1) s) nd g
  | none => false

/-- The place of a pre-empted team is needed by a start of a higher priority (R144, R176). -/
def needed (s : State) (t : Team) : Bool :=
  (wants s (stackOfCore t.core)).any (fun d => decide ((s.ctx t.cons.ctx).prio < (s.ctx d.ctx).prio) &&
    kindOf s d.ctx d.img d.node == 0 && (coresFor s d.ctx d.tag (stackOfCore t.core) d.own).contains t.core && fitsOnceGone s d t.core)

/-- Where a pre-empted team may resume (R176, R177): in place while nothing of a higher priority needs it, or on the first
core that passes. A migrating team goes to the coolest one other than the core it left (R145): which that is is free.
DEDUCED, log 20. -/
def backPlace (s : State) (t : Team) : Option Nat :=
  match t.st, nodeOf s t.cons.ctx t.cons.img t.cons.node with
  | .stopped, _ => if t.migrate || needed s t then none else some t.core
  | .written, some nd =>
    let gs := (coresFor s t.cons.ctx t.cons.tag (stackOfCore t.core) none).filter (fun g => placeOk s nd g && !(t.migrate && g == t.core))
    if t.migrate then gs[Config.freeNat s.free 0x60000 % gs.length]? else gs.head?
  | _, _ => none

/-- The moves of a stack dispatcher with their order keys; new starts of a node yield to its own resumptions. -/
def movesOf (s : State) (sk : Nat) : List (List Nat × Move) :=
  let backs : List (List Nat × Nat × Move) := s.teams.filterMap (fun t =>
    let k := t.2.cons
    if stackOfCore t.2.core ≠ sk ∨ !runnable s k.ctx then none
    else match backPlace s t.2 with
      | some g => some (orderKey s k.ctx k.node k.recs, qidOf s k.ctx k.img k.node, .teamBack t.1 g)
      | none => none)
  let sbacks : List (List Nat × Nat × Move) := s.savedSeqs.zipIdx.filterMap (fun q =>
    let k := q.1.cons
    if q.1.stack ≠ sk ∨ !runnable s k.ctx then none
    else match groupPlaces s (savedGroup s q.1) [] with
      | some (n :: _) => some (orderKey s k.ctx k.node k.recs, qidOf s k.ctx k.img k.node, .progBack q.2 n)
      | _ => none)
  let old := backs ++ sbacks
  let fresh_ (c : Cand) : Bool := roomFor s c.ctx c.img c.node c.recs && !old.any (fun b => b.2.1 == c.qid)
  let teams : List (List Nat × Move) := (candsOf s sk 0).filterMap (fun c =>
    if !fresh_ c then none
    else match placeFor s c sk with
      | some g => some (orderKey s c.ctx c.node c.recs, .team c g)
      | none => none)
  let progs : List (List Nat × Move) := (candsOf s sk 3).filterMap (fun c =>
    if !fresh_ c then none
    else match freeSeqs s c.ctx c.tag sk with
      | n :: _ => some (orderKey s c.ctx c.node c.recs, .prog c n)
      | [] => none)
  old.map (fun b => (b.1, b.2.2)) ++ teams ++ progs

/-- The first of the moves (R131). -/
def bestMove (ms : List (List Nat × Move)) : Option Move :=
  match ms.foldl (fun (a : Option (List Nat × Move)) m => match a with
      | none => some m
      | some b => if lexLt m.1 b.1 then some m else some b) none with
  | some m => some m.2
  | none => none

/-! ### The start -/

/-- Take the reservation and the tokens of a batch (R128, R130). -/
def takeRoom (s : State) (c img node : Nat) (rs : List Rec) : State :=
  let s := (resTerms s c img node rs.length).foldl (fun s t =>
    updQueue s (qidOf s c img t.1.dst) (fun q => { q with rv := q.rv + t.2 })) s
  updCtx s c (fun x => { x with tokens := x.tokens - tokensFor s c img node rs })

/-- Give back the reservation and the tokens of a batch that does not start (R134). -/
def giveRoom (s : State) (c img node : Nat) (rs : List Rec) : State :=
  let s := (resTerms s c img node rs.length).foldl (fun s t =>
    updQueue s (qidOf s c img t.1.dst) (fun q => { q with rv := q.rv - t.2 })) s
  updCtx s c (fun x => { x with tokens := x.tokens + tokensFor s c img node rs })

/-- A consumer begins with the reservation and tokens taken for it: its records leave their launch's queued count, and a
consumer of its context runs in this interval (R143). -/
def beginCons (s : State) (c img node tag : Nat) (rs : List Rec) : State × Cons :=
  let ts := resTerms s c img node rs.length
  let s := updCtx (takeRecs s c tag node rs) c (fun x => { x with ran := true })
  let s := updLaunch s c tag (fun l => { l with running := bump node 1 l.running, stallFrom := none })
  (s, { ctx := c, img := img, node := node, tag := tag, recs := rs, contd := 0, start := s.aclk,
        resv := ts.foldl (fun (m : SMap Nat) t => SMap.set 0 t.1.port t.2 m) [] })

/-- A consumer takes its reservation and tokens and begins, in one step (R127-R130). -/
def takeCons (s : State) (c img node tag : Nat) (rs : List Rec) : State × Cons :=
  beginCons (takeRoom s c img node rs) c img node tag rs

/-- Records leave the halves; their blocks stay until their consumer exits (R119). -/
def unqueue (s : State) (qid : Nat) (rs : List Rec) : State :=
  let gone (r : Rec) : Bool := rs.any (fun t => t.id == r.id)
  updQueue s qid (fun q =>
    { q with half0 := { q.half0 with recs := q.half0.recs.filter (fun r => !gone r) }
             half1 := { q.half1 with recs := q.half1.recs.filter (fun r => !gone r) }
             lingered := q.lingered.filter (fun i => !rs.any (fun t => t.id == i)) })

/-- A wave as it starts (R152, R160, R166): threads in lanes 0 to n − 1 at the entry, everything else at its start value,
and in an access wave the words of each lane's record in v0 onward. -/
def mkWave (s : State) (g team : Nat) (k : Cons) (nd : NodeInfo) (idx : Nat) (rs : List Rec) (access : Bool) (entry : Nat)
    (pair : Option Nat) (res : Res) : Wave :=
  let n := rs.length
  let words : SMap Word := if !access then [] else
    (List.range (min 64 (recSize s k.ctx k.img k.node / 4))).flatMap (fun j =>
      (rs.take 64).zipIdx.filterMap (fun r =>
        let w := r.1.words.getD j 0
        if w = 0 then none else some (vKey j r.2, w)))
  { team := team, ctx := k.ctx, img := k.img, node := k.node, tag := k.tag, width := nd.width, n := n, idx := idx,
    access := access, pair := pair, recs := rs, v := words, w := [], m := SMap.set 0 0 (lowMask n) [], arr := [], x := [],
    tok := [], pcs := (List.range n).map (fun l => (l, { h := entry, i := 0, wait := none, ret := [] })), nstat := 0,
    spcount := 0, np := none, gen := 0, fences := [], qh := 0, qc := 0, qready := [], res := res,
    notReadySince := s.aclk, readySince := s.aclk, park := .no, ops := [], haz := [], cyc := coreEdges s g, begun := s.aclk,
    hint := false, yieldTo := none, stopped := false, keySince := none, run := none }

/-- A starting wave is resident where its allocation fits in the register file, and is recalled else (R164). -/
def startRes (s : State) (g : Nat) (nd : NodeInfo) (access : Bool) : Res :=
  if residentBytes s g + allocOf nd access ≤ fileBytes then .resident else .parked

/-- The lowest free slots of a core. -/
def freeSlots (s : State) (g : Nat) : List Nat :=
  (List.range 48).filterMap (fun j => if (SMap.find? s.waves (g * 48 + j)).isNone then some (g * 48 + j) else none)

/-- Start the wave of one batch, and its access wave, in a team. -/
def startWave (s : State) (g team : Nat) (k : Cons) (nd : NodeInfo) (idx : Nat) (rs : List Rec) : State :=
  match freeSlots s g, nd.access with
  | a :: b :: _, some e =>
    let s := s.setWave a (mkWave s g team k nd idx rs false nd.entry (some b) (startRes s g nd false))
    let s := s.setWave b (mkWave s g team k nd idx rs true e (some a) (startRes s g nd true))
    { s with teams := SMap.modify team (fun t => { t with waves := t.waves ++ [a, b] }) s.teams }
  | a :: _, none =>
    let s := s.setWave a (mkWave s g team k nd idx rs false nd.entry none (startRes s g nd false))
    { s with teams := SMap.modify team (fun t => { t with waves := t.waves ++ [a] }) s.teams }
  | _, _ => s

/-- Set a core's carve-out (R186, R187): the L1 writes back and drops what it holds when it changes. -/
def setCarve (s : State) (g loc : Nat) : State :=
  if SMap.get 0 s.carve g = loc then s
  else let s := l1Clear s g; { s with carve := SMap.set 0 g loc s.carve }

/-- The lowest free region of a core for a team with LOCAL (R186). -/
def freeRegion (s : State) (g loc : Nat) : Option Nat :=
  if loc = 0 then none
  else (List.range 2).find? (fun r => !(teamsOn s g).any (fun t => t.2.region == some r))

/-- A team of a consumer takes its place on a core (R127, R156). -/
def placeTeam (s : State) (k : Cons) (batches : List (List Rec)) (g : Nat) (nd : NodeInfo) : State :=
  let region := freeRegion s g nd.loc
  let s := setCarve s g nd.loc
  let id := s.nextId
  let t : Team := { cons := k, core := g, waves := [], ended := 0, sems := [], semAt := [], semq := [], cin := [], cout := [], locks := [],
                    mem := [], region := region, st := .running, migrate := false, saved := [], place := none }
  batches.zipIdx.foldl (fun s b => startWave s g id k nd b.2 b.1) (s.fresh.setTeam id t)

/-- A team starts on a core (R127). -/
def startTeam (s : State) (c : Cand) (g : Nat) : State :=
  match nodeAt s c with
  | none => s
  | some nd =>
    let r := takeCons (unqueue s c.qid c.recs) c.ctx c.img c.node c.tag c.recs
    placeTeam r.1 r.2 c.batches g nd

/-- A start would change the carve-out of a core whose writes a link holds up (R29, R186). -/
def carveWaits (s : State) (c : Cand) (g : Nat) : Bool :=
  match nodeAt s c with
  | some nd => SMap.get 0 s.carve g != nd.loc && releaseWaits s g
  | none => false

/-- TEAM_START (R127, R131): the dispatcher of stack sk starts its first candidate, where that is a new team. -/
def execTeamStart (sk : Nat) (s : State) : Host.Outcome State Fault Refusal :=
  match bestMove (movesOf s sk) with
  | some (.team c g) => .next (if carveWaits s c g then s else startTeam s c g)
  | _ => .next s

/-! ### The units of the engine blocks (R142, R254) -/

/-- The four cores above an engine block. -/
def coreOver (k j : Nat) : Nat := k / 24 * 96 + k % 24 * 4 + j

/-- The head of a core's FIFO of a kind, where it can start (R254): not in the cycle in which it
was written (R33). -/
def fifoHead (s : State) (k kind j : Nat) : Option (Nat × Nat × Nat × Rec) :=
  match fifoOf (s.vq (coreOver k j)) kind with
  | .item c img node r :: _ => if decide (r.arr < s.aclk) && runnable s c && roomFor s c img node [r] then some (c, img, node, r) else none
  | _ => none

/-- A unit of block k can take an input: the traversal unit not while a replayed record goes first or its park store is
full (R274). -/
def unitOpen (s : State) (k kind : Nat) : Bool :=
  kind == 1 || ((s.engine k).ready == [] && decide ((s.engine k).parkV.length ≤ 32))

/-- A unit of block k has nothing of its own cores to start. -/
def unitIdle (s : State) (k kind : Nat) : Bool := unitOpen s k kind && (List.range 4).all (fun j => (fifoHead s k kind j).isNone)

/-- The block on which the dispatcher starts a record (R142): the lowest cluster that is free, or, with none idle, the
lowest whose unit takes inputs. -/
def freeBlock (s : State) (c : Cand) (sk kind : Nat) : Option Nat :=
  match launchOf s c.ctx c.tag with
  | none => none
  | some l =>
    match (clusterSet s l sk).find? (fun k => unitIdle s k kind) with
    | some k => some k
    | none => (clusterSet s l sk).find? (fun k => unitOpen s k kind)

/-! ### Stealing (R134) -/

/-- The oldest eligible untagged batch a queue's half offers on a stack, as a candidate of one batch. -/
def stealable (s : State) (qid sk : Nat) : Option Cand :=
  match SMap.find? s.queues qid with
  | none => none
  | some q =>
    match imageOf s q.ctx q.img, nodeOf s q.ctx q.img q.node with
    | some im, some nd =>
      if nd.kind ≠ 0 ∨ !runnable s q.ctx ∨ (q.half sk).st ≠ .mapped then none
      else
        ((teamCands s qid q nd im sk).map (fun c => { c with batches := c.batches.take 1 })).foldl (fun (a : Option Cand) c =>
          match a with
          | none => some c
          | some b => if lexLt (orderKey s c.ctx c.node c.recs) (orderKey s b.ctx b.node b.recs) then some c else some b) none
    | _, _ => none

/-- The dispatcher of a stack has no eligible batch that it could start, of any kind. -/
def nothingToStart (s : State) (sk : Nat) : Bool :=
  (movesOf s sk).all (fun m => match m.2 with | .team _ _ => false | .prog _ _ => false | _ => true) &&
    [1, 2].all (fun kind => (candsOf s sk kind).all (fun c => !roomFor s c.ctx c.img c.node c.recs ||
      (freeBlock s c sk kind).isNone))

/-- A stolen batch as a candidate. -/
def Steal.cand (t : Steal) : Cand :=
  { qid := t.qid, ctx := t.ctx, img := t.img, node := t.node, tag := t.tag, batches := [t.recs], own := none }

def setSteal (s : State) (t : Steal) (u : Option Steal) : State :=
  let rest := s.steals.filter (fun x => x != t)
  { s with steals := match u with | some u => rest ++ [u] | none => rest }

/-- Step 1: the thief takes the reservation and the tokens. -/
def beginSteal (s : State) (sk qid : Nat) : State :=
  if sk > 1 || !nothingToStart s sk then s
  else match stealable s qid (1 - sk) with
  | none => s
  | some c =>
    if (placeFor s c sk).isSome && roomFor s c.ctx c.img c.node c.recs then
      let s := takeRoom s c.ctx c.img c.node c.recs
      { s with steals := s.steals ++ [{ sk := sk, qid := qid, ctx := c.ctx, img := c.img, node := c.node, tag := c.tag,
                                        recs := c.recs, crossed := false }] }
    else s

/-- Step 2: the request reaches the other stack, which removes the batch, unless it has begun to start it: its own start
wins, and the thief gives back what it took. -/
def crossSteal (s : State) (t : Steal) : State :=
  let half := match SMap.find? s.queues t.qid with | some q => (q.half (1 - t.sk)).recs | none => []
  if t.recs.all (fun r => half.any (fun u => u.id == r.id)) then
    if pathWaits s (1 - t.sk) t.sk then s else setSteal (unqueue s t.qid t.recs) t (some { t with crossed := true })
  else setSteal (giveRoom s t.ctx t.img t.node t.recs) t none

/-- Step 4: the batch starts on the thief's core. -/
def endSteal (s : State) (t : Steal) : State :=
  match nodeAt s t.cand, placeFor s t.cand t.sk with
  | some nd, some g =>
    if !runnable s t.ctx then s
    else
      let r := beginCons (setSteal s t none) t.ctx t.img t.node t.tag t.recs
      placeTeam r.1 r.2 [t.recs] g nd
  | _, _ => s

/-- BATCH_STEAL (R134): the next step of a steal from queue q by the dispatcher of stack sk: one at a time. -/
def execBatchSteal (sk qid : Nat) (s : State) : Host.Outcome State Fault Refusal :=
  match s.steals.find? (fun t => t.sk == sk && t.qid == qid) with
  | none => .next (beginSteal s sk qid)
  | some t => .next (if t.crossed then endSteal s t else crossSteal s t)

/-- The q registers of a starting program (R402): the record in 8-byte words. -/
def recQ (ws : List Word) : SMap DWord :=
  (List.range ((ws.length + 1) / 2)).foldl (fun (m : SMap DWord) j =>
    SMap.set 0 j (BitVec.ofNat 64 ((ws.getD (2 * j) 0).toNat + (ws.getD (2 * j + 1) 0).toNat * 2 ^ 32)) m) []

/-- A program starts on a sequencer (R402). -/
def startProg (s : State) (c : Cand) (k : Nat) : State :=
  match nodeAt s c, c.recs with
  | some nd, r :: _ =>
    let (s, cons) := takeCons (unqueue s c.qid c.recs) c.ctx c.img c.node c.tag c.recs
    s.setSeq k
      { cons := cons, stack := k / 24, q := recQ r.words, h := nd.entry, i := 0, run := none, ret := [], tok := [], gets := [], tiles := [],
        tst := [], acc := [], subs := [], nstat := 0, mctl := false, bind := 0, tripos := 0, trival := 0, latch := none,
        grp := none, syncing := false, queue := [], rel := [], park := .no, haz := [], cyc := s.aclk,
        done := false, bad := [], place := none }
  | _, _ => s

/-- SEQUENCER_PROGRAM_START (R142, R402): as TEAM_START, for a new program. -/
def execSequencerProgramStart (sk : Nat) (s : State) : Host.Outcome State Fault Refusal :=
  match bestMove (movesOf s sk) with
  | some (.prog c k) => .next (startProg s c k)
  | _ => .next s

end Sys2Proof.Machine
end

