-- ==== Sys2Proof/Machine/Sampler.lean ====
section
/-!
DEFINITION. The arithmetic of the texture sampler (R263-R267), on exact rationals: descriptors, levels of detail, the
texels a lane reads with their weights, and the results.
-/

namespace Sys2Proof.Machine

/-! ### Exact values -/

/-- A real, an infinity, or no number. -/
inductive XR
  | nan
  | inf (neg : Bool)
  | fin (r : Rat)
  deriving DecidableEq, Repr

/-- The value of a code of a format. -/
def xrOf (t : Fmt) (x : Nat) : XR :=
  match fDecode t x with
  | .nan => .nan
  | .inf n => .inf n
  | .fin n p q => .fin (if n then -(mkRat p q) else mkRat p q)

def xr32 (w : Word) : XR := xrOf fp32 w.toNat

/-- RoundFP to FP32 (R231); an exact 0 gives +0. -/
def rnd32 (mode : Rm) (r : Rat) : Nat := (roundFP fp32 mode false (decide (r < 0)) r.num.natAbs r.den).1

/-- RoundHalfEven to an integer (R16). -/
def rne (r : Rat) : Int :=
  let m := roundInt .ne false r.num.natAbs r.den
  if r < 0 then -(m : Int) else m

/-- A value as FP32, infinities and NaN kept. -/
def encXR (mode : Rm) (x : XR) : Nat :=
  match x with
  | .nan => fp32.nan
  | .inf n => fp32.infCode + (if n then fp32.sign else 0)
  | .fin r => rnd32 mode r

/-- A weighted sum with positive weights (R265). -/
def wsum (ts : List (Rat × XR)) : XR :=
  if ts.any (fun t => t.2 == .nan) then .nan
  else
    let pos := ts.any (fun t => t.2 == .inf false)
    let neg := ts.any (fun t => t.2 == .inf true)
    if pos && neg then .nan
    else if pos then .inf false
    else if neg then .inf true
    else .fin (ts.foldl (fun a t => match t.2 with | .fin r => a + t.1 * r | _ => a) 0)

/-! ### Descriptors (R263) -/

structure Texture where
  base   : Nat
  width  : Nat
  height : Nat
  layers : Nat
  levels : Nat
  fmt    : Nat
  deriving DecidableEq, Repr

def fieldOf (bs : List Byte) (off n : Nat) : Nat := natOfBytes ((bs.drop off).take n)

/-- A texture descriptor, or none for F_TEX_DESC. -/
def textureOf (bs : List Byte) : Option Texture :=
  let t : Texture := { base := fieldOf bs 0 8, width := fieldOf bs 8 2 + 1, height := fieldOf bs 10 2 + 1,
                       layers := fieldOf bs 12 2 + 1, levels := fieldOf bs 14 1 + 1, fmt := fieldOf bs 15 1 }
  if t.base % 256 ≠ 0 ∨ 2 ^ 52 ≤ t.base ∨ t.width > 16384 ∨ t.height > 16384 ∨ t.layers > 2048 ∨ t.levels > 15 ∨
      max t.width t.height < 2 ^ (t.levels - 1) ∨ t.fmt = 0 ∨ t.fmt > 7 ∨ fieldOf bs 16 16 ≠ 0 then none
  else some t

structure Sampler where
  mag    : Nat
  min    : Nat
  mip    : Nat
  au     : Nat
  av     : Nat
  aniso  : Nat
  border : Bool
  bias   : XR
  lo     : XR
  hi     : XR
  deriving DecidableEq, Repr

def xrLt (a b : XR) : Bool :=
  match a, b with
  | .fin x, .fin y => decide (x < y)
  | .inf true, .inf true => false
  | .inf true, .nan => false
  | .inf true, _ => true
  | .fin _, .inf false => true
  | _, _ => false

/-- A sampler descriptor, or none for F_TEX_DESC. -/
def samplerOf (bs : List Byte) : Option Sampler :=
  let w := fieldOf bs 0 4
  let f (off : Nat) : XR := xrOf fp32 (fieldOf bs off 4)
  let s : Sampler := { mag := bits w 0 2, min := bits w 2 2, mip := bits w 4 2, au := bits w 6 3, av := bits w 9 3,
                       aniso := bits w 12 3, border := bit w 15, bias := f 4, lo := f 8, hi := f 12 }
  if s.mag > 1 ∨ s.min > 1 ∨ s.mip > 2 ∨ s.au > 3 ∨ s.av > 3 ∨ s.aniso > 4 ∨ 2 ^ 16 ≤ w ∨ s.bias = .nan ∨ s.lo = .nan ∨
      s.hi = .nan ∨ xrLt s.lo (.fin 0) ∨ xrLt s.hi s.lo then none
  else some s

/-! ### Texels (R263, R264) -/

def texelBytes (fmt : Nat) : Nat :=
  match fmt with | 1 => 1 | 2 => 4 | 3 => 4 | 4 => 2 | 5 => 8 | 6 => 4 | _ => 16

def Texture.w (t : Texture) (l : Nat) : Nat := max 1 (t.width / 2 ^ l)
def Texture.h (t : Texture) (l : Nat) : Nat := max 1 (t.height / 2 ^ l)
def Texture.pitch (t : Texture) (l : Nat) : Nat := ceilDiv (t.w l * texelBytes t.fmt) 256 * 256

/-- The address of texel (i, j) of a level and layer. -/
def Texture.addr (t : Texture) (l layer i j : Nat) : Nat :=
  let start := (List.range l).foldl (fun a k => a + t.pitch k * t.h k * t.layers) t.base
  start + layer * (t.pitch l * t.h l) + j * t.pitch l + i * texelBytes t.fmt

/-- The EOTF of IEC 61966-2-1, rounded to FP32, nearest even (PRESUMED: the standard is outside the spec). The power 12 / 5
is taken by a fifth root to 200 binary digits and a sticky one. -/
def iroot5 (n : Nat) : Nat :=
  (List.range (Nat.log2 n / 5 + 1)).foldr (fun j r => let c := r + 2 ^ j; if c ^ 5 ≤ n then c else r) 0

def eotf (r : Rat) : Nat :=
  if r ≤ 4045 / 100000 then rnd32 .ne (r / (1292 / 100))
  else
    let a := ((r + 55 / 1000) / (1055 / 1000)) ^ 12
    let n := a.num.natAbs * 2 ^ 1000 / a.den
    let root := iroot5 n
    if root ^ 5 * a.den = a.num.natAbs * 2 ^ 1000 then rnd32 .ne (mkRat root (2 ^ 200))
    else rnd32 .ne (mkRat (2 * root + 1) (2 ^ 201))

/-- The four channels of a texel's bytes; `late` leaves sRGB colours as they are stored (R267, N1). -/
def channels (fmt : Nat) (late : Bool) (bs : List Byte) : List XR :=
  let u (k : Nat) : XR := .fin (mkRat (fieldOf bs k 1) 255)
  let c (k : Nat) : XR := if late then u k else xrOf fp32 (eotf (mkRat (fieldOf bs k 1) 255))
  let h (k : Nat) : XR := xrOf fp16 (fieldOf bs (2 * k) 2)
  let f (k : Nat) : XR := xrOf fp32 (fieldOf bs (4 * k) 4)
  match fmt with
  | 1 => [u 0, .fin 0, .fin 0, .fin 1]
  | 2 => [u 0, u 1, u 2, u 3]
  | 3 => [c 0, c 1, c 2, u 3]
  | 4 => [h 0, .fin 0, .fin 0, .fin 1]
  | 5 => [h 0, h 1, h 2, h 3]
  | 6 => [f 0, .fin 0, .fin 0, .fin 1]
  | _ => [f 0, f 1, f 2, f 3]

/-- An address mode on a row or column of n texels; none is the border (R264). -/
def addrMode (mode : Nat) (i : Int) (n : Nat) : Option Nat :=
  match mode with
  | 0 => some (i % (n : Int)).toNat
  | 1 =>
    let m := (i % (2 * n : Int)).toNat
    some (if m < n then m else 2 * n - 1 - m)
  | 2 => some (max 0 (min i ((n : Int) - 1))).toNat
  | _ => if 0 ≤ i ∧ i < n then some i.toNat else none

/-- A texel to read, or the border. -/
abbrev TexRef := Option (Nat × Nat × Nat)

def refAt (t : Texture) (sm : Sampler) (l : Nat) (i j : Int) : TexRef :=
  match addrMode sm.au i (t.w l), addrMode sm.av j (t.h l) with
  | some a, some b => some (l, a, b)
  | _, _ => none

/-! ### Filtering (R265, R267) -/

/-- P and Q of the mode table. -/
def weightBits (mode : Nat) : Nat := if mode = 1 then 6 else 8
def levelBits (mode : Nat) : Nat := match mode with | 1 => 4 | 2 => 5 | _ => 8
def channelRm (mode : Nat) : Rm := if mode = 1 then .rz else .ne
/-- log2 of the largest anisotropy. -/
def maxAniso (mode aniso : Nat) : Nat := match mode with | 1 => 0 | 2 => min aniso 3 | _ => aniso

/-- The square of a gradient's length (R267). -/
def lenSq (mode : Nat) (x y : Rat) : Rat :=
  if mode ≤ 2 then (abs x + abs y) * (abs x + abs y) else x * x + y * y

/-- log2 of a positive dyadic number: exact for a power of two, else to 384 digits. -/
def log2Rat (r : Rat) : Rat :=
  let e := ilog r.num.natAbs r.den
  let m := if 0 ≤ e then r / (2 ^ e.toNat : Nat) else r * (2 ^ (-e).toNat : Nat)
  (e : Rat) + mkRat (log2Frac m.num.natAbs (Nat.log2 m.den)) (2 ^ prec)

/-- λ, N as a power of two, and the gradient of the taps (none where it is not finite). -/
structure Lod where
  lam  : XR
  log2n : Nat
  grad : Option (Rat × Rat)
  deriving DecidableEq, Repr

/-- Lod of R265. `pick` chooses N where the spec gives no ratio (a NaN gradient, or both lengths infinite). -/
def lodOf (mode : Nat) (t : Texture) (sm : Sampler) (pick : Nat) (dudx dvdx dudy dvdy : XR) : Lod :=
  let top := maxAniso mode sm.aniso
  match dudx, dvdx, dudy, dvdy with
  | .fin a, .fin b, .fin c, .fin d =>
    let rx := lenSq mode (a * t.width) (b * t.height)
    let ry := lenSq mode (c * t.width) (d * t.height)
    let (hi, lo, g) := if ry ≤ rx then (rx, ry, (a, b)) else (ry, rx, (c, d))
    let n := if lo = 0 then top else ((List.range (top + 1)).find? (fun k => decide (hi ≤ lo * (4 ^ k : Nat)))).getD top
    { lam := if hi = 0 then .inf true else .fin (log2Rat hi / 2 - n), log2n := n, grad := some g }
  | _, _, _, _ =>
    let inf (x : XR) : Bool := match x with | .inf _ => true | _ => false
    let anyNan := [dudx, dvdx, dudy, dvdy].contains .nan
    let both := (inf dudx || inf dvdx) && (inf dudy || inf dvdy)
    { lam := .inf false, log2n := if anyNan || both then pick % (top + 1) else top, grad := none }

/-- LevelOf of R265: the clamped level in Q fraction bits. A bound below MIN_LOD wins, since no level lies above
LEVELS_M1. `pick` stands for a sum of opposite infinities, whose value the spec does not state. -/
def levelOf (mode : Nat) (t : Texture) (sm : Sampler) (pick : Nat) (lam : XR) : Rat :=
  let q : Rat := (2 ^ levelBits mode : Nat)
  let hi : Rat := match sm.hi with | .fin h => min h (t.levels - 1 : Nat) | _ => (t.levels - 1 : Nat)
  let sum : XR := match lam, sm.bias with
    | .fin a, .fin b => .fin (a + b)
    | .inf a, .inf b => if a = b then .inf a else .fin (mkRat pick (2 ^ levelBits mode))
    | .inf a, _ => .inf a
    | _, .inf b => .inf b
    | _, _ => .inf false
  let lo : Rat := match sm.lo with | .fin l => l | _ => hi
  let x : Rat := match sum with | .fin r => min (max r lo) hi | .inf true => min lo hi | _ => hi
  ((x * q).floor : Rat) / q

/-- Bilinear of R265: weights and texels, without those of weight 0. -/
def bilinear (mode : Nat) (t : Texture) (sm : Sampler) (l : Nat) (u v : Rat) : List (Rat × TexRef) :=
  let n : Int := 2 ^ weightBits mode
  let x := u * t.w l - 1 / 2
  let y := v * t.h l - 1 / 2
  let a := rne ((x - x.floor) * n)
  let b := rne ((y - y.floor) * n)
  let (i, a) := if a = n then (x.floor + 1, 0) else (x.floor, a)
  let (j, b) := if b = n then (y.floor + 1, 0) else (y.floor, b)
  let ws : List (Int × Int × Int) := [((n - a) * (n - b), 0, 0), (a * (n - b), 1, 0), ((n - a) * b, 0, 1), (a * b, 1, 1)]
  (ws.filter (fun w => w.1 != 0)).map (fun w => (((w.1 : Rat) / (n * n : Int)), refAt t sm l (i + w.2.1) (j + w.2.2)))

def nearest (t : Texture) (sm : Sampler) (l : Nat) (u v : Rat) : List (Rat × TexRef) :=
  [(1, refAt t sm l (u * t.w l).floor (v * t.h l).floor)]

/-- The levels read and their weights, by MIP (R265). -/
def mipLevels (sm : Sampler) (lq : Rat) : List (Nat × Rat) :=
  match sm.mip with
  | 0 => [(0, 1)]
  | 1 => [((lq + 1 / 2).floor.toNat, 1)]
  | _ =>
    let f := lq - lq.floor
    (if f = 0 then [] else [(lq.floor.toNat + 1, f)]) ++ [(lq.floor.toNat, 1 - f)]

/-- The weighted texels of one lane of TEX.SAMPLE, or none where a coordinate is not finite (R265). -/
def samplePlan (mode : Nat) (t : Texture) (sm : Sampler) (pick : Nat) (u v : XR) (lod : Lod) : Option (List (Rat × TexRef)) :=
  match u, v with
  | .fin u, .fin v =>
    let lq := levelOf mode t sm pick lod.lam
    let linear := if lq ≤ 0 then sm.mag == 1 else sm.min == 1
    let at_ (u v w : Rat) : List (Rat × TexRef) := (mipLevels sm lq).flatMap (fun l =>
      (if linear then bilinear mode t sm l.1 u v else nearest t sm l.1 u v).map (fun x => (x.1 * l.2 * w, x.2)))
    if lod.log2n = 0 then some (at_ u v 1)
    else match lod.grad with
      | none => none
      | some (gu, gv) =>
        let n := 2 ^ lod.log2n
        some ((List.range n).flatMap (fun (k : Nat) =>
          let o : Rat := ((k : Rat) + 1 / 2) / n - 1 / 2
          at_ (u + o * gu) (v + o * gv) (1 / n)))
  | _, _ => none

/-- The four texels of TEX.GATHER in their order (R266). -/
def gatherPlan (t : Texture) (sm : Sampler) (u v : XR) : Option (List TexRef) :=
  match u, v with
  | .fin u, .fin v =>
    let i := (u * t.width - 1 / 2).floor
    let j := (v * t.height - 1 / 2).floor
    some [refAt t sm 0 i j, refAt t sm 0 (i + 1) j, refAt t sm 0 i (j + 1), refAt t sm 0 (i + 1) (j + 1)]
  | _, _ => none

/-- The texel of TEX.LOAD, or none out of range (R266). -/
def loadPlan (t : Texture) (i j : Int) (l : Nat) : Option (Nat × Nat × Nat) :=
  if l < t.levels ∧ 0 ≤ i ∧ i < t.w l ∧ 0 ≤ j ∧ j < t.h l then some (l, i.toNat, j.toNat) else none

/-- N1 decodes the colours of an sRGB texture after filtering (R267). -/
def lateSrgb (mode fmt : Nat) : Bool := mode == 1 && fmt == 3

/-- A channel's result (R267): rounded once; for late sRGB colours decoded after that. -/
def channelCode (mode fmt k : Nat) (x : XR) : Nat :=
  let c := encXR (channelRm mode) x
  if lateSrgb mode fmt && decide (k < 3) then (match xrOf fp32 c with | .fin r => eotf r | _ => c) else c

end Sys2Proof.Machine
end

