-- ==== Sys2Proof/Machine/Tracer.lean ====
section
/-!
DEFINITION. The exact tests of the ray traversal unit (R270, R272) and the coverage of the rasteriser (R259-R261).
-/

namespace Sys2Proof.Machine

/-! ### Node references (R270) -/

def refAddr (e : Nat) : Nat := bits e 6 46 * 64
def refLevel (e : Nat) : Nat := bits e 3 1
def refType (e : Nat) : Nat := bits e 0 3
def refWithLevel (e l : Nat) : Nat := e - refLevel e * 8 + l * 8

/-- A reference has a reserved bit set, or a reserved type (R270). -/
def refReserved (e : Nat) : Bool := bits e 52 12 != 0 || bits e 4 2 != 0 || decide (refType e > 4)

/-- The reference of a node that is fetched breaks R270: it is reserved, or its address is misaligned for its type. -/
def refBad (e : Nat) : Bool := refReserved e || ((refType e == 1 || refType e == 4) && refAddr e % 128 != 0)

/-- A reference in a fetched node breaks R270; its address is judged when its own node is fetched. -/
def memRefBad (e : Nat) : Bool := refReserved e || refLevel e != 0

/-- Size of a node. -/
def nodeSize (ty : Nat) : Nat := if ty = 1 ∨ ty = 4 then 128 else 64

/-- A fetched node breaks R270. -/
def nodeBad (ty : Nat) (bs : List Byte) : Bool :=
  match ty with
  | 1 => (List.range 4).any (fun j => memRefBad (fieldOf bs (0x60 + 8 * j) 8))
  | 2 => fieldOf bs 0x28 24 != 0
  | 3 => fieldOf bs 0x1C 4 != 0 || fieldOf bs 0x28 24 != 0
  | 4 => memRefBad (fieldOf bs 0x30 8) || fieldOf bs 0x3D 67 != 0
  | _ => false

/-! ### Rays (R272) -/

/-- A ray with finite origin and direction, and its interval. -/
structure Ray where
  o    : Rat × Rat × Rat
  d    : Rat × Rat × Rat
  tmin : XR
  tmax : XR
  deriving DecidableEq, Repr

def f32At (bs : List Byte) (off : Nat) : XR := xrOf fp32 (fieldOf bs off 4)

/-- Three finite values. -/
def vec3 (a b c : XR) : Option (Rat × Rat × Rat) :=
  match a, b, c with | .fin x, .fin y, .fin z => some (x, y, z) | _, _, _ => none

/-- The ray of a record, or none where every test misses. -/
def rayOf (bs : List Byte) : Option Ray :=
  match vec3 (f32At bs 0) (f32At bs 4) (f32At bs 8), vec3 (f32At bs 16) (f32At bs 20) (f32At bs 24) with
  | some o, some d =>
    if f32At bs 12 = .nan ∨ f32At bs 28 = .nan then none
    else some { o := o, d := d, tmin := f32At bs 12, tmax := f32At bs 28 }
  | _, _ => none

/-- A component of a transformed vector: the exact product, rounded to FP32; none where it is not finite. -/
def rowDot (bs : List Byte) (r : Nat) (v : Rat × Rat × Rat) (w : Rat) : XR :=
  match f32At bs (16 * r), f32At bs (16 * r + 4), f32At bs (16 * r + 8), f32At bs (16 * r + 12) with
  | .fin a, .fin b, .fin c, .fin d => xrOf fp32 (rnd32 .ne (a * v.1 + b * v.2.1 + c * v.2.2 + d * w))
  | _, _, _, _ => .nan

/-- The ray in the space of an instance (R272). -/
def Ray.into (ray : Ray) (inst : List Byte) : Option Ray :=
  match vec3 (rowDot inst 0 ray.o 1) (rowDot inst 1 ray.o 1) (rowDot inst 2 ray.o 1),
    vec3 (rowDot inst 0 ray.d 0) (rowDot inst 1 ray.d 0) (rowDot inst 2 ray.d 0) with
  | some o, some d => some { ray with o := o, d := d }
  | _, _ => none

def xrMax (a b : XR) : XR := if xrLt a b then b else a
def xrMin (a b : XR) : XR := if xrLt b a then b else a

/-- (bound − o) / d, the bound extended. -/
def slabT (b : XR) (o d : Rat) : XR :=
  match b with
  | .fin x => .fin ((x - o) / d)
  | .inf n => .inf (if d < 0 then !n else n)
  | .nan => .nan

/-- The part of an interval of t inside one pair of bounds, or none. -/
def slab (iv : Option (XR × XR)) (lo hi : XR) (o d : Rat) : Option (XR × XR) :=
  match iv with
  | none => none
  | some (a, b) =>
    if lo = .inf false ∨ hi = .inf true then none
    else if d = 0 then (if xrLt (.fin o) lo ∨ xrLt hi (.fin o) then none else some (a, b))
    else
      let (n, f) := if 0 < d then (slabT lo o d, slabT hi o d) else (slabT hi o d, slabT lo o d)
      some (xrMax a n, xrMin b f)

/-- The least t at which a ray meets a closed box given at a byte offset, if it does. -/
def boxHit (ray : Ray) (bs : List Byte) (off : Nat) : Option XR :=
  let b (k : Nat) : XR := f32At bs (off + 4 * k)
  if (List.range 6).any (fun k => b k == .nan) then none
  else
    let iv := slab (slab (slab (some (ray.tmin, ray.tmax)) (b 0) (b 3) ray.o.1 ray.d.1) (b 1) (b 4) ray.o.2.1 ray.d.2.1)
      (b 2) (b 5) ray.o.2.2 ray.d.2.2
    match iv with
    | some (n, f) => if xrLt f n ∨ n = .inf false ∨ f = .inf true then none else some n
    | none => none

abbrev V3 := Rat × Rat × Rat
def vsub (a b : V3) : V3 := (a.1 - b.1, a.2.1 - b.2.1, a.2.2 - b.2.2)
def vdot (a b : V3) : Rat := a.1 * b.1 + a.2.1 * b.2.1 + a.2.2 * b.2.2
def vcross (a b : V3) : V3 := (a.2.1 * b.2.2 - a.2.2 * b.2.1, a.2.2 * b.1 - a.1 * b.2.2, a.1 * b.2.1 - a.2.1 * b.1)

/-- The triangle test of R272: back-facing, t, u and v exactly. -/
def triHit (ray : Ray) (bs : List Byte) (cull : Bool) : Option (Bool × Rat × Rat × Rat) :=
  let p (k : Nat) : Option V3 := vec3 (f32At bs (12 * k)) (f32At bs (12 * k + 4)) (f32At bs (12 * k + 8))
  match p 0, p 1, p 2 with
  | some a, some b, some c =>
    let e1 := vsub b a
    let e2 := vsub c a
    let nd := vdot (vcross e1 e2) ray.d
    if nd = 0 then none
    else
      let s := vsub ray.o a
      let h := vcross ray.d e2
      let det := vdot e1 h
      let q := vcross s e1
      let u := vdot s h / det
      let v := vdot ray.d q / det
      let t := vdot e2 q / det
      if (cull ∧ 0 < nd) ∨ u < 0 ∨ v < 0 ∨ 1 < u + v ∨ xrLt (.fin t) ray.tmin ∨ xrLt ray.tmax (.fin t) then none
      else some (decide (0 < nd), t, u, v)
  | _, _, _ => none

/-! ### Coverage (R259-R261) -/

/-- A triangle record as the rasteriser reads it. -/
structure Tri where
  x    : List Int
  y    : List Int
  z    : List Rat
  sx0  : Nat
  sy0  : Nat
  sx1  : Nat
  sy1  : Nat
  flags : Nat
  deriving DecidableEq, Repr

/-- A triangle record, or none for F_RASTER_RECORD (R259). -/
def triOf (bs : List Byte) : Option Tri :=
  let f (k j : Nat) : XR := f32At bs (12 * k + 4 * j)
  let s (off : Nat) : Nat := fieldOf bs off 2
  let vs := [0, 1, 2].filterMap (fun k => vec3 (f k 0) (f k 1) (f k 2))
  let far (r : Rat) : Bool := decide (r < -16384 ∨ 16384 < r)
  if vs.length ≠ 3 ∨ vs.any (fun v => far v.1 || far v.2.1) ∨ fieldOf bs 0x34 4 ≥ 8 ∨ s 0x30 < s 0x2C ∨ s 0x32 < s 0x2E ∨
      s 0x2C > 16383 ∨ s 0x2E > 16383 ∨ s 0x30 > 16383 ∨ s 0x32 > 16383 then none
  else some { x := vs.map (fun v => rne (v.1 * 256)), y := vs.map (fun v => rne (v.2.1 * 256)), z := vs.map (fun v => v.2.2),
              sx0 := s 0x2C, sy0 := s 0x2E, sx1 := s 0x30, sy1 := s 0x32, flags := fieldOf bs 0x34 4 }

/-- Edge function i at a point in 1/256 pixel: from vertex i + 1 to vertex i + 2 (R260). -/
def Tri.edge (t : Tri) (i : Nat) (px py : Int) : Int :=
  let a := (i + 1) % 3
  let b := (i + 2) % 3
  (t.x.getD b 0 - t.x.getD a 0) * (py - t.y.getD a 0) - (t.y.getD b 0 - t.y.getD a 0) * (px - t.x.getD a 0)

def Tri.area (t : Tri) : Int := t.edge 0 0 0 + t.edge 1 0 0 + t.edge 2 0 0

/-- Edge i is a top or left edge, in the direction that the facing gives. -/
def Tri.topLeft (t : Tri) (i : Nat) : Bool :=
  let a := (i + 1) % 3
  let b := (i + 2) % 3
  let s : Int := if 0 < t.area then 1 else -1
  let dx := s * (t.x.getD b 0 - t.x.getD a 0)
  let dy := s * (t.y.getD b 0 - t.y.getD a 0)
  (dy == 0 && decide (0 < dx)) || decide (dy < 0)

/-- A sample point is covered (R260). -/
def Tri.covers (t : Tri) (px py : Int) : Bool :=
  let s : Int := if 0 < t.area then 1 else -1
  (List.range 3).all (fun i => let e := s * t.edge i px py; decide (0 < e) || (e == 0 && t.topLeft i))

/-- Sample points of a pixel. -/
def samplesOf (ms4 : Bool) : List (Int × Int) :=
  if ms4 then [(96, 32), (224, 96), (32, 160), (160, 224)] else [(128, 128)]

/-- COVER of the quad at (x, y) (R261). -/
def Tri.cover (t : Tri) (x y : Int) : Nat :=
  (List.range 4).foldl (fun a p =>
    let px := x + (p % 2 : Nat)
    let py := y + (p / 2 : Nat)
    if px < t.sx0 ∨ (t.sx1 : Int) < px ∨ py < t.sy0 ∨ (t.sy1 : Int) < py then a
    else (samplesOf (bit t.flags 2)).zipIdx.foldl (fun a k =>
      if t.covers (px * 256 + k.1.1) (py * 256 + k.1.2) then a + 2 ^ (4 * p + k.2) else a) a) 0

def minL (l : List Int) : Int := l.foldl min (l.headD 0)
def maxL (l : List Int) : Int := l.foldl max (l.headD 0)

/-- Even origins of the quads between two pixels. -/
def quadRange (lo hi : Int) : List Int :=
  let first := lo / 2 * 2
  (List.range ((hi - first) / 2 + 1).toNat).map (fun (k : Nat) => first + 2 * (k : Int))

/-- The quads that meet the scissor and the bounding box, in visiting order (R261). -/
def Tri.quads (t : Tri) : List (Int × Int) :=
  let x0 := max (minL t.x / 256) t.sx0
  let x1 := min (maxL t.x / 256) t.sx1
  let y0 := max (minL t.y / 256) t.sy0
  let y1 := min (maxL t.y / 256) t.sy1
  if x1 < x0 ∨ y1 < y0 then []
  else (quadRange y0 y1).flatMap (fun y => (quadRange x0 x1).map (fun x => (x, y)))

/-- Nothing is emitted: no area, or culled (R260). -/
def Tri.culled (t : Tri) : Bool :=
  t.area == 0 || (bit t.flags 0 && decide (0 < t.area)) || (bit t.flags 1 && decide (t.area < 0))

/-- A quad record (R261). -/
def Tri.quadBytes (t : Tri) (rec_ : List Byte) (x y : Int) (cover : Nat) : List Byte :=
  let a : Rat := t.area
  let at_ (p i : Nat) : Rat := (t.edge i ((x + (p % 2 : Nat)) * 256 + 128) ((y + (p / 2 : Nat)) * 256 + 128) : Int)
  let bary (p : Nat) : List Byte := bytesOf 4 (rnd32 .ne (at_ p 1 / a)) ++ bytesOf 4 (rnd32 .ne (at_ p 2 / a))
  let z (p : Nat) : List Byte :=
    bytesOf 4 (rnd32 .ne ((at_ p 0 * t.z.getD 0 0 + at_ p 1 * t.z.getD 1 0 + at_ p 2 * t.z.getD 2 0) / a))
  bytesOf 2 x.toNat ++ bytesOf 2 y.toNat ++ bytesOf 2 cover ++ bytesOf 1 (if 0 < t.area then 0 else 1) ++ [0] ++
    (rec_.drop 0x24).take 8 ++ (rec_.drop 0x38).take 8 ++ (List.range 4).flatMap bary ++ (List.range 4).flatMap z

/-- The quads that are emitted, as records, in order. -/
def Tri.emits (t : Tri) (rec_ : List Byte) : List (List Byte) :=
  if t.culled then []
  else t.quads.filterMap (fun q =>
    let c := t.cover q.1 q.2
    if c = 0 then none else some (t.quadBytes rec_ q.1 q.2 c))

end Sys2Proof.Machine
end

