-- ==== Sys2Proof/Machine/Engines.lean ====
section
/-!
DEFINITION. The engine blocks (R253-R274): the sampler, the rasteriser and the traversal unit take entries of the four cores
above them in turn, and what the dispatcher starts on them as a fifth source.
-/

namespace Sys2Proof.Machine

def setEngine (s : State) (k : Nat) (e : Engine) : State := { s with engines := SMap.set Engine.reset k e s.engines }

/-- An engine block runs while its foundation die does. -/
def engineOn (s : State) (k : Nat) : Bool := s.power && s.moving.isNone && dieRuns s (2 + k / 24)

/-- The sources in the order in which a unit that last served `last` tries them (R254).
DESIGN CHOICE, log 4: after reset the turn begins at core 0. -/
def turn (n last : Nat) : List Nat := (List.range n).map (fun i => (last + 1 + i) % n)

/-! ### The sampler (R265-R268) -/

/-- The edge at which an entry was written. -/
def EItem.since (e : EItem) : Nat := match e with | .tex _ _ _ _ _ _ _ _ _ _ _ t => t | .item _ _ _ r => r.arr

/-- The next TEX entry of core j: one that is to run again, which completes also after a fault of its context, or the head of
its FIFO, from the cycle after it was written on (R33), while its context runs; none while one is parked (R69, R255, R268). -/
def texNext (s : State) (k j : Nat) : Option EItem :=
  match SMap.find? (s.engine k).parkT j with
  | some (it, p) => if p = Park.no ∧ midClause s it.ctxOf then some it else none
  | none => match (s.vq (coreOver k j)).tex with
    | it :: _ => if it.since < s.aclk ∧ ctxRuns s it.ctxOf then some it else none
    | [] => none

/-- The entry leaves the FIFO, or the place where it waited to run again. -/
def texTake (s : State) (k j : Nat) : State :=
  let e := s.engine k
  if (SMap.find? e.parkT j).isSome then setEngine s k { e with parkT := SMap.erase j e.parkT, lastT := j }
  else
    let q := s.vq (coreOver k j)
    setEngine (setVq s (coreOver k j) { q with tex := q.tex.drop 1 }) k { e with lastT := j }

/-- What reading memory for an operation meets. -/
def engineGate (s : State) (k c : Nat) (rs : List Req) (who : Nat := 0) : Gate :=
  match rs.find? (fun r => decide (2 ^ 52 < r.va + r.size)) with
  | some r => .fatal { cause := fVaRange, sub := 0, va := r.va, lanes := maskOf [r.lane], detail := 0 }
  | none => gate s none (k / 24) c rs who

/-- Go on with the entry of core j of TEX operation `op`, or leave it, park it (R268) or fault (R257). -/
def texGate (s : State) (k j c w op pc : Nat) (it : EItem) (rs : List Req) (go : List Nat → State) : State :=
  match engineGate s k c rs (askOp op) with
  | .go pas => go pas
  | .wait ws => ws.foldl askWalk s
  | .park ps =>
    let s := texTake s k j
    let e := s.engine k
    (setEngine s k { e with parkT := SMap.insert j (it, Park.xlat) e.parkT }).logPages c (unitOfEngine k) (w % 48) pc ps (askOp op)
  | .fatal f => (texTake s k j).fatal (reportOf c (unitOfEngine k) (w % 48) pc { f with detail := 0 })

/-- Read n bytes at each physical address at the homes. -/
def readMany (s : State) (pas : List Nat) (n : Nat) : State × List (List Byte) :=
  pas.foldl (fun (a : State × List (List Byte)) pa => let (s, bs) := homeRead a.1 false pa n; (s, a.2 ++ [bs])) (s, [])

/-- Read a translated range on the asynchronous path (R256). -/
def asyncRead (s : State) (l : List (Nat × Nat)) : State × List Byte :=
  l.foldl (fun (a : State × List Byte) p => let (s, bs) := homeRead a.1 false p.1 p.2; (s, a.2 ++ bs)) (s, [])

/-- What the lanes of a TEX word read, by form: weights and texels in order (weight 0 marks a texel that GATHER or LOAD
returns whole); none for canonical NaN in every channel. -/
def texPlan (s : State) (form mode : Nat) (t : Texture) (sm : Sampler) (l : Nat) (a : List Word) : Option (List (Rat × TexRef)) :=
  let f (k : Nat) : XR := xr32 (a.getD k 0)
  let pick := Config.freeNat s.free (0x70000 + l)
  match form with
  | 0 =>
    let lam : XR := if f 3 = .nan then .inf false else f 3
    samplePlan mode t sm pick (f 0) (f 1) { lam := lam, log2n := 0, grad := none }
  | 1 => samplePlan mode t sm pick (f 0) (f 1) (lodOf mode t sm pick (f 3) (f 4) (f 5) (f 6))
  | 2 => match loadPlan t (a.getD 0 0).toInt (a.getD 1 0).toInt (a.getD 3 0).toNat with
    | some r => some [(0, some r)]
    | none => some []
  | _ => match gatherPlan t sm (f 0) (f 1) with
    | some rs => some (rs.map (fun r => (0, r)))
    | none => none

/-- The four result codes of a lane, from its plan and the channels of its texels. -/
def texResult (form ch mode : Nat) (t : Texture) (plan : Option (List (Rat × TexRef))) (tx : List (List XR)) : List Nat :=
  match plan with
  | none => List.replicate 4 fp32.nan
  | some ps =>
    let chan (c k : Nat) : XR := (tx.getD c []).getD k (.fin 0)
    match form with
    | 2 => (List.range 4).map (fun k => if ps = [] then 0 else channelCode mode t.fmt k (chan 0 k))
    | 3 => (List.range 4).map (fun c => channelCode mode t.fmt ch (chan c ch))
    | _ => (List.range 4).map (fun k => channelCode mode t.fmt k (wsum (ps.zipIdx.map (fun p => (p.1.1, chan p.2 k)))))

/-- The texels of the lanes as accesses (R264): the border reads no memory. -/
def texReqs (t : Texture) (plans : List (Nat × Nat × Option (List (Rat × TexRef)))) : List Req :=
  plans.flatMap (fun p => match p.2.2 with
    | none => []
    | some ps => ps.filterMap (fun r => match r.2 with
      | some (lv, i, j) => some { lane := p.1, va := t.addr lv p.2.1 i j, size := texelBytes t.fmt, acc := .read }
      | none => none))

/-- Hand the texels read back to the lanes: the border where no memory is read. -/
def texShare (t : Texture) (late border : Bool) (bss : List (List Byte)) (ps : List (Rat × TexRef)) : List (List XR) × List (List Byte) :=
  ps.foldl (fun (a : List (List XR) × List (List Byte)) p => match p.2 with
    | some _ => (a.1 ++ [channels t.fmt late (a.2.headD [])], a.2.drop 1)
    | none => (a.1 ++ [List.replicate 4 (.fin (if border then 1 else 0))], a.2)) ([], bss)

/-- Run a TEX entry whose descriptors have been read. -/
def texRun (s : State) (k j : Nat) (it : EItem) (t : Texture) (sm : Sampler) : State :=
  match it with
  | .tex w op pc form ch _ _ mode c lanes d _ =>
    let layer (a : List Word) : Nat := min (a.getD 2 0).toNat (t.layers - 1)
    let plans := lanes.map (fun l => (l.1, layer l.2, texPlan s form mode t sm l.1 l.2))
    texGate s k j c w op pc it (texReqs t plans) fun pas =>
      let (s, bss) := readMany s pas (texelBytes t.fmt)
      let res := plans.foldl (fun (a : SMap Word × List (List Byte)) p =>
        let ps := p.2.2.getD []
        let (tx, rest) := texShare t (lateSrgb mode t.fmt) sm.border a.2 ps
        let cs := texResult form ch mode t p.2.2 tx
        (cs.zipIdx.foldl (fun (m : SMap Word) r => SMap.insert (vKey (d + r.2) p.1) (BitVec.ofNat 32 r.1) m) a.1, rest)) ([], bss)
      let s := texTake s k j
      let fill (o : PendOp) : PendOp :=
        if o.id = op then { o with regs := o.regs.map (fun r => { r with val := SMap.get 0 res.1 r.key }) } else o
      let s := { s with waves := SMap.modify w (fun wv => { wv with ops := wv.ops.map fill }) s.waves }
      -- its results are written on an edge the core receives (R32): now, or as its operation completes
      let land (o : PendOp) : PendOp := if o.id = op then { o with kind := .regs } else o
      (if edgeHere s (coreOfWave w) then completeOp s w op
       else { s with waves := SMap.modify w (fun wv => { wv with ops := wv.ops.map land }) s.waves }).count (unitOfEngine k)
  | _ => s

/-- A TEX entry that a unit has taken (R263, R398): its descriptors, then its texels. -/
def texOp (s : State) (k j : Nat) (it : EItem) : State :=
  match it with
  | .tex w op pc form _ ta sa _ c lanes _ _ =>
    let bad : State := (texTake s k j).fatal (reportOf c (unitOfEngine k) (w % 48) pc (.of fTexDesc 0 (maskOf (lanes.map (·.1)))))
    if ta.toNat % 32 ≠ 0 ∨ (form ≠ 2 ∧ sa.toNat % 16 ≠ 0) then bad
    else
      let descs := (ta.toNat, 32) :: (if form = 2 then [] else [(sa.toNat, 16)])
      let rs := lanes.flatMap (fun l => descs.map (fun e => { lane := l.1, va := e.1, size := e.2, acc := .read : Req }))
      texGate s k j c w op pc it rs fun pas =>
        let (s, bt) := homeRead s false (pas.getD 0 0) 32
        let (s, bs) := if form = 2 then (s, List.replicate 16 0) else homeRead s false (pas.getD 1 0) 16
        match textureOf bt, samplerOf bs with
        | some t, some sm => texRun s k j it t sm
        | _, _ => bad
  | _ => s

/-- TEX_OPERATION (R254, R265, R266): the sampler of block k takes the next entry of its four cores in turn. -/
def execTexOperation (k : Nat) (s : State) : Host.Outcome State Fault Refusal :=
  if !engineOn s k then .next s
  else match (turn 4 ((s.engine k).lastT % 4)).findSome? (fun j => (texNext s k j).map (fun it => (j, it))) with
    | some (j, it) => .next (texOp s k j it)
    | none => .next s

/-! ### Records taken by the rasteriser and the traversal unit -/

def fifoDrop (s : State) (k kind j : Nat) : State :=
  let g := coreOver k j
  let q := s.vq g
  setVq s g (if kind = 1 then { q with ras := q.ras.drop 1 } else { q with trv := q.trv.drop 1 })

/-- What the dispatcher starts on block k from its stack's halves (R142): the first candidate for which k is the block. -/
def dispNext (s : State) (k kind : Nat) : Option Cand :=
  let cs := (candsOf s (k / 24) kind).filter (fun c => roomFor s c.ctx c.img c.node c.recs && freeBlock s c (k / 24) kind == some k)
  cs.foldl (fun (a : Option Cand) c => match a with
    | none => some c
    | some b => if lexLt (orderKey s c.ctx c.node c.recs) (orderKey s b.ctx b.node b.recs) then some c else some b) none

/-- A unit takes its next input: the source, the state after its start, and the consumer. -/
def takeInput (s : State) (k kind last : Nat) : Option (Nat × State × Cons) :=
  (turn 5 last).findSome? (fun j =>
    if j < 4 then
      match fifoHead s k kind j with
      | some (c, img, node, r) =>
        let (s, cons) := takeCons (fifoDrop s k kind j) c img node r.tag [r]
        some (j, s, cons)
      | none => none
    else match dispNext s k kind with
      | some c =>
        let (s, cons) := takeCons (unqueue s c.qid c.recs) c.ctx c.img c.node c.tag c.recs
        some (j, s, cons)
      | none => none)

/-- A fatal fault of an operation (R257). -/
def engineFault (s : State) (k c cause sub va : Nat) : State :=
  s.fatal (reportOf c (unitOfEngine k) 0xFFFF 0 { cause := cause, sub := sub, va := va, lanes := 0, detail := 0 })

def inputBytes (k : Cons) : List Byte := match k.recs with | r :: _ => recBytes r.words | [] => []

/-- Emit one record on a port (R258), or none for F_EMIT_OVERRUN. -/
def engineEmit (s : State) (k : Nat) (c : Cons) (port : Nat) (bs : List Byte) : Option (State × Cons) :=
  match portEdge s c.ctx c.img c.node port with
  | none => none
  | some e =>
    if SMap.get 0 c.resv port = 0 then none
    else some (appendOn s (unitOfEngine k) (k / 24) c port (recWords (recSize s c.ctx c.img e.dst) bs) 0 none)

/-- The quads of a triangle, until one exceeds the reservation (R262). -/
def emitQuads (k : Nat) : List (List Byte) → State → Cons → State × Cons × Bool
  | [], s, c => (s, c, true)
  | b :: bs, s, c =>
    match engineEmit s k c 0 b with
    | some (s, c) => emitQuads k bs s c
    | none => (engineFault s k c.ctx fEmitOverrun 0 0, c, false)

/-- RASTER_TRIANGLE (R259-R262): the rasteriser of block k takes its next triangle and emits its covered quads. -/
def execRasterTriangle (k : Nat) (s : State) : Host.Outcome State Fault Refusal :=
  if !engineOn s k then .next s
  else match takeInput s k 1 (s.engine k).lastR with
    | none => .next s
    | some (j, s, c) =>
      let s := setEngine s k { s.engine k with lastR := j }
      match triOf (inputBytes c) with
      | none => .next (engineFault s k c.ctx fRasterRecord 0 0)
      | some t =>
        let (s, c, ok) := emitQuads k (t.emits (inputBytes c)) s c
        .next (if ok then (consumerDone s c).count (unitOfEngine k) else s)

/-! ### Traversal (R269-R274) -/

/-- A traversal record in words, read and written by byte offset. -/
def wAt (ws : List Word) (off : Nat) : Nat := (ws.getD (off / 4) 0).toNat
def qAt (ws : List Word) (off : Nat) : Nat := wAt ws off + wAt ws (off + 4) * 2 ^ 32
def bAt (ws : List Word) (off : Nat) : Nat := bits (wAt ws off) (8 * (off % 4)) 8
def setW (ws : List Word) (off v : Nat) : List Word := ws.set (off / 4) (BitVec.ofNat 32 v)
def setQ (ws : List Word) (off v : Nat) : List Word := setW (setW ws off v) (off + 4) (v / 2 ^ 32)
def setB (ws : List Word) (off v : Nat) : List Word :=
  setW ws off (wAt ws off - bAt ws off * 2 ^ (8 * (off % 4)) + v * 2 ^ (8 * (off % 4)))

/-- The checks of R269. -/
def travBad (ws : List Word) : Bool :=
  match bAt ws 0x69 with
  | 0 => false
  | 2 => decide (bAt ws 0x68 > 17) || decide (bAt ws 0x2D ≥ 4) || wAt ws 0x2C / 2 ^ 16 != 0 || wAt ws 0x54 / 2 ^ 8 != 0 ||
      wAt ws 0x68 / 2 ^ 16 != 0 || qAt ws 0x60 == 0 || refType (qAt ws 0x60) != 3
  | _ => true

/-- Start of a NEW ray (R271). -/
def travStart (ws : List Word) : List Word :=
  if bAt ws 0x69 ≠ 0 then ws
  else
    let ws := setW (setW (setW ws 0x40 0x7F800000) 0x44 0) 0x48 0
    let ws := setB (setQ ws 0x4C 0) 0x54 0
    let ws := setB (setQ (setQ ws 0x58 0) 0x60 0) 0x68 1
    setQ ws 0x78 (refWithLevel (qAt ws 0x20) 0)

/-- Offer of R271: the record after the hit, if it is accepted. -/
def travOffer (ws : List Word) (t prim inst kind u v : Nat) : Option (List Word) :=
  let f (x : Nat) : FVal := fDecode fp32 x
  let tm := f (wAt ws 0x0C)
  let tx := f (wAt ws 0x1C)
  let ht := f (wAt ws 0x40)
  let le (a b : FVal) : Bool := fLt a b || fEq a b
  let first := decide (inst < wAt ws 0x48) || (inst == wAt ws 0x48 && decide (prim < wAt ws 0x44))
  if f t != .nan && le tm (f t) && le (f t) tx && (fLt (f t) ht || (fEq (f t) ht && first)) then
    some (setB (setW (setW (setW (setW (setW (setW ws 0x40 t) 0x1C t) 0x44 prim) 0x48 inst) 0x4C u) 0x50 v) 0x54 kind)
  else none

/-- Where one round of the loop of R271 leads: on, to the end by a port, to a fault, or to a fetch that must wait. -/
inductive TStep
  | on (s : State) (ws : List Word)
  | emit (s : State) (ws : List Word) (port : Nat)
  | bad (s : State) (cause va : Nat)
  | wait (s : State)
  | park (s : State) (pages : List (Nat × Nat × Nat × Mask))

/-- Fetch a node by its reference for the asker `who` (R256, R270), or meet what R257 and R270 say. -/
def fetchNode (s : State) (k c who e : Nat) (go : State → List Byte → TStep) : TStep :=
  if refBad e then .bad s fBvhFormat (refAddr e)
  else match hubGate s (k / 24) c (refAddr e) (nodeSize (refType e)) .read who with
    | .wait s => .wait s
    | .park ps => .park s ps
    | .fatal f va => .bad s f va
    | .go pas =>
      let (s, bs) := asyncRead s pas
      if nodeBad (refType e) bs then .bad s fBvhFormat (refAddr e) else go s bs

/-- INST and the bytes of the instance being traversed, where a level is the bottom one (R271).
DESIGN CHOICE, log 17, unsafe for which of two faults is taken: the instance is read again for every bottom-level entry and
report, before the entry's own node; and of a RESUME record whose CUR_INST names no instance, a case R269 does not check,
what it does name is read as one. -/
def withInst (s : State) (k c who : Nat) (ws : List Word) (level : Nat) (go : State → Option (List Byte) → TStep) : TStep :=
  if level = 0 then go s none
  else fetchNode s k c who (qAt ws 0x58) (fun s bs => go s (some bs))

def instNo (inst : Option (List Byte)) : Nat := match inst with | some bs => fieldOf bs 0x38 4 | none => 0xFFFFFFFF

/-- After an accepted hit: FIRST_HIT ends the ray on port 0 (R271). -/
def afterOffer (s : State) (ws : List Word) (offer : Option (List Word)) : TStep :=
  match offer with
  | some ws => if bit (bAt ws 0x2D) 0 then .emit s ws 0 else .on s ws
  | none => .on s ws

/-- Push references, the last of the list on top; none past 17 entries. -/
def pushAll (ws : List Word) : List Nat → Option (List Word)
  | [] => some ws
  | r :: rs =>
    let sp := bAt ws 0x68
    if sp ≥ 17 then none else pushAll (setB (setQ ws (0x78 + 8 * sp) r) 0x68 (sp + 1)) rs

/-- The children of an inner node that the ray enters, by descending (tnear, j) (R271). -/
def entered (ray : Option Ray) (bs : List Byte) (level : Nat) : List Nat :=
  match ray with
  | none => []
  | some ray =>
    let cs := (List.range 4).filterMap (fun j =>
      let r := fieldOf bs (0x60 + 8 * j) 8
      if refType r = 0 then none
      else match boxHit ray bs (24 * j) with
        | some t => some (t, j, refWithLevel r level)
        | none => none)
    let before (a b : XR × Nat × Nat) : Bool := xrLt a.1 b.1 || (a.1 == b.1 && decide (a.2.1 < b.2.1))
    let sorted := cs.foldl (fun (acc : List (XR × Nat × Nat)) c =>
      acc.takeWhile (fun d => before c d) ++ c :: acc.dropWhile (fun d => before c d)) []
    sorted.map (fun c => c.2.2)

/-- The case of a popped entry with its node (R271). -/
def travNode (s : State) (e : Nat) (ws : List Word) (bs : List Byte) (inst : Option (List Byte)) : TStep :=
  let level := refLevel e
  let ray : Option Ray := match rayOf (recBytes ws), inst with
    | some r, some m => r.into m
    | r, none => r
    | none, _ => none
  match refType e with
  | 1 => match pushAll ws (entered ray bs level) with
    | some ws => .on s ws
    | none => .bad s fTravStack 0
  | 2 => match ray with
    | none => .on s ws
    | some r => match triHit r bs (bit (bAt ws 0x2D) 1) with
      | none => .on s ws
      | some (back, t, u, v) =>
        afterOffer s ws (travOffer ws (rnd32 .ne t) (fieldOf bs 0x24 4) (instNo inst) (if back then 2 else 1) (rnd32 .ne u) (rnd32 .ne v))
  | 3 => .emit s (setQ ws 0x60 e) 2
  | 4 =>
    if level = 1 then .bad s fBvhFormat (refAddr e)
    else if (BitVec.ofNat 8 (bAt ws 0x2C) &&& BitVec.ofNat 8 (fieldOf bs 0x3C 1)) = 0 then .on s ws
    else match pushAll (setQ ws 0x58 e) [refWithLevel (fieldOf bs 0x30 8) 1] with
      | some ws => .on s ws
      | none => .bad s fTravStack 0
  | _ => .on s ws

/-- One round of the loop: a RESUME record, while it names its leaf, offers its report first; else one entry is popped
(R271). A fetch that must wait or parks leaves the record as it was, and STATE stays until the record is emitted (R274). -/
def travRound (s : State) (k c who : Nat) (ws : List Word) : TStep :=
  if bAt ws 0x69 = 2 ∧ qAt ws 0x60 ≠ 0 then
    let leaf := qAt ws 0x60
    withInst s k c who ws (refLevel leaf) fun s inst =>
      fetchNode s k c who leaf fun s bs =>
        let off := travOffer ws (wAt ws 0x6C) (fieldOf bs 0x18 4) (instNo inst) 3 (wAt ws 0x70) (wAt ws 0x74)
        let clear (w : List Word) : List Word := setQ w 0x60 0
        afterOffer s (clear ws) (off.map clear)
  else
    let sp := bAt ws 0x68
    if sp = 0 then .emit s ws (if bAt ws 0x54 = 0 then 1 else 0)
    else
      let e := qAt ws (0x78 + 8 * (sp - 1))
      let popped := setB ws 0x68 (sp - 1)
      if refType e = 0 then (if refBad e then .bad s fBvhFormat (refAddr e) else .on s popped)
      else withInst s k c who ws (if refType e = 1 ∨ refType e = 2 then refLevel e else 0) fun s inst =>
        fetchNode s k c who e fun s bs => travNode s e popped bs inst

/-- Emit of R271: the record as it goes out. -/
def travOut (ws : List Word) (port : Nat) : List Word :=
  setB (setW (setQ ws 0x70 0) 0x6C 0) 0x69 (if port = 2 then 1 else 3)

/-- The asker of a consumer's walks: its first record. -/
def Cons.asker (c : Cons) : Nat := match c.recs with | r :: _ => askRec r.id | [] => 0

/-- Run a record until it emits, faults, parks, or must wait; after `fuel` rounds it goes on in the next operation. -/
def travRun (k : Nat) (c : Cons) : Nat → State → List Word → State
  | 0, s, ws => let e := s.engine k; setEngine s k { e with ready := (c, ws) :: e.ready }
  | fuel + 1, s, ws =>
    match travRound s k c.ctx c.asker ws with
    | .on s ws => travRun k c fuel s ws
    | .wait s => let e := s.engine k; setEngine s k { e with ready := (c, ws) :: e.ready }
    | .park s ps =>
      let e := s.engine k
      (setEngine s k { e with parkV := e.parkV ++ [(c, ws)] }).logPages c.ctx (unitOfEngine k) 0xFFFF 0 ps c.asker
    | .bad s cause va => engineFault s k c.ctx cause 0 va
    | .emit s ws port =>
      match engineEmit s k c port (recBytes (travOut ws port)) with
      | some (s, c) => (consumerDone s c).count (unitOfEngine k)
      | none => engineFault s k c.ctx fEmitOverrun port 0

/-- Rounds of one operation before it goes on in the next. -/
def travFuel : Nat := 256

/-- TRAVERSAL_OPERATION (R271, R274): the traversal unit of block k goes on with a replayed record, or takes its next
input, unless the park store's 32 entries are full and a 33rd record is held in place.
DEDUCED, log 17, safe: at most 256 rounds in one operation. -/
def execTraversalOperation (k : Nat) (s : State) : Host.Outcome State Fault Refusal :=
  let e := s.engine k
  if !engineOn s k then .next s
  else match e.ready with
    | (c, ws) :: rest => .next (travRun k c travFuel (setEngine s k { e with ready := rest }) ws)
    | [] =>
      if e.parkV.length > 32 then .next s
      else match takeInput s k 2 e.lastV with
        | none => .next s
        | some (j, s, c) =>
          let s := setEngine s k { s.engine k with lastV := j }
          let ws := match c.recs with | r :: _ => r.words | [] => []
          if travBad ws then .next (engineFault s k c.ctx fTravState 0 0)
          else .next (travRun k c travFuel s (travStart ws))

end Sys2Proof.Machine
end

