-- ==== Sys2Proof/Machine/HostRegs.lean ====
section
/-!
DEFINITION. The registers of BAR 0 (R37, R40, R52, R55-R64, R71-R86): what each reads as, what a write must satisfy (R12,
R52, R79), and REGISTER_WRITE, the write of a register with no behaviour of its own.
-/

namespace Sys2Proof.Machine

/-- Registers of a context's page (R58). -/
inductive CReg | ctl | nbv | filter | clklock | ptBase | head | tail | status | cmd | retired | ringBase | ringCfg | scb
  deriving DecidableEq, Repr

/-- Registers of a display head (R84). -/
inductive DReg | ctl | timing | surf | status | pixclk | sync | pitch
  deriving DecidableEq, Repr

/-- The registers of BAR 0 (R55). -/
inductive Reg
  | dieReset | dieStatus | errStatus | errLast | errCorr | linkRetry | flogBase | flogCfg | flogWr | flogRd
  | tlbInval | tlbStatus | sysOffset | apBase | fwStatus | fwCtl | time | snapCtl | snapStatus
  | bank (off : Nat)
  | harvest (s : Nat)
  | fusedLo (s : Nat)
  | fusedHi (s : Nat)
  | l2p (s j : Nat)
  | ctx (c : Nat) (r : CReg)
  | disp (h : Nat) (r : DReg)
  | venc (n : Nat)
  deriving DecidableEq, Repr

def ctxReg (o : Nat) : Option CReg :=
  match o with
  | 0x00 => some .ctl | 0x08 => some .nbv | 0x10 => some .filter | 0x18 => some .clklock | 0x20 => some .ptBase
  | 0x28 => some .head | 0x30 => some .tail | 0x38 => some .status | 0x40 => some .cmd | 0x48 => some .retired
  | 0x50 => some .ringBase | 0x58 => some .ringCfg | 0x60 => some .scb
  | _ => none

def dispReg (o : Nat) : Option DReg :=
  match o with
  | 0x00 => some .ctl | 0x08 => some .timing | 0x10 => some .surf | 0x18 => some .status | 0x20 => some .pixclk
  | 0x28 => some .sync | 0x30 => some .pitch
  | _ => none

def hubReg (o : Nat) : Option Reg :=
  match o with
  | 0x000 => some .dieReset | 0x008 => some .dieStatus
  | 0x100 => some .errStatus | 0x108 => some .errLast | 0x110 => some .errCorr | 0x118 => some .linkRetry
  | 0x200 => some .flogBase | 0x208 => some .flogCfg | 0x210 => some .flogWr | 0x218 => some .flogRd
  | 0x300 => some .tlbInval | 0x308 => some .tlbStatus | 0x310 => some .sysOffset | 0x318 => some .apBase
  | 0x400 => some .fwStatus | 0x408 => some .fwCtl | 0x500 => some .time | 0x600 => some .snapCtl | 0x608 => some .snapStatus
  | _ => none

def stackReg (s o : Nat) : Option Reg :=
  if o = 0 then some (.harvest s) else if o = 8 then some (.fusedLo s) else if o = 0x10 then some (.fusedHi s)
  else if 0x100 ≤ o ∧ o < 0x160 then some (.l2p s ((o - 0x100) / 8)) else none

/-- The register at an 8-byte aligned offset (R55). -/
def regAt (o : Nat) : Option Reg :=
  if o < 0x10000 then hubReg o
  else if o < 0x30000 then stackReg (o / 0x10000 - 1) (o % 0x10000)
  else if 0x100000 ≤ o ∧ o < 0x120000 then (ctxReg (o % 0x1000)).map (Reg.ctx ((o - 0x100000) / 0x1000))
  else if 0x800000 ≤ o ∧ o < 0x1000000 then some (.bank (o - 0x800000))
  else if 0x1000000 ≤ o ∧ o < 0x1004000 then (dispReg (o % 0x1000)).map (Reg.disp ((o - 0x1000000) / 0x1000))
  else if 0x1100000 ≤ o ∧ o < 0x1100100 then some (.venc ((o - 0x1100000) / 8))
  else none

/-! ### What registers read as -/

def CtxSt.code : CtxSt → Nat
  | .disabled => 0 | .idle => 1 | .waitClock => 2 | .active => 3 | .faulted => 4 | .aborting => 5

def DieSt.code : DieSt → Nat
  | .run => 0 | .quiesce => 1 | .drain => 2 | .held => 3 | .init => 4

def flag (b : Bool) (i : Nat) : Nat := if b then 2 ^ i else 0

/-- The lowest memory-model revision among the graphs in flight; 0 if none (R59, R109). -/
def ctxRevision (x : Ctx) : Nat :=
  match (((x.launches.filter (fun l => l.2.kind == .graph)).map (fun l => l.2.mmrev))).min? with | some r => r | none => 0

/-- CTX_STATUS (R59). -/
def ctxStatus (x : Ctx) : Nat :=
  let r := ctxRevision x
  x.launches.length * 2 ^ 48 + x.fatal * 2 ^ 32 + r * 2 ^ 12 + flag (r == 1 || r == 2) 11 + flag x.lockBroken 10 +
    flag x.budgetOut 9 + flag x.pageWait 8 + x.st.code

def ctxVal (x : Ctx) (r : CReg) : Nat :=
  match r with
  | .ctl => x.period * 2 ^ 48 + x.slice * 2 ^ 32 + x.prio * 2 ^ 8 + flag (x.st != .disabled) 0
  | .nbv => x.nbv
  | .filter => x.filter
  | .clklock => x.clklock
  | .ptBase => x.ptRoot
  | .head => x.head.toNat
  | .tail => x.tail.toNat
  | .status => ctxStatus x
  | .cmd => 0
  | .retired => x.retired.toNat
  | .ringBase => x.ringBase
  | .ringCfg => x.ringLog
  | .scb => flag x.dbgScb 0

def dispVal (h : Head) (r : DReg) : Nat :=
  match r with
  | .ctl => h.ctl.toNat
  | .timing => h.timing.toNat
  | .surf => h.surf.toNat
  | .status => flag h.flip 32 + h.frames.toNat
  | .pixclk => h.pixclk.toNat
  | .sync => h.sync.toNat
  | .pitch => h.pitch.toNat

/-- STK_CORE_FUSED of a stack, as one number (R37). -/
def fusedBits (s : State) (st : Nat) : Nat :=
  (List.range 96).foldl (fun n p => n + flag (s.fuses.fused.contains (st * 96 + p)) p) 0

/-- STK_HARVEST (R37, R38). -/
def harvestVal (s : State) (st : Nat) : Nat :=
  (usable s st).length * 2 ^ 24 +
    (List.range 24).foldl (fun n c => n + flag ((List.range 4).any (fun k => s.fuses.fused.contains (st * 96 + 4 * c + k))) c) 0

/-- STK_L2P: logical ids 8j to 8j + 7 (R56). -/
def l2pVal (s : State) (st j : Nat) : Nat :=
  let u := usable s st
  (List.range 8).foldl (fun n k => n + (match u[8 * j + k]? with | some p => (0x80 + p) * 2 ^ (8 * k) | none => 0)) 0

/-- HUB_DIE_STATUS (R40). -/
def dieStatusVal (s : State) : Nat :=
  (List.range 4).foldl (fun n d => n + (s.die d).st.code * 2 ^ (3 * d) + flag (s.die d).fail (16 + d)) 0

/-- A unit of R74 exists: die 0 H, 1-2 C, 3-4 F, 5-8 D. How many L2 slices there are is not stated: log 18. -/
def unitExists (s : State) (die unit : Nat) : Bool :=
  if die = 0 then unit == 0 || (decide (0x100 ≤ unit ∧ unit < 0x104)) || unit == 0x200 || unit == 0x300 || unit == 0x400
  else if die ≤ 2 then
    (decide (unit < 96) && !s.fuses.fused.contains ((die - 1) * 96 + unit)) || decide (0x100 ≤ unit ∧ unit < 0x118)
  else if die ≤ 4 then decide (unit < 24) || unit == 0x200 || decide (0x300 ≤ unit ∧ unit < 0x300 + Config.l2Slices)
  else decide (die ≤ 8) && (decide (unit < 8) || unit == 0x10)

/-- The snapshot bank (R77): common words of a unit's block, its latched words listed by unit × 4 + word. The bytes that are
diagnostic, and the counts of the L2 slices, are free; a slice's accesses are done at once, so that it has no work. -/
def bankVal (s : State) (off : Nat) : Nat :=
  let die := off / 0x80000
  let unit := off % 0x80000 / 0x100
  let word := off % 0x100 / 8
  let free_ := Config.freeNat (SMap.get 0 s.hub.bank (2 ^ 32)).toNat off % 2 ^ 64
  if !s.hub.taken then 0
  else if !unitExists s die unit then 0
  else if (die = 3 ∨ die = 4) ∧ 0x300 ≤ unit ∧ word = 3 then free_
  else if word < 4 then (SMap.get (if word = 1 then 0x8000000000000000 else 0) s.hub.bank ((die * 0x800 + unit) * 4 + word)).toNat
  else free_

/-- What a register reads as. -/
def regVal (s : State) (r : Reg) : Nat :=
  match r with
  | .dieReset => 0
  | .dieStatus => dieStatusVal s
  | .errStatus => s.hub.errStatus
  | .errLast => s.hub.errLast
  | .errCorr => s.hub.errCorr
  | .linkRetry => SMap.get 0 s.hub.retry 0 + SMap.get 0 s.hub.retry 1 * 2 ^ 16 + SMap.get 0 s.hub.retry 2 * 2 ^ 32
  | .flogBase => s.hub.flogBase
  | .flogCfg => s.hub.flogLog
  | .flogWr => s.hub.flogWr.toNat
  | .flogRd => s.hub.flogRd.toNat
  | .tlbInval => 0
  | .tlbStatus => flag s.hub.inval.isSome 0
  | .sysOffset => s.hub.sysOffset.toNat
  | .apBase => s.hub.apBase.toNat
  | .fwStatus => s.hub.svn * 2 ^ 16 + s.hub.fwFail * 2 ^ 4 + s.hub.fwState
  | .fwCtl => flag s.hub.flashWrite 2
  | .time => s.hclk % 2 ^ 64
  | .snapCtl => s.hub.snaptCtx.toNat * 2 ^ 32 + s.hub.snapClass * 2 ^ 8 + flag s.hub.armed 0
  | .snapStatus => s.hub.snapSeq * 2 ^ 32 + s.hub.snapCause * 2 ^ 16 + s.hub.snapCtx * 2 ^ 8 + s.hub.snapSrc * 2 + flag s.hub.taken 0
  | .bank o => bankVal s o
  | .harvest st => harvestVal s st
  | .fusedLo st => fusedBits s st % 2 ^ 64
  | .fusedHi st => fusedBits s st / 2 ^ 64
  | .l2p st j => l2pVal s st j
  | .ctx c r => if s.hub.fwState = 2 then 0 else ctxVal (s.ctx c) r
  | .disp h r => dispVal (s.head h) r
  | .venc n => (s.venc n).reg.toNat

/-! ### What a write must satisfy -/

/-- Bits of a register between two positions. -/
def mask (hi lo : Nat) : Nat := 2 ^ (hi + 1) - 2 ^ lo

/-- The bits that are not reserved. -/
def regFields (r : Reg) : Nat :=
  match r with
  | .dieReset => mask 4 0
  | .dieStatus => mask 19 16 + mask 11 0
  | .errStatus => mask 10 0
  | .errLast => mask 39 32 + mask 24 0
  | .errCorr => mask 31 0
  | .linkRetry => mask 47 0
  | .flogBase => mask 47 12
  | .flogCfg => mask 4 0
  | .flogWr => mask 31 0
  | .flogRd => mask 31 0
  | .tlbInval => mask 63 55 + mask 51 12
  | .tlbStatus => 1
  | .sysOffset => mask 63 32
  | .apBase => mask 47 30
  | .fwStatus => mask 47 16 + mask 7 4 + mask 1 0
  | .fwCtl => mask 2 0
  | .time => mask 63 0
  | .snapCtl => mask 63 32 + mask 15 8 + mask 2 0
  | .snapStatus => mask 63 16 + mask 12 8 + mask 2 0
  | .bank _ => mask 63 0
  | .harvest _ => mask 31 0
  | .fusedLo _ => mask 63 0
  | .fusedHi _ => mask 31 0
  | .l2p _ _ => mask 63 0
  | .ctx _ .ctl => mask 63 32 + mask 11 8 + 1
  | .ctx _ .nbv => mask 2 0
  | .ctx _ .filter => mask 2 0
  | .ctx _ .clklock => mask 6 0
  | .ctx _ .ptBase => mask 47 12
  | .ctx _ .head => mask 31 0
  | .ctx _ .tail => mask 31 0
  | .ctx _ .status => mask 55 32 + mask 15 8 + mask 2 0
  | .ctx _ .cmd => mask 2 0
  | .ctx _ .retired => mask 31 0
  | .ctx _ .ringBase => mask 51 12
  | .ctx _ .ringCfg => mask 4 0
  | .ctx _ .scb => 1
  | .disp _ .ctl => mask 15 8 + mask 2 0
  | .disp _ .timing => mask 63 0
  | .disp _ .surf => mask 51 8
  | .disp _ .status => mask 32 0
  | .disp _ .pixclk => mask 23 0
  | .disp _ .sync => mask 63 0
  | .disp _ .pitch => mask 19 0
  | .venc _ => mask 63 56 + mask 44 20

/-- Registers with a WO or W1S field act only on a 64-bit write (R52). -/
def isAction (r : Reg) : Bool :=
  match r with
  | .dieReset => true | .tlbInval => true | .fwCtl => true | .snapCtl => true | .ctx _ .cmd => true
  | _ => false

/-- The register a write names, the value as it stands in the register's bits, and the bits written. -/
def wReg (w : HostWrite) : Option Reg := regAt (w.off / 8 * 8)
def wValue (w : HostWrite) : Nat := if w.wide then w.val.toNat else w.val.toNat % 2 ^ 32 * 2 ^ (8 * (w.off % 8))
def wBits (w : HostWrite) : Nat := if w.wide then mask 63 0 else mask 31 0 * 2 ^ (8 * (w.off % 8))

/-- A register's value after a write of its RW bits: each half updates only its own. -/
def wMerged (w : HostWrite) (old : Nat) : Nat := (old &&& (mask 63 0 - wBits w)) ||| (wValue w &&& wBits w)

/-- A reserved value in a field, of the register as it would be after the write (R61, R64, R71, R72, R84, R86). -/
def valueReserved (r : Reg) (v : Nat) : Bool :=
  match r with
  | .ctx _ .nbv => decide (v = 0 ∨ 4 < v)
  | .ctx _ .filter => decide (v = 0 ∨ 4 < v)
  | .ctx _ .clklock => v != 0 && decide (v < 16 ∨ 64 < v)
  | .ctx _ .ringCfg => v != 0 && decide (v < 4 ∨ 16 < v)
  | .flogCfg => v != 0 && decide (v < 6 ∨ 16 < v)
  | .tlbInval => decide (5 < bits v 55 3)
  | .disp _ .ctl => decide (2 < bits v 8 3)
  | .venc _ =>
    let w16 := bits v 36 9
    let h16 := bits v 27 9
    let fps := bits v 20 7
    decide (480 < w16 ∨ 270 < h16 ∨ 120 < fps) || bits v 56 2 == 3 || (bit v 63 && decide (w16 = 0 ∨ h16 = 0 ∨ fps = 0))
  | _ => false

/-- DISP_CTL.EN may be set (R85). -/
def displayOk (h : Head) (ctl : Nat) : Bool :=
  let t := h.timing.toNat
  let y := h.sync.toNat
  let ha := bits t 48 16; let ht := bits t 32 16
  let va := bits t 16 16; let vt := bits t 0 16
  let hs := bits y 48 16; let he := bits y 32 16
  let vs := bits y 16 16; let ve := bits y 0 16
  let khz := h.pixclk.toNat
  let p := h.pitch.toNat
  decide (1 ≤ ha ∧ ha ≤ hs ∧ hs < he ∧ he ≤ ht ∧ ht ≤ 16383 ∧ 1 ≤ va ∧ va ≤ vs ∧ vs < ve ∧ ve ≤ vt ∧ vt ≤ 16383 ∧
    25000 ≤ khz ∧ khz ≤ 2000000 ∧ p % 256 = 0 ∧ ha * (if bits ctl 8 3 = 2 then 8 else 4) ≤ p)

/-- Pixels per second of a session (R86). -/
def vencRate (v : Nat) : Nat := if bit v 63 then 256 * bits v 36 9 * bits v 27 9 * bits v 20 7 else 0

/-- The total of all sessions, session n counted with the value v. -/
def vencTotal (s : State) (n v : Nat) : Nat :=
  (s.vencs.filter (fun e => e.1 != n)).foldl (fun t e => t + vencRate e.2.reg.toNat) (vencRate v)

/-- Ring size of a context, and of the fault log (R64, R72). -/
def ringSize (log : Nat) : Nat := if log = 0 then 0 else 2 ^ log

/-- The write is not permitted in the current state: sub-code 3 (R60, R61, R64, R71, R73, R82, R84, R86). `v` is the register
after a write of its RW bits, `x` the value written. -/
def stateForbids (s : State) (r : Reg) (v x : Nat) : Bool :=
  match r with
  | .ctx c k =>
    let st := (s.ctx c).st
    let fixed := st == .waitClock || st == .active || st == .aborting
    s.hub.fwState == 2 || match k with
      | .ctl => !bit v 0 && st != .idle && st != .disabled
      | .nbv => fixed | .filter => fixed | .clklock => fixed | .ptBase => fixed | .scb => fixed
      | .ringBase => fixed | .ringCfg => fixed
      | _ => false
  | .flogBase => s.hub.flogLog != 0 && !(s.hub.flogWr == s.hub.flogRd && s.hub.held == [])
  | .flogCfg => s.hub.flogLog != 0 && !(s.hub.flogWr == s.hub.flogRd && s.hub.held == [])
  | .flogRd => decide (ringSize s.hub.flogLog < (s.hub.flogWr - BitVec.ofNat 32 v).toNat)
  | .tlbInval => bit x 63 && s.hub.inval.isSome
  | .disp h k =>
    let on := bit (s.head h).ctl.toNat 0
    on && match k with
      | .ctl => v / 2 != (s.head h).ctl.toNat / 2
      | .timing => true | .pixclk => true | .sync => true | .pitch => true
      | _ => false
  | .venc n => let old := (s.venc n).reg.toNat; bit old 63 && v % 2 ^ 63 != old % 2 ^ 63
  | _ => false

/-- The conditions of R79 that a write of x to the bits `w` of a register meets, the lowest first: `relaxed` is its ordering
attribute, `form` whether its size and alignment are wrong. -/
def writeConds (s : State) (r : Reg) (w x : Nat) (relaxed form : Bool) : List (Nat × Bool) :=
  let v := if isAction r then x else (regVal s r &&& (mask 63 0 - w)) ||| (x &&& w)
  let tail (p : Ctx → BitVec 32 → Bool) : Bool := match r with | .ctx c .tail => p (s.ctx c) (BitVec.ofNat 32 v) | _ => false
  [(1, (x &&& (mask 63 0 - regFields r)) != 0 || valueReserved r v),
   (3, stateForbids s r v x),
   (4, relaxed && tail (fun _ _ => true)),
   (5, tail (fun c new => decide (ringSize c.ringLog < (new - c.head).toNat ∨ ringSize c.ringLog < (new - c.tail).toNat))),
   (6, tail (fun c _ => c.st == .disabled || c.st == .faulted || c.st == .aborting)),
   (7, form),
   (9, match r with
       | .venc n => bit v 63 && !bit (s.venc n).reg.toNat 63 && decide (4200000000 < vencTotal s n v)
       | _ => false),
   (10, match r with
       | .disp h .ctl => bit v 0 && !bit (s.head h).ctl.toNat 0 && !displayOk (s.head h) v
       | _ => false)]

/-- The lowest sub-code of R79 that a write to BAR 0 meets, if any. A misaligned one is judged as a write of the register
it begins in: DEDUCED, log 32. -/
def writeErr (s : State) (w : HostWrite) : Option Nat :=
  match wReg w with
  | none => some 2
  | some r =>
    let form := (if w.wide then w.off % 8 else w.off % 4) != 0 || (isAction r && !w.wide)
    ((writeConds s r (wBits w) (wValue w) w.relaxed form).find? (·.2)).map (·.1)

/-- A register or aperture access is discarded and reported (R78, R79).
PRESUMED, log 32: a read that is refused answers all ones. -/
def regErr (s : State) (sub off : Nat) : State :=
  let s' := if s.hub.errStatus % 2 = 0 then { s with hub := { s.hub with errLast := sub * 2 ^ 32 + off % 2 ^ 25 } } else s
  s'.err 0

/-! ### Writes of fields -/

/-- The write of a context's register. -/
def writeCtx (s : State) (c : Nat) (r : CReg) (v written : Nat) : State :=
  updCtx s c (fun x => match r with
    | .ctl =>
      let x := if x.period = 0 ∧ bits v 48 16 ≠ 0 then { x with lastInt := s.hclk / 2048, ran := false } else x
      { x with period := bits v 48 16, slice := bits v 32 16, prio := bits v 8 4 }
    | .nbv => { x with nbv := v }
    | .filter => { x with filter := v }
    | .clklock => { x with clklock := v }
    | .ptBase => { x with ptRoot := v }
    | .ringBase => { x with ringBase := v }
    | .ringCfg => { x with ringLog := v }
    | .scb => { x with dbgScb := bit v 0 }
    | .status => { x with lockBroken := x.lockBroken && !bit written 10 }
    | _ => x)

/-- The write of a display head's register. -/
def writeDisp (s : State) (h : Nat) (r : DReg) (v written : Nat) : State :=
  let d := s.head h
  let b : DWord := BitVec.ofNat 64 v
  let d := match r with
    | .ctl => { d with ctl := b }
    | .timing => { d with timing := b }
    | .surf => { d with surf := b }
    | .status => { d with flip := d.flip && !bit written 32 }
    | .pixclk => { d with pixclk := b }
    | .sync => { d with sync := b }
    | .pitch => { d with pitch := b }
  { s with heads := SMap.set Head.reset h d s.heads }

/-- The fields a permitted write sets. `v` is the register after a write of its RW bits, `written` the bits written as 1. -/
def writeReg (s : State) (r : Reg) (v written : Nat) : State :=
  match r with
  | .dieStatus =>
    (List.range 4).foldl (fun s d => if bit written (16 + d) then s.setDie d { s.die d with fail := false } else s) s
  | .errStatus => { s with hub := { s.hub with errStatus := s.hub.errStatus &&& (mask 10 0 - (written &&& mask 10 0)) } }
  | .sysOffset => { s with hub := { s.hub with sysOffset := BitVec.ofNat 64 v } }
  | .apBase => { s with hub := { s.hub with apBase := BitVec.ofNat 64 v } }
  | .fwCtl => { s with hub := { s.hub with flashWrite := bit v 2 } }
  | .snapCtl => { s with hub := { s.hub with snaptCtx := BitVec.ofNat 32 (v / 2 ^ 32), snapClass := bits v 8 8 } }
  | .ctx c k => writeCtx s c k v written
  | .disp h k => writeDisp s h k v written
  | .venc n => { s with vencs := SMap.set Venc.reset n { s.venc n with reg := BitVec.ofNat 64 v } s.vencs }
  | _ => s

/-- A write to BAR 0: discarded and reported, or taken with the effect that its register gives it. -/
def hostWrite (s : State) (w : HostWrite) (f : Reg → Nat → State) : State :=
  match writeErr s w with
  | some n => regErr s n w.off
  | none =>
    match wReg w with
    | some r => f r (if isAction r then wValue w else wMerged w (regVal s r))
    | none => s

/-- REGISTER_WRITE (R13). -/
def execRegisterWrite (w : HostWrite) (s : State) : Host.Outcome State Fault Refusal :=
  .next (hostWrite s w (fun r v => writeReg s r v (wValue w &&& wBits w)))

/-- A read of BAR 0 (R12, R52): the register or half of it; a reserved address reads zero; another form all ones. -/
def hostReadReg (s : State) (off : Nat) (wide : Bool) : State :=
  let v := match regAt (off / 8 * 8) with | some r => regVal s r | none => 0
  if (if wide then off % 8 else off % 4) ≠ 0 then
    { regErr s 7 off with answers := s.answers ++ [BitVec.allOnes 64] }
  else
    { s with answers := s.answers ++ [BitVec.ofNat 64 (if wide then v else v / 2 ^ (8 * (off % 8)) % 2 ^ 32)] }

/-- An access of another size than 32 or 64 bits: n bytes, of a write the value and its Relaxed Ordering
attribute (R52, R79). -/
def hostBadAccess (s : State) (off n : Nat) (isRead : Bool) (val : Nat) (relaxed : Bool) : State :=
  let up := 2 ^ (8 * (off % 8))
  let sub := match regAt (off / 8 * 8), isRead with
    | _, true => 7
    | none, false => 2
    | some r, false =>
      (((writeConds s r ((2 ^ (8 * n) - 1) * up % 2 ^ 64) (val % 2 ^ (8 * n) * up % 2 ^ 64) relaxed true).find? (·.2)).map (·.1)).getD 7
  let s := regErr s sub off
  if isRead then { s with answers := s.answers ++ [BitVec.allOnes 64] } else s

end Sys2Proof.Machine
end

