-- ==== Sys2Proof/Machine/Launches.lean ====
section
/-!
DEFINITION. Launches (R66-R68, R111, R112, R132, R133, R136, R139, R140): reading ring entries, the entry feed, conditional
deliveries, retirement, unloading, and graph stalls.
-/

namespace Sys2Proof.Machine

/-- A field of a structure read from memory (R10). -/
def leAt (bs : List Byte) (off n : Nat) : Nat := natOfBytes ((bs.drop off).take n)

/-- A report of the hub's scheduler: UNIT 0x0000, WAVE 0xFFFF (R62, R68, R74). -/
def hubReport (c cause sub va detail : Nat) : Report :=
  reportOf c 0 0xFFFF 0 { cause := cause, sub := sub, va := va, lanes := 0, detail := detail }

/-! ### Reading a ring entry (R66, R67, R111, R112) -/

/-- The image of a context at an address; one being unloaded counts only where no other stands there. -/
def imageAt (s : State) (c va : Nat) : Option (Nat × Image) :=
  let here : SMap Image := (s.ctx c).images.filter (fun e => e.2.addr == va)
  match List.find? (fun e => e.2.st != .unloading) here with
  | some e => some e
  | none => here.head?

/-- The load of an image has been read and has not retired (R112). -/
def loadPending (s : State) (c id : Nat) : Bool :=
  (s.ctx c).launches.any (fun l => l.2.kind == .load && l.2.img == id)

/-- What is wrong with a launch of a graph, by the lowest sub-code of R67. -/
def launchFault (s : State) (bs : List Byte) (im : Option (Nat × Image)) : Option Nat :=
  let cl (off : Nat) : Nat := leAt bs off 4
  let l0 : BitVec 24 := BitVec.ofNat 24 (cl 0x18)
  let l1 : BitVec 24 := BitVec.ofNat 24 (cl 0x1C)
  let cores (sk : Nat) (m : BitVec 24) : Bool :=
    (s.die sk).st == .run && (usable s sk).any (fun p => m.getLsbD (p / 4))
  if leAt bs 0x16 2 ≠ 0 ∨ leAt bs 0x3C 4 ≠ 0 ∨ 2 ^ 24 ≤ cl 0x18 ∨ 2 ^ 24 ≤ cl 0x1C ∨ 4 ≤ cl 0x38 then some 1
  else match im with
    | none => some 2
    | some (_, x) =>
      if x.st ≠ .loaded then some 2
      else if x.nodes.length ≤ leAt bs 0x14 2 ∨ 2 ^ 24 < cl 0x10 then some 3
      else if !cores 0 l0 && !cores 1 l1 then some 4
      else if leAt bs 0x28 8 % 8 ≠ 0 then some 5
      else none

/-- The image header's page, and more, that an image takes: of one being loaded, what its container's IMAGE_SIZE says, where
that can be read. -/
def areaOf (s : State) (c id : Nat) (im : Image) : Nat :=
  if im.st ≠ .loading then im.size
  else
    match (s.ctx c).launches.findSome? (fun l => if l.2.kind = .load ∧ l.2.img = id then some l.2.entryVA else none) with
    | none => im.size
    | some va =>
      match walkFrom s (va + 0x10) .read 4 (s.ctx c).ptRoot with
      | .page v pa _ _ _ => max im.size (natOfBytes (homeBytes s (pa + (va + 0x10 - v)) 8))
      | _ => im.size

/-- What is wrong with a load or unload request (R67, R111). -/
def requestFault (s : State) (c : Nat) (bs : List Byte) : Option Nat :=
  let arg := leAt bs 0x20 8 / 4096 * 4096
  let images := (s.ctx c).images
  if leAt bs 0x10 8 ≠ 0 ∨ leAt bs 0x18 8 ≠ 0 ∨ leAt bs 0x3C 4 ≠ 0 ∨ 4 ≤ leAt bs 0x38 4 then some 1
  else
    let two : Bool :=
      if leAt bs 0x08 8 = 0 then !images.any (fun e => e.2.addr == arg && e.2.st == .loaded)
      else images.any (fun e => e.2.st != .unloading && decide (e.2.addr < arg + 4096 ∧ arg < e.2.addr + areaOf s c e.1 e.2))
    if two then some 2
    else if leAt bs 0x28 8 % 8 ≠ 0 ∨ leAt bs 0x08 8 % 8 ≠ 0 then some 5
    else none

/-- A free launch tag (R116): any one of them. -/
def freeTag (s : State) (c : Nat) : Nat :=
  let free_ := (List.range 8).filter (fun t => (launchOf s c t).isNone)
  free_.getD (Config.freeNat s.free 0x50000 % free_.length) 0

/-- The launch a descriptor describes, as it starts. -/
def launchFrom (s : State) (kind : LaunchKind) (img mmrev : Nat) (bs : List Byte) : Launch :=
  let graph := kind == .graph
  { kind := kind, img := img, entryVA := leAt bs 0x08 8, entryN := if graph then leAt bs 0x10 4 else 1,
    entryNode := leAt bs 0x14 2, cl0 := BitVec.ofNat 24 (leAt bs 0x18 4), cl1 := BitVec.ofNat 24 (leAt bs 0x1C 4),
    arg := BitVec.ofNat 64 (leAt bs 0x20 8), doneVA := leAt bs 0x28 8, doneVal := BitVec.ofNat 64 (leAt bs 0x30 8),
    irq := bit (leAt bs 0x38 4) 0, mmrev := mmrev, fed := 0, feedParked := false, doneParked := false, results := [],
    queued := [], running := [], unret := [], delivered := [], tree := [], started := s.hclk, stallFrom := none,
    order := s.nextId }

/-- HEAD advances by one and the launch is in flight (R67). -/
def enterLaunch (s : State) (c : Nat) (l : Launch) : State :=
  let tag := freeTag s c
  (updCtx s c (fun x => { x with head := x.head + 1, launches := SMap.insert tag l x.launches })).fresh

/-- At launch start the hub maps a half of the entry node (R122-R124): a half being evicted with nothing to write and
unclaimed, or unmapped with a slot free, is mapped at once, MAPPED where there is nothing to move in; else it takes the
slot of another half once that is evicted. -/
def mapNow (s : State) (qid sk : Nat) (q : Queue) : State :=
  let idle := (q.half sk).st == .evicting && (q.half sk).recs == [] && SMap.get 0 s.claims (halfKey qid sk) == 0
  if idle || ((q.half sk).st == .unmapped && decide (slotsUsed s sk < 512)) then
    setHalfSt s qid sk (if q.far = [] then .mapped else .mapping)
  else takeSlot s qid sk q

/-- At launch start the entry node's halves are mapped where the core set is not empty (R123). -/
def mapEntry (s : State) (c : Nat) (l : Launch) : State :=
  let qid := qidOf s c l.img l.entryNode
  (List.range 2).foldl (fun s sk =>
    match SMap.find? s.queues qid with
    | some q => if kindOf s c l.img l.entryNode ≤ 3 ∧ coreSet s l sk ≠ [] then mapNow s qid sk q else s
    | none => s) s

/-- A hub read of a descriptor, or the walk of an image header's page, meets a fault (R67, R111): one of R196 makes it
F_LAUNCH_FETCH with the walk's cause in SUBCODE; an error of the memory itself has its own cause (R25, R46).
DESIGN CHOICE, log 26, unsafe: an address with bits [63:52] set, which R196 does not list, has the cause F_VA_RANGE itself;
an access of the loader fails with LOAD_FETCH and that cause. -/
def fetchFault (s : State) (c cause va : Nat) : State :=
  if cause = fPageNotPresent ∨ cause = fPagePerm ∨ cause = fPteFormat ∨ cause = fPhysRange then
    s.fatal (hubReport c fLaunchFetch cause va 0)
  else s.fatal (hubReport c cause 0 va 0)

/-- A load request: the image header's page is translated for the header that the load writes first (R111). -/
def readLoad (s : State) (c : Nat) (bs : List Byte) : State :=
  let arg := leAt bs 0x20 8 / 4096 * 4096
  match hubGate s 0 c arg 64 .write (askHub c) with
  | .wait s => s
  | .park ps => match ps with
    | p :: _ => fetchFault s c p.1 arg
    | [] => s
  | .fatal f _ => fetchFault s c f arg
  | .go _ =>
    let id := s.nextId
    let im : Image := { addr := arg, size := 4096, seq := 0, st := .loading, mmrev := 3, nodes := [], edges := [], cedges := [],
                        fmts := [], spill := none, plan := [], qdir := [], mcode := [], mbase := 0, safe := [], segs := [], indir := [],
                        rets := [] }
    let s := updCtx s.fresh c (fun x => { x with images := SMap.insert id im x.images })
    enterLaunch s c (launchFrom s .load id 3 bs)

/-- A launch under SERIAL sees every effect of the launches that retired before it (R211). -/
def serialStart (s : State) : State := (l1Cores s).foldl l1Clear s

/-- What a whole descriptor does (R67, R111, R112).
DESIGN CHOICE, log 26, unsafe: a request or launch that names an image being loaded and also meets sub-code 1 faults at once. -/
def readEntry (s : State) (c va : Nat) (bs : List Byte) : State :=
  let x := s.ctx c
  let serial := bit (leAt bs 0x38 4) 1
  let bad (sub : Nat) : State := s.fatal (hubReport c fLaunchDesc sub va 0)
  if serial ∧ (x.launches ≠ [] ∨ (l1Cores s).any (releaseWaits s)) then s
  else if leAt bs 0 8 = 0 then
    let arg := leAt bs 0x20 8 / 4096 * 4096
    let waits := leAt bs 0x08 8 == 0 && x.images.any (fun e => e.2.addr == arg && loadPending s c e.1)
    let wrong := requestFault s c bs
    if waits ∧ wrong ≠ some 1 then s
    else match wrong with
    | some n => bad n
    | none =>
      if leAt bs 0x08 8 ≠ 0 then readLoad s c bs
      else match imageAt s c arg with
        | some (id, _) =>
          let s := updCtx s c (fun x => { x with images := SMap.modify id (fun i => { i with st := .unloading }) x.images })
          enterLaunch s c (launchFrom s .unload id 3 bs)
        | none => bad 2
  else
    let im := imageAt s c (leAt bs 0 8)
    let waits : Bool := match im with | some (id, _) => loadPending s c id | none => false
    let wrong := launchFault s bs im
    if waits ∧ wrong ≠ some 1 then s
    else match wrong with
    | some n => bad n
    | none =>
      match im with
      | some (id, i) =>
        let l := launchFrom s .graph id i.mmrev bs
        mapEntry (enterLaunch (if serial then serialStart s else s) c l) c l
      | none => s

/-- LAUNCH_READ (R67): the hub reads and checks ring entry HEAD of an ACTIVE context. -/
def execLaunchRead (c : Nat) (s : State) : Host.Outcome State Fault Refusal :=
  let x := s.ctx c
  if x.st ≠ .active ∨ x.head = x.tail ∨ x.launches.length ≥ 8 ∨ x.ringLog = 0 then .next s
  else
    let va := x.ringBase + 64 * (x.head.toNat % 2 ^ x.ringLog)
    match hubGate s 0 c va 64 .read (askHub c) with
    | .wait s => .next s
    | .park ps => match ps with
      | p :: _ => .next (fetchFault s c p.1 va)
      | [] => .next s
    | .fatal f _ => .next (fetchFault s c f va)
    | .go pas =>
      let (s, bs) := hubRead s pas
      .next (readEntry s c va bs)

/-! ### The entry feed (R132, R133) -/

/-- The deal list of a launch (R133). -/
def dealList (s : State) (l : Launch) : List Nat := coreSet s l 0 ++ coreSet s l 1

/-- Where entry record i goes: its stack, and for a KIND 0 node its load, whose core is that of its first record.
DEDUCED, log 19: the core set that deals a load is that of the moment its first record is fed. -/
def feedPlace (s : State) (l : Launch) (nd : NodeInfo) (i : Nat) : Option (Nat × Option (Nat × Nat)) :=
  let deal := dealList s l
  if nd.kind = 0 then
    let j := i / (nd.width * nd.team)
    let core : Option Nat := match l.dealt with
      | some (n, g) => if n = j then some g else deal[j % deal.length]?
      | none => deal[j % deal.length]?
    core.map (fun g => (stackOfCore g, some (g, j)))
  else if coreSet s l 0 ≠ [] then some (0, none)
  else if deal ≠ [] then some (1, none) else none

/-- The number of the entry feed of a launch as an emitter (R28). -/
def feedSrc (c tag : Nat) : Nat := 0x20000 + c * 8 + tag

/-- ENTRY_FEED_RECORD (R132, R133): the next entry record goes to ENTRY_NODE's queue, while there is room. -/
def execEntryFeedRecord (c tag : Nat) (s : State) : Host.Outcome State Fault Refusal :=
  match launchOf s c tag with
  | none => .next s
  | some l =>
    match nodeOf s c l.img l.entryNode, SMap.find? s.queues (qidOf s c l.img l.entryNode) with
    | some nd, some q =>
      if (s.ctx c).st ≠ .active ∨ l.kind ≠ .graph ∨ feedDone l ∨ l.feedParked ∨ nd.qcap ≤ q.occ + q.rv then .next s
      else match feedPlace s l nd l.fed with
        | none => .next s
        | some (st, load) =>
          let size := recSize s c l.img l.entryNode
          let va := l.entryVA + l.fed * size
          match hubGate s 0 c va size .read (askTag c tag) with
          | .wait s => .next s
          | .park ps => .next ((updLaunch s c tag (fun l => { l with feedParked := true })).logPages c 0 0xFFFF 0 ps (askTag c tag))
          | .fatal f va => .next (s.fatal (hubReport c f 0 va 0))
          | .go pas =>
            let (s, bs) := hubRead s pas
            let r : Rec := { mkRec s (recWords size bs) tag 0 none with entry := some l.fed, load := load }
            let s := emitRec s.fresh (feedSrc c tag) st c l.img l.entryNode r
            .next (updLaunch s c tag (fun l => { l with fed := l.fed + 1, dealt := load.map (fun p => (p.2, p.1)) }))
    | _, _ => .next s

/-! ### Conditional edges (R136) -/

/-- The conditional edges of a node (R92). -/
def cedgesFrom (im : Image) (n : Nat) : List CEdge :=
  match im.nodes[n]? with
  | some nd => (im.cedges.drop nd.cedge0).take nd.cedges
  | none => []

/-- The record a conditional edge delivers (R136). -/
def deliveryRec (size : Nat) (result : Word) (p : Nat) : List Word :=
  recWords size (bytesOf 4 result.toNat ++ bytesOf 2 p)

/-- CONDITIONAL_DELIVERY (R136): node n has become DRAINED, and its matching conditional edges deliver. -/
def execConditionalDelivery (c tag n : Nat) (s : State) : Host.Outcome State Fault Refusal :=
  match launchOf s c tag with
  | none => .next s
  | some l =>
    match imageOf s c l.img with
    | none => .next s
    | some im =>
      if l.kind ≠ .graph ∨ (s.ctx c).st ≠ .active ∨ cedgesFrom im n = [] ∨ l.delivered.contains n ∨ !(closureOf im l n).drained then
        .next s
      else
        let result := SMap.get 0 l.results n
        let s := (cedgesFrom im n).foldl (fun s e =>
          if result &&& e.mask = e.value then
            emitRec s.fresh (0x30000 + n) 0 c l.img e.dst
              (mkRec s (deliveryRec (recSize s c l.img e.dst) result n) tag 0 none)
          else s) s
        .next (updLaunch s c tag (fun l => { l with delivered := l.delivered ++ [n] }))

/-! ### Retirement (R68, R139) -/

def total (m : SMap Nat) : Nat := m.foldl (fun a e => a + e.2) 0

/-- The conditions of R139; a load or unload has retired its work when its one step is done. -/
def mayRetire (s : State) (c : Nat) (l : Launch) : Bool :=
  feedDone l && (l.kind != .graph ||
    (total l.queued == 0 && total l.running == 0 && total l.unret == 0 &&
      match imageOf s c l.img with
      | some im => (List.range im.nodes.length).all (fun n =>
          cedgesFrom im n == [] || l.delivered.contains n || !(closureOf im l n).drained)
      | none => true))

/-- Halves of an image's empty queues give up their slots once no launch of it is in flight (R122). -/
def releaseHalves (s : State) (c img : Nat) : State :=
  if (s.ctx c).launches.any (fun l => l.2.kind == .graph && l.2.img == img) then s
  else
    let off (h : Half) : Half := if h.st = .mapped then { h with st := .evicting, since := s.hclk } else h
    { s with queues := s.queues.map (fun e =>
        if e.2.ctx = c ∧ e.2.img = img ∧ e.2.occ = 0 then
          (e.1, { e.2 with half0 := off e.2.half0, half1 := off e.2.half1 })
        else e) }

/-- An ACTIVE context with nothing in flight and an empty ring goes to IDLE (R59). -/
def idleCheck (s : State) (c : Nat) : State :=
  updCtx s c (fun x => if x.st = .active ∧ x.launches = [] ∧ x.head = x.tail then { x with st := .idle } else x)

/-- Every dirty byte and contribution of every L1 reaches its home: what the DONE write is ordered after (R68).
DEDUCED, log 12. -/
def releaseAll (s : State) : State := (l1Cores s).foldl l1Clean s

/-- Steps 2 to 4 of R68; the scheduler, or for a load or unload management core 0, counts it (R77).
DEDUCED, log 18. The image of a load that failed goes (R113). -/
def dropLaunch (s : State) (c tag : Nat) (l : Launch) : State :=
  let failed : Bool := match imageOf s c l.img with | some im => l.kind == .load && im.st == .loading | none => false
  let s := updCtx s c (fun x => { x with retired := x.retired + 1, launches := SMap.erase tag x.launches,
                                         images := if failed then SMap.erase l.img x.images else x.images })
  let s := (if l.irq then { s with msix := s.msix ++ [2 + c] } else s).count (if l.kind = .graph then 0 else 0x100)
  idleCheck (releaseHalves s c l.img) c

/-- A launch retires (R68): the DONE write, which may park or fault, and then the rest; while a link retrains that an
effect of the graph must cross, it waits (R29). -/
def retireLaunch (s : State) (c tag : Nat) (l : Launch) : State :=
  if (l1Cores s).any (releaseWaits s) then s
  else
  let s := releaseAll s
  if l.doneVA = 0 then dropLaunch s c tag l
  else match hubGate s 0 c l.doneVA 8 .write (askTag c tag) with
    | .wait s => s
    | .park ps => (updLaunch s c tag (fun l => { l with doneParked := true })).logPages c 0 0xFFFF 0 ps (askTag c tag)
    | .fatal f va => s.fatal (hubReport c f 0 va 0)
    | .go pas => dropLaunch (hubWrite s pas (bytesOf 8 l.doneVal.toNat)) c tag l

/-- GRAPH_RETIRE (R68, R139). -/
def execGraphRetire (c tag : Nat) (s : State) : Host.Outcome State Fault Refusal :=
  match launchOf s c tag with
  | none => .next s
  | some l =>
    if (s.ctx c).st ≠ .active ∨ l.doneParked ∨ !mayRetire s c l then .next s else .next (retireLaunch s c tag l)

/-- GRAPH_UNLOAD (R112): no launch of the image is left, so its queues and its moraine code go, and the unload may
retire. -/
def execGraphUnload (c tag : Nat) (s : State) : Host.Outcome State Fault Refusal :=
  match launchOf s c tag with
  | none => .next s
  | some l =>
    if l.kind ≠ .unload ∨ feedDone l ∨ (s.ctx c).st ≠ .active ∨
        (s.ctx c).launches.any (fun k => k.2.kind == .graph && k.2.img == l.img) then .next s
    else
      let s := dropQueues s (fun q => q.ctx == c && q.img == l.img)
      let s := updCtx s c (fun x => { x with images := SMap.erase l.img x.images })
      let s := updLaunch s c tag (fun l => { l with fed := 1 })
      .next (retireLaunch s c tag { l with fed := 1 })

/-! ### Stalls (R140) -/

/-- Records a vertical FIFO holds. -/
def EItem.held (it : EItem) : Option Transit :=
  match it with
  | .item c img node r => some { src := 0, stack := 0, ctx := c, img := img, node := node, rcd := r, park := .no }
  | .tex _ _ _ _ _ _ _ _ _ _ _ _ => none

/-- Records of the vertical FIFOs, the moraine dispatchers and the video engines. -/
def otherRecs (s : State) : List Transit :=
  s.vqs.flatMap (fun e => (e.2.ras ++ e.2.trv).filterMap EItem.held) ++ s.mdisp.flatMap (·.2) ++ s.vencs.flatMap (fun e => e.2.queue)

/-- Records of a launch that queues hold, with their nodes. -/
def heldRecs (s : State) (c tag : Nat) : List (Nat × Rec) :=
  let ofQueue (q : Queue) : List (Nat × Rec) :=
    if q.ctx = c then ((q.half0.recs ++ q.half1.recs ++ q.far).filter (fun r => r.tag == tag)).map (fun r => (q.node, r)) else []
  let ofTransit (ts : List Transit) : List (Nat × Rec) :=
    (ts.filter (fun t => t.ctx == c && t.rcd.tag == tag)).map (fun t => (t.node, t.rcd))
  s.queues.flatMap (fun e => ofQueue e.2) ++ ofTransit (otherRecs s)

/-- A record of a vertical FIFO, of a moraine dispatcher or of a video engine has a place to start. -/
def otherPlace (s : State) (t : Transit) : Bool :=
  s.mdisp.all (fun e => !e.2.contains t || (List.range 8).any (fun j => (SMap.find? s.kerns (e.1 * 8 + j)).isNone)) &&
    s.vencs.all (fun e => !e.2.queue.contains t || e.2.cur.isNone) &&
    s.vqs.all (fun e => !(e.2.trv.filterMap EItem.held).contains t || unitOpen s (clusterOfCore e.1) 2)

/-- Every eligible batch of the launch fails only the reservation or token test (R140). -/
def onlyRoom (s : State) (c tag : Nat) : Bool :=
  (List.range 2).all (fun sk => (List.range 4).all (fun kind =>
    ((candsOf s sk kind).filter (fun d => d.ctx == c && d.tag == tag)).all (fun d =>
      !roomFor s d.ctx d.img d.node d.recs &&
        (kind != 0 || (placeFor s d sk).isSome) && (kind != 3 || freeSeqs s d.ctx d.tag sk != []) &&
        (kind == 0 || kind == 3 || (freeBlock s d sk kind).isSome)))) &&
    ((otherRecs s).filter (fun t => t.ctx == c && t.rcd.tag == tag)).all (fun t =>
      !roomFor s t.ctx t.img t.node [t.rcd] && otherPlace s t)

/-- The conditions of R140 for a launch, at one moment. -/
def stalls (s : State) (c tag : Nat) (l : Launch) : Bool :=
  runnable s c && l.kind == .graph && decide (total l.running = 0) && heldRecs s c tag != [] && onlyRoom s c tag

/-- Since when the conditions of R140 hold for each launch. -/
def noteStalls (s : State) : State :=
  let from_ (c tag : Nat) (l : Launch) : Option Nat :=
    if stalls s c tag l then (match l.stallFrom with | some t => some t | none => some s.hclk) else none
  { s with ctxs := s.ctxs.map (fun x =>
      if x.2.launches = [] then x
      else (x.1, { x.2 with launches := x.2.launches.map (fun l => (l.1, { l.2 with stallFrom := from_ x.1 l.1 l.2 })) })) }

/-- GRAPH_STALL (R140): F_GRAPH_STALL with the node of the oldest held record in SUBCODE. -/
def execGraphStall (s : State) : Host.Outcome State Fault Refusal :=
  let due : List (Nat × Nat) := s.ctxs.flatMap (fun x => x.2.launches.filterMap (fun l =>
    match l.2.stallFrom with
    | some t => if t + 1048576 ≤ s.hclk ∧ stalls s x.1 l.1 l.2 then some (x.1, l.1) else none
    | none => none))
  .next (due.foldl (fun s p =>
    let oldest := (heldRecs s p.1 p.2).foldl (fun (a : Option (Nat × Rec)) r => match a with
      | none => some r
      | some b => if r.2.arr < b.2.arr then some r else some b) none
    match oldest with
    | some r => s.fatal (hubReport p.1 fGraphStall r.1 0 0)
    | none => s) s)

end Sys2Proof.Machine
end

