-- ==== Sys2Proof/Machine/Contexts.lean ====
section
/-!
DEFINITION. Contexts (R59-R64, R69-R71): the doorbell, the clock lock, CTX_CTL.EN, the commands of CTX_CMD, and TLB
invalidation; and the ACLK point that the lock moves (R31, R48).
-/

namespace Sys2Proof.Machine

/-! ### The clock lock (R31, R63) -/

/-- The lock value in force: the one being taken, or that of an ACTIVE context. -/
def lockHeld (s : State) : Option Nat :=
  if s.lock ≠ 0 then some s.lock
  else s.ctxs.findSome? (fun e => if e.2.st = .active ∧ e.2.clklock ≠ 0 then some e.2.clklock else none)

/-- The tree stops for a change of its point (R31). -/
def moveTo (s : State) (p : Nat) : State :=
  { s with moving := some p, stopAt := if s.moving.isSome then s.stopAt else s.hclk }

def setCtxSt (s : State) (c : Nat) (st : CtxSt) : State := updCtx s c (fun x => { x with st := st })

/-- A context leaves IDLE or WAIT_CLOCK for work, as its clock lock allows: it enters ACTIVE, or stands in WAIT_CLOCK while
another value is held or ACLK moves to its own. -/
def startCtx (s : State) (c : Nat) : State :=
  let v := (s.ctx c).clklock
  if v = 0 then setCtxSt s c .active
  else match lockHeld s with
    | none =>
      if s.point = v ∧ s.moving = none then setCtxSt s c .active
      else moveTo { setCtxSt s c .waitClock with lock := v } v
    | some u => if u = v ∧ s.lock = 0 then setCtxSt s c .active else setCtxSt s c .waitClock

/-- CLOCK_LOCK_ACQUIRE (R63): a waiting context finds no other value held. -/
def execClockLockAcquire (c : Nat) (s : State) : Host.Outcome State Fault Refusal :=
  let clear_ : Bool := match lockHeld s with | none => true | some u => u == (s.ctx c).clklock && s.lock == 0
  if (s.ctx c).st = .waitClock ∧ clear_ then
    .next (startCtx s c)
  else .next s

/-- Contexts whose lock a point below it breaks (R63). -/
def breakLocks (s : State) (p : Nat) : State :=
  let hit := s.ctxs.filter (fun e => e.2.st == .active && decide (p < e.2.clklock))
  if hit = [] then s
  else (hit.foldl (fun s e => updCtx s e.1 (fun x => { x with lockBroken := true })) s).err 7

/-- ACLK_POINT_CHANGE (R31): firmware starts a change to a point of 16 to 64 × 50 MHz: any, while no lock is held; to the
locked point, while one is. -/
def execAclkPointChange (p : Nat) (s : State) : Host.Outcome State Fault Refusal :=
  if p < 16 ∨ 64 < p ∨ !s.power then .next s
  else match lockHeld s with
    | some v => if p = v then .next (moveTo s p) else .next s
    | none => .next (moveTo s p)

/-- The tree runs at the new point, and contexts that waited for it enter ACTIVE (R31, R63). -/
def pointDone (s : State) : State :=
  match s.moving with
  | none => s
  | some p =>
    let s := { s with point := p, moving := none }
    if s.lock ≠ 0 ∧ s.lock = p then
      let wait := s.ctxs.filter (fun e => e.2.st == .waitClock && e.2.clklock == p)
      wait.foldl (fun s e => setCtxSt s e.1 .active) { s with lock := 0 }
    else s

/-- ACLK_POINT_CHANGE_DONE (R31). -/
def execAclkPointChangeDone (s : State) : Host.Outcome State Fault Refusal := .next (pointDone s)

/-- The tree stops for at most 10 µs, 20,000 HCLK (R31). -/
def pointDue (s : State) : State := if s.moving.isSome ∧ s.stopAt + 20000 ≤ s.hclk then pointDone s else s

/-- Firmware lowers ACLK to some lower point (R48, R49): how far is free. -/
def lowerPoint (s : State) (k : Nat) : State :=
  if s.point ≤ 16 then s
  else
    let p := 16 + Config.freeNat s.free k % (s.point - 16)
    breakLocks (moveTo s p) p

/-- POWER_LIMIT_EXCEEDED (R48). -/
def execPowerLimitExceeded (s : State) : Host.Outcome State Fault Refusal :=
  if s.power ∧ 16 < s.point then .next ((lowerPoint s 0x80000).err 6) else .next s

/-- THERMAL_ACTION (R49): dies 0-3 C0, C1, F0, F1 lower the point; H (4) is paced; D0-D3 (5-8) refresh twice as often; the
GDDR-7 devices (9) are paced. -/
def execThermalAction (d : Nat) (s : State) : Host.Outcome State Fault Refusal :=
  if !s.power ∨ 9 < d then .next s
  else if d < 4 then .next ((lowerPoint s 0x80001).err 5)
  else .next ({ s with paced := if s.paced.contains d then s.paced else s.paced ++ [d] }.err 5)

/-! ### The doorbell (R64) -/

/-- RING_DOORBELL: a permitted write of CTX_RING_TAIL. -/
def execRingDoorbell (w : HostWrite) (s : State) : Host.Outcome State Fault Refusal :=
  .next (hostWrite s w (fun r v => match r with
    | .ctx c .tail =>
      let s := updCtx s c (fun x => { x with tail := BitVec.ofNat 32 v })
      let x := s.ctx c
      if x.st = .idle ∧ x.tail ≠ x.head then startCtx s c else s
    | _ => s))

/-! ### CTX_CTL.EN (R59, R60, R112, R114) -/

/-- CTX_ENABLE: DISABLED to IDLE; the count of loads starts again. -/
def execCtxEnable (w : HostWrite) (s : State) : Host.Outcome State Fault Refusal :=
  .next (hostWrite s w (fun r v => match r with
    | .ctx c .ctl =>
      let s := writeCtx s c .ctl v 0
      if (s.ctx c).st = .disabled ∧ bit v 0 then updCtx s c (fun x => { x with st := .idle, loads := 0 }) else s
    | _ => s))

/-- The images of a context go, and with them their queues and moraine code (R114). -/
def dropImages (s : State) (c : Nat) : State :=
  updCtx (dropQueues s (fun q => q.ctx == c)) c (fun x => { x with images := [] })

/-- CTX_DISABLE: IDLE to DISABLED. -/
def execCtxDisable (w : HostWrite) (s : State) : Host.Outcome State Fault Refusal :=
  .next (hostWrite s w (fun r v => match r with
    | .ctx c .ctl =>
      let s := writeCtx s c .ctl v 0
      if (s.ctx c).st = .idle ∧ !bit v 0 then dropImages (setCtxSt s c .disabled) c else s
    | _ => s))

/-! ### Commands (R62) -/

/-- Everything parked of a context goes on (REPLAY) or gives up its access (STOP): the units themselves. -/
def unparkUnits (s : State) (c : Nat) : State :=
  let wake (w : Wave) : Wave :=
    if w.ctx = c ∧ w.park ≠ Park.no then { w with park := Park.no, readySince := s.aclk } else w
  let waves : SMap Wave := s.waves.map (fun e => (e.1, wake e.2))
  let teams : SMap Team := s.teams.map (fun e =>
    (e.1, if e.2.cons.ctx = c ∧ e.2.saved ≠ [] then { e.2 with saved := e.2.saved.map (fun w => (w.1, wake w.2)) } else e.2))
  let seqs : SMap Seq := s.seqs.map (fun e => (e.1, if e.2.cons.ctx = c then { e.2 with park := Park.no } else e.2))
  let saved : List Seq := s.savedSeqs.map (fun q => if q.cons.ctx = c then { q with park := Park.no } else q)
  let kerns : SMap Kern := s.kerns.map (fun e => (e.1, if e.2.cons.ctx = c then { e.2 with park := Park.no } else e.2))
  let sk : List (Nat × Nat × Kern) := s.savedKerns.map (fun e =>
    (e.1, e.2.1, if e.2.2.cons.ctx = c then { e.2.2 with park := Park.no } else e.2.2))
  let longs : List LongOp := s.longs.map (fun l => if l.ctx = c then { l with park := Park.no } else l)
  let transit : List Transit := s.transit.map (fun t => if t.ctx = c then { t with park := Park.no } else t)
  { s with waves := waves, teams := teams, seqs := seqs, savedSeqs := saved, kerns := kerns, savedKerns := sk, longs := longs,
           transit := transit }

/-- Parked engine entries and video frames of a context run again, or are discarded. -/
def unparkEngines (s : State) (c : Nat) (again : Bool) : State :=
  let one (e : Engine) : Engine :=
    if again then
      { e with parkT := e.parkT.map (fun p => if p.2.1.ctxOf = c then (p.1, p.2.1, Park.no) else p)
               ready := e.ready ++ e.parkV.filter (fun r => r.1.ctx == c)
               parkV := e.parkV.filter (fun r => r.1.ctx != c) }
    else
      { e with parkT := e.parkT.filter (fun p => p.2.1.ctxOf != c || p.2.2 == Park.no)
               parkV := e.parkV.filter (fun r => r.1.ctx != c) }
  let video (v : Venc) : Venc :=
    match v.cur with
    | some f => if f.cons.ctx = c ∧ v.park ≠ Park.no then (if again then { v with park := Park.no } else { v with park := Park.no, cur := none }) else v
    | none => v
  let es : SMap Engine := s.engines.map (fun e => (e.1, one e.2))
  let vs : SMap Venc := s.vencs.map (fun e => (e.1, video e.2))
  { s with engines := es, vencs := vs }

/-- Something of a context is parked (R59, R71). -/
def anyParked (s : State) (c : Nat) : Bool :=
  let w (p : Nat × Wave) : Bool := p.2.ctx == c && p.2.park != Park.no
  s.waves.any w || s.teams.any (fun t => t.2.saved.any w) ||
    s.seqs.any (fun q => q.2.cons.ctx == c && q.2.park != Park.no) || s.savedSeqs.any (fun q => q.cons.ctx == c && q.park != Park.no) ||
    s.kerns.any (fun k => k.2.cons.ctx == c && k.2.park != Park.no) ||
    s.savedKerns.any (fun k => k.2.2.cons.ctx == c && k.2.2.park != Park.no) ||
    s.longs.any (fun l => l.ctx == c && l.park != Park.no) || s.transit.any (fun t => t.ctx == c && t.park != Park.no) ||
    s.engines.any (fun e => e.2.parkT.any (fun p => p.2.1.ctxOf == c && p.2.2 != Park.no) || e.2.parkV.any (fun r => r.1.ctx == c)) ||
    s.vencs.any (fun v => v.2.park != Park.no && (match v.2.cur with | some f => f.cons.ctx == c | none => false)) ||
    (s.ctx c).launches.any (fun l => l.2.feedParked || l.2.doneParked)

/-- PAGE_WAIT of every context after something parked is gone (R59). -/
def recheckWaits (s : State) : State :=
  { s with ctxs := s.ctxs.map (fun e => (e.1, if e.2.pageWait && !anyParked s e.1 then { e.2 with pageWait := false } else e.2)) }

/-- Nothing of a context is parked any more (R59, R71). -/
def unpark (s : State) (c : Nat) (again : Bool) : State :=
  updCtx (unparkEngines (unparkUnits s c) c again) c (fun x => { x with pageWait := false })

/-- STOP (R59, R62, R68, R69, R71): WAIT_CLOCK or ACTIVE to FAULTED; parked accesses are discarded. -/
def execStop (c : Nat) (s : State) : Host.Outcome State Fault Refusal :=
  let x := s.ctx c
  if x.st = .active ∨ x.st = .waitClock then
    let s := (setCtxSt (unpark s c false) c .active).fatal (hubReport c fHostStop 0 0 0)
    let others := s.ctxs.any (fun e => e.2.st == .waitClock && e.2.clklock == s.lock)
    .next (if s.lock ≠ 0 ∧ !others then { s with lock := 0 } else s)
  else .next s

/-- ABORT (R62, R70). -/
def execAbort (c : Nat) (s : State) : Host.Outcome State Fault Refusal :=
  if (s.ctx c).st = .faulted then .next (updCtx s c (fun x => { x with st := .aborting, fatal := 0 })) else .next s

/-- Everything a context holds on the device is released (R70): its units, its records and what its queues hold, parked
accesses, and loads and unloads in progress. -/
def releaseCtx (s : State) (c : Nat) : State :=
  let teams := s.teams.filter (fun e => e.2.cons.ctx == c)
  let engine (e : Engine) : Engine :=
    { e with parkT := e.parkT.filter (fun p => p.2.1.ctxOf != c), parkV := e.parkV.filter (fun r => r.1.ctx != c),
             ready := e.ready.filter (fun r => r.1.ctx != c) }
  let vq (v : VQueue) : VQueue :=
    { tex := v.tex.filter (fun e => e.ctxOf != c), ras := v.ras.filter (fun e => e.ctxOf != c), trv := v.trv.filter (fun e => e.ctxOf != c),
      hold := v.hold.filter (fun h => match SMap.find? s.waves h.2 with | some w => w.ctx != c | none => false) }
  let venc (v : Venc) : Venc :=
    let mine : Bool := match v.cur with | some f => f.cons.ctx == c | none => false
    { v with queue := v.queue.filter (fun t => t.ctx != c), cur := if mine then none else v.cur,
             stalled := v.stalled && !mine, park := if mine then Park.no else v.park }
  let queue (q : Queue) : Queue :=
    if q.ctx = c then { q with half0 := Half.empty, half1 := Half.empty, far := [], pages := [], occ := 0, rv := 0, lingered := [] }
    else q
  let mine := (s.queues.filter (fun e => e.2.ctx == c)).map (·.1)
  let s := { s with
    teams := s.teams.filter (fun e => e.2.cons.ctx != c)
    waves := s.waves.filter (fun e => e.2.ctx != c)
    mons := s.mons.filter (fun m => match SMap.find? s.waves m.wave with | some w => w.ctx != c | none => false)
    longs := s.longs.filter (fun l => l.ctx != c)
    seqs := s.seqs.filter (fun e => e.2.cons.ctx != c)
    savedSeqs := s.savedSeqs.filter (fun q => q.cons.ctx != c)
    kerns := s.kerns.filter (fun e => e.2.cons.ctx != c)
    savedKerns := s.savedKerns.filter (fun e => e.2.2.cons.ctx != c)
    transit := s.transit.filter (fun t => t.ctx != c)
    mdisp := (s.mdisp.map (fun e => (e.1, e.2.filter (fun t => t.ctx != c)))).filter (fun e => e.2 != [])
    engines := s.engines.map (fun e => (e.1, engine e.2))
    vqs := s.vqs.map (fun e => (e.1, vq e.2))
    vencs := s.vencs.map (fun e => (e.1, venc e.2))
    queues := s.queues.map (fun e => (e.1, queue e.2))
    steals := s.steals.filter (fun t => t.ctx != c)
    wfault := s.wfault.filter (fun f => f.ctx != c) }
  let s := teams.foldl (fun s t => if t.2.migrate then liftThrottle s t.1 t.2.core else s) s
  dropClaims s mine.contains

/-- ABORT_RELEASE_DONE (R70, R112, R114): HEAD = TAIL, no launch is left, loaded images stay, and the context is IDLE.
DEDUCED, log 28. -/
def execAbortReleaseDone (s : State) : Host.Outcome State Fault Refusal :=
  let cs := s.ctxs.filter (fun e => e.2.st == .aborting)
  .next (cs.foldl (fun s e =>
    let c := e.1
    let gone := (e.2.images.filter (fun i => i.2.st != .loaded)).map (·.1)
    let s := releaseCtx s c
    let s := dropQueues s (fun q => q.ctx == c && gone.contains q.img)
    updCtx s c (fun x => { x with st := .idle, head := x.tail, launches := [], tokens := 65536, seen := [], pageWait := false,
                                  images := x.images.filter (fun i => i.2.st == .loaded) })) s)

/-- REPLAY (R62, R71, R75): in ACTIVE, everything parked reissues its access, and pages are reported afresh. -/
def execReplay (c : Nat) (s : State) : Host.Outcome State Fault Refusal :=
  if (s.ctx c).st = .active then
    let s := unpark s c true
    let ls : SMap Launch := (s.ctx c).launches.map (fun l => (l.1, { l.2 with feedParked := false, doneParked := false }))
    .next (updCtx { s with wfault := s.wfault.filter (fun f => f.ctx != c) } c (fun x => { x with seen := [], launches := ls }))
  else .next s

/-! ### TLB invalidation (R71) -/

/-- The bytes of a page of HUB_TLB_INVAL.SIZE. -/
def invalSize (n : Nat) : Nat :=
  match n with | 0 => 0x1000 | 1 => 0x10000 | 2 => 0x200000 | 3 => 0x40000000 | 4 => 0x100000000 | _ => 2 ^ 52

/-- TLB_INVALIDATE: a write of GO. -/
def execTlbInvalidate (w : HostWrite) (s : State) : Host.Outcome State Fault Refusal :=
  .next (hostWrite s w (fun r v => match r with
    | .tlbInval =>
      if bit v 63 then { s with hub := { s.hub with inval := some (bits v 58 5, bits v 55 3, bits v 12 40 * 4096) } } else s
    | _ => s))

/-- A copy of a context has been translated and is not performed (R197). -/
def copyInFlight (s : State) (c : Nat) : Bool :=
  s.waves.any (fun w => w.2.ctx == c && w.2.ops.any (fun o => match o.kind with | .copy _ _ _ _ => true | _ => false))

/-- TLB_INVALIDATE_DONE: no TLB holds a matching entry, no walk that began before GO is left, and BUSY falls. A walk reads
the tables as it ends, so those still waiting read them afresh. Copies that were translated are performed first, and a span
that uses a matching translation is discarded and runs again from its checkpoint (R180, R197, R439).
DESIGN CHOICE, log 11, safe: BUSY waits for every copy of the context. -/
def execTlbInvalidateDone (s : State) : Host.Outcome State Fault Refusal :=
  match s.hub.inval with
  | none => .next s
  | some (c, size, va) =>
    if copyInFlight s c then .next s else
    let n := invalSize size
    let lo := if n = 2 ^ 52 then 0 else va / n * n
    let hit (p m : Nat) : Bool := decide (p < lo + n ∧ lo < p + m)
    let cut (es : List TlbE) : List TlbE := es.filter (fun e => !(e.ctx == c && hit e.va e.size))
    let t1 : SMap (List TlbE) := s.tlb1.map (fun e => (e.1, cut e.2))
    let t2 : SMap (List TlbE) := s.tlb2.map (fun e => (e.1, cut e.2))
    let kerns : SMap Kern := s.kerns.map (fun e =>
      (e.1, if e.2.cons.ctx = c ∧ e.2.pages.any (fun p => hit (p * 4096) 4096) then e.2.discard else e.2))
    .next { s with tlb1 := t1, tlb2 := t2, kerns := kerns, hub := { s.hub with inval := none },
                   wfault := s.wfault.filter (fun f => !(f.ctx == c && hit (f.page * 4096) 4096)) }

end Sys2Proof.Machine
end

