-- ==== Sys2Proof/Machine/Crypto.lean ====
section
/-!
DEFINITION. The algorithms that R81-R83 name: SHA-384, ECDSA over P-384, and LMS_SHA256_M32 with LMOTS_SHA256_N32_W8. Their
standards (FIPS 180-4, FIPS 186-5, RFC 8554) are outside the spec.
PRESUMED, log 33: the standards' text; a byte string is big-endian, as R81 has it.
-/

namespace Sys2Proof.Machine

/-! ### SHA-2 -/

/-- The bytes of a number, most significant first. -/
def bytesBE (n v : Nat) : List Byte := (List.range n).reverse.map (fun j => BitVec.ofNat 8 (v / 2 ^ (8 * j)))

def natBE (bs : List Byte) : Nat := bs.foldl (fun v b => v * 256 + b.toNat) 0

/-- The greatest r below 2^bits with r^k at most x. -/
def rootBelow (k x bits : Nat) : Nat :=
  (List.range bits).reverse.foldl (fun r b => if (r + 2 ^ b) ^ k ≤ x then r + 2 ^ b else r) 0

/-- The first 80 primes. -/
def shaPrimes : List Nat :=
  (List.range 410).filter (fun n => decide (2 ≤ n) && (List.range 21).all (fun d => decide (d < 2 ∨ n ≤ d ∨ n % d ≠ 0)))

/-- 64 bits of the fractional part of the k-th root of a prime. -/
def rootBits (k p : Nat) : Nat := rootBelow k (p * 2 ^ (64 * k)) 72 % 2 ^ 64

/-- A member of the family by its word size: the sizes of a block and of its length field in bytes, the two Σ, the two σ
(two rotations and a shift), the round constants and the initial value. -/
structure Sha2 (w : Nat) where
  block : Nat
  len   : Nat
  bigA  : List Nat
  bigE  : List Nat
  s0    : Nat × Nat × Nat
  s1    : Nat × Nat × Nat
  k     : List (BitVec w)
  iv    : List (BitVec w)

def Sha2.big {w : Nat} (rs : List Nat) (x : BitVec w) : BitVec w := rs.foldl (fun a r => a ^^^ x.rotateRight r) 0
def Sha2.small {w : Nat} (r : Nat × Nat × Nat) (x : BitVec w) : BitVec w :=
  x.rotateRight r.1 ^^^ x.rotateRight r.2.1 ^^^ (x >>> r.2.2)

/-- The message schedule of a block, the newest word first. -/
def Sha2.schedule {w : Nat} (h : Sha2 w) (m : List (BitVec w)) : List (BitVec w) :=
  (List.range (h.k.length - 16)).foldl (fun l _ =>
    (small h.s1 (l.getD 1 0) + l.getD 6 0 + small h.s0 (l.getD 14 0) + l.getD 15 0) :: l) m.reverse

/-- One round on a b c d e f g h. -/
def Sha2.round {w : Nat} (h : Sha2 w) (v : List (BitVec w)) (kw : BitVec w × BitVec w) : List (BitVec w) :=
  match v with
  | [a, b, c, d, e, f, g, x] =>
    let t := x + big h.bigE e + ((e &&& f) ^^^ (~~~e &&& g)) + kw.1 + kw.2
    [t + big h.bigA a + ((a &&& b) ^^^ (a &&& c) ^^^ (b &&& c)), a, b, c, d + t, e, f, g]
  | v => v

/-- The words of a byte string. -/
def Sha2.words (w : Nat) : Nat → List Byte → List (BitVec w)
  | 0, _ => []
  | n + 1, bs => BitVec.ofNat w (natBE (bs.take (w / 8))) :: Sha2.words w n (bs.drop (w / 8))

def Sha2.compress {w : Nat} (h : Sha2 w) (v : List (BitVec w)) (b : List Byte) : List (BitVec w) :=
  List.zipWith (· + ·) v ((h.k.zip (h.schedule (Sha2.words w 16 b)).reverse).foldl h.round v)

/-- A message with its padding. -/
def Sha2.pad {w : Nat} (h : Sha2 w) (m : List Byte) : List Byte :=
  let short := (m.length + 1 + h.len) % h.block
  m ++ 0x80 :: List.replicate ((h.block - short) % h.block) 0 ++ bytesBE h.len (8 * m.length)

def Sha2.blocks {w : Nat} (h : Sha2 w) : Nat → List Byte → List (BitVec w) → List (BitVec w)
  | 0, _, v => v
  | n + 1, bs, v => h.blocks n (bs.drop h.block) (h.compress v (bs.take h.block))

/-- The words of the digest. -/
def Sha2.run {w : Nat} (h : Sha2 w) (m : List Byte) : List Byte :=
  let p := h.pad m
  (h.blocks (p.length / h.block) p h.iv).flatMap (fun x => bytesBE (w / 8) x.toNat)

def sha384H : Sha2 64 :=
  { block := 128, len := 16, bigA := [28, 34, 39], bigE := [14, 18, 41], s0 := (1, 8, 7), s1 := (19, 61, 6)
    k := shaPrimes.map (fun p => BitVec.ofNat 64 (rootBits 3 p))
    iv := ((shaPrimes.drop 8).take 8).map (fun p => BitVec.ofNat 64 (rootBits 2 p)) }

def sha256H : Sha2 32 :=
  { block := 64, len := 8, bigA := [2, 13, 22], bigE := [6, 11, 25], s0 := (7, 18, 3), s1 := (17, 19, 10)
    k := (shaPrimes.take 64).map (fun p => BitVec.ofNat 32 (rootBits 3 p / 2 ^ 32))
    iv := (shaPrimes.take 8).map (fun p => BitVec.ofNat 32 (rootBits 2 p / 2 ^ 32)) }

def sha384 (m : List Byte) : List Byte := (sha384H.run m).take 48
def sha256 (m : List Byte) : List Byte := sha256H.run m

/-! ### ECDSA over P-384 -/

def p384P : Nat := 2 ^ 384 - 2 ^ 128 - 2 ^ 96 + 2 ^ 32 - 1
def p384N : Nat := 0xffffffffffffffffffffffffffffffffffffffffffffffffc7634d81f4372ddf581a0db248b0a77aecec196accc52973
def p384B : Nat := 0xb3312fa7e23ee7e4988e056be3f82d19181d9c6efe8141120314088f5013875ac656398d8a2ed19d2a85c8edd3ec2aef
def p384G : Nat × Nat :=
  (0xaa87ca22be8b05378eb1c71ef320ad746e1d3b628ba79b9859f741e082542a385502f25dbf55296c3a545e3872760ab7,
   0x3617de4a96262c6f5d9e98bf9292dc29f8f41dbd289a147ce9da3113b5f0b8c00a60b1ce1d7e819d7a431d7c90ea0e5f)

def powMod (m b e : Nat) : Nat :=
  (List.range 384).reverse.foldl (fun r i => let r := r * r % m; if e.testBit i then r * b % m else r) 1

/-- The inverse modulo a prime. -/
def invMod (m x : Nat) : Nat := powMod m x (m - 2)

/-- A point of the curve y² = x³ − 3x + b; none is the point at infinity. -/
def p384On (q : Nat × Nat) : Bool :=
  decide (q.1 < p384P ∧ q.2 < p384P ∧ (q.2 * q.2 + 3 * q.1) % p384P = (q.1 * q.1 * q.1 + p384B) % p384P)

def p384Add (a b : Option (Nat × Nat)) : Option (Nat × Nat) :=
  match a, b with
  | none, q => q
  | q, none => q
  | some (x, y), some (u, v) =>
    let m := p384P
    if x = u ∧ (y + v) % m = 0 then none
    else
      let l := if x = u then (3 * x * x + (m - 3)) * invMod m (2 * y) % m else (v + (m - y)) * invMod m (u + (m - x)) % m
      let z := (l * l + (m - x) + (m - u)) % m
      some (z, (l * (x + (m - z)) + (m - y)) % m)

def p384Mul (k : Nat) (q : Option (Nat × Nat)) : Option (Nat × Nat) :=
  (List.range 384).reverse.foldl (fun r i => let r := p384Add r r; if k.testBit i then p384Add r q else r) none

/-- The public key of a private key, as an uncompressed point of 97 bytes. -/
def ecdsaPublic (d : Nat) : List Byte :=
  match p384Mul d (some p384G) with | some q => 4 :: bytesBE 48 q.1 ++ bytesBE 48 q.2 | none => []

/-- The signature r, s over a digest verifies under a public key. -/
def ecdsaVerifies (key digest sig : List Byte) : Bool :=
  let q := (natBE ((key.drop 1).take 48), natBE ((key.drop 49).take 48))
  let r := natBE (sig.take 48)
  let s := natBE ((sig.drop 48).take 48)
  let n := p384N
  if key.length = 97 ∧ key.head? = some 4 ∧ p384On q ∧ sig.length = 96 ∧ 0 < r ∧ r < n ∧ 0 < s ∧ s < n then
    let w := invMod n s
    match p384Add (p384Mul (natBE digest * w % n) (some p384G)) (p384Mul (r * w % n) (some q)) with
    | some x => x.1 % n == r
    | none => false
  else false

/-- The signature over a digest with private key d and the secret number k of this signature. -/
def ecdsaSign (d k : Nat) (digest : List Byte) : List Byte :=
  let r := match p384Mul k (some p384G) with | some x => x.1 % p384N | none => 0
  bytesBE 48 r ++ bytesBE 48 (invMod p384N k * (natBE digest + r * d) % p384N)

/-! ### LMS -/

/-- The prefix of a hash: the key's identifier, the leaf or node, and a tag. -/
def lmsHead (id : List Byte) (q tag : Nat) : List Byte := id ++ bytesBE 4 q ++ bytesBE 2 tag

/-- The 34 digits of a message: its hash and the checksum. -/
def lmsDigits (id : List Byte) (q : Nat) (c m : List Byte) : List Nat :=
  let h := sha256 (lmsHead id q 0x8181 ++ c ++ m)
  (h ++ bytesBE 2 (h.foldl (fun n b => n + (255 - b.toNat)) 0)).map BitVec.toNat

/-- A chain from one digit to another. -/
def lmsChain (id : List Byte) (q i a b : Nat) (x : List Byte) : List Byte :=
  (List.range (b - a)).foldl (fun x j => sha256 (lmsHead id q i ++ bytesBE 1 (a + j) ++ x)) x

/-- The one-time public key of the ends of the chains, as a leaf of the tree of height h. -/
def lmsLeaf (id : List Byte) (h q : Nat) (z : List (List Byte)) : List Byte :=
  sha256 (lmsHead id (2 ^ h + q) 0x8282 ++ sha256 (lmsHead id q 0x8080 ++ z.flatten))

/-- The parent of two nodes. -/
def lmsJoin (id : List Byte) (node : Nat) (l r : List Byte) : List Byte := sha256 (lmsHead id node 0x8383 ++ l ++ r)

/-- Up the tree from a node along its path. -/
def lmsClimb (id : List Byte) : Nat → List Byte → List (List Byte) → List Byte
  | _, x, [] => x
  | node, x, y :: ys => lmsClimb id (node / 2) (if node % 2 = 1 then lmsJoin id (node / 2) y x else lmsJoin id (node / 2) x y) ys

def chunks32 (n : Nat) (bs : List Byte) : List (List Byte) := (List.range n).map (fun i => (bs.drop (32 * i)).take 32)

/-- The number of LMS_SHA256_M32_H5 to H25 with a height. -/
def lmsType (h : Nat) : List Byte := bytesBE 4 (4 + h / 5)

/-- A signature of height h verifies over a message. -/
def lmsVerifies (h : Nat) (key m sig : List Byte) : Bool :=
  let id := (key.drop 8).take 16
  let q := natBE (sig.take 4)
  let c := (sig.drop 8).take 32
  let y := chunks32 34 (sig.drop 40)
  let path := chunks32 h (sig.drop 1132)
  if key.length = 56 ∧ key.take 8 = lmsType h ++ bytesBE 4 4 ∧ sig.length = 1132 + 32 * h ∧ (sig.drop 4).take 4 = bytesBE 4 4 ∧
      (sig.drop 1128).take 4 = lmsType h ∧ q < 2 ^ h then
    let z := ((lmsDigits id q c m).zip y).zipIdx.map (fun d => lmsChain id q d.2 d.1.1 255 d.1.2)
    lmsClimb id (2 ^ h + q) (lmsLeaf id h q z) path == key.drop 24
  else false

/-- The start of chain i of leaf q, from the private seed. -/
def lmsStart (seed id : List Byte) (q i : Nat) : List Byte := sha256 (lmsHead id q i ++ 0xFF :: seed)

/-- Node `node` of the tree of height h, `up` levels above the leaves. -/
def lmsNode (seed id : List Byte) (h : Nat) : Nat → Nat → List Byte
  | 0, node => lmsLeaf id h (node - 2 ^ h) ((List.range 34).map (fun i =>
      lmsChain id (node - 2 ^ h) i 0 255 (lmsStart seed id (node - 2 ^ h) i)))
  | up + 1, node => lmsJoin id node (lmsNode seed id h up (2 * node)) (lmsNode seed id h up (2 * node + 1))

/-- The public key of a private seed. -/
def lmsPublic (h : Nat) (seed id : List Byte) : List Byte := lmsType h ++ bytesBE 4 4 ++ id ++ lmsNode seed id h h 1

/-- The signature with leaf q over a message, c being its random string. -/
def lmsSign (h : Nat) (seed id : List Byte) (q : Nat) (c m : List Byte) : List Byte :=
  bytesBE 4 q ++ bytesBE 4 4 ++ c ++
    ((lmsDigits id q c m).zipIdx.flatMap (fun d => lmsChain id q d.2 0 d.1 (lmsStart seed id q d.2))) ++
    lmsType h ++ (List.range h).flatMap (fun l => lmsNode seed id h l (((2 ^ h + q) / 2 ^ l) ^^^ 1))

end Sys2Proof.Machine
end

