-- ==== Sys2Proof/Machine/HubEvents.lean ====
section
/-!
DEFINITION. The hub's fault log (R72-R75), snapshot (R76, R77), the BAR 2 aperture (R51, R53), the MSI-X table of BAR 4 (R51,
R80), and memory errors (R25, R26, R79).
-/

namespace Sys2Proof.Machine

/-! ### Snapshot (R76, R77) -/

/-- What a unit is doing (R77): its code die × 0x800 + unit, status, context, address. -/
structure UnitView where
  code   : Nat
  status : Nat
  ctx    : Nat
  pc     : Nat
  deriving DecidableEq, Repr

def unitCode (unit : Nat) : Nat := unit / 4096 * 0x800 + unit % 4096

/-- Busy, stalled, and halted by FAULTED. -/
def viewOf (s : State) (unit c pc : Nat) (stalled : Bool) : UnitView :=
  { code := unitCode unit, status := 1 + flag stalled 1 + flag ((s.ctx c).st == .faulted) 2, ctx := c, pc := pc }

/-- The first work of the hub's units (R77): the scheduler's and management core 0's by the descriptor of the oldest launch,
graph or loader; the walker pool's by its page; a video frame's by its ring; a display head's by its surface.
DESIGN CHOICE, log 18, unsafe: which of a unit's work speaks for it. -/
def hubViews (s : State) : List UnitView :=
  let launches := s.ctxs.flatMap (fun e => e.2.launches.map (fun l => (e.1, l.2)))
  let oldest (p : Launch → Bool) : Option (Nat × Launch) := (launches.filter (fun l => p l.2)).foldl (fun a l =>
    match a with | some b => if l.2.order < b.2.order then some l else some b | none => some l) none
  let one (code : Nat) (w : Option (Nat × Nat × Bool)) : Option UnitView := w.map (fun x => viewOf s code x.1 x.2.1 x.2.2)
  [one 0 ((oldest (fun l => l.kind == .graph)).map (fun l => (l.1, l.2.entryVA, l.2.feedParked || l.2.doneParked))),
   one 0x100 ((oldest (fun l => l.kind != .graph)).map (fun l => (l.1, l.2.entryVA, l.2.feedParked || l.2.doneParked))),
   one 0x200 (s.walks.head?.map (fun w => (w.ctx, w.page * 4096, false))),
   one 0x300 (s.vencs.findSome? (fun e => e.2.cur.map (fun f => (f.cons.ctx, f.start, e.2.stalled || e.2.park != Park.no)))),
   one 0x400 (s.heads.findSome? (fun e => if bit e.2.ctl.toNat 0 then some (bits e.2.ctl.toNat 11 5, e.2.latched, false) else none))
  ].filterMap id

/-- The dispatchers by the oldest record of the first of their queues that holds one (R77). -/
def dispViews (s : State) : List UnitView :=
  ((List.range 2).filterMap (fun sk =>
    (s.queues.filter (fun e => (e.2.half sk).recs != [])).head?.map (fun e =>
      viewOf s (unitOfDispatcher sk) e.2.ctx 0 (!runnable s e.2.ctx)))) ++
    s.mdisp.filterMap (fun e => e.2.head?.map (fun t => viewOf s ((5 + e.1) * 4096 + 0x10) t.ctx (recAddr t.rcd) (!runnable s t.ctx)))

/-- The units that have work; of the waves of a core the lowest slot speaks for it. -/
def unitViews (s : State) : List UnitView :=
  let cores := s.waves.foldl (fun (l : List UnitView) w =>
    let v := viewOf s (unitOfCore (coreOfWave w.1)) w.2.ctx (pcOfWave w.2) (w.2.park != Park.no || w.2.run.isNone)
    if l.any (fun u => u.code == v.code) then l else l ++ [v]) []
  hubViews s ++ dispViews s ++ cores ++
    s.seqs.map (fun e => viewOf s (unitOfCluster e.1) e.2.cons.ctx e.2.h (e.2.park != Park.no)) ++
    s.kerns.map (fun e => viewOf s (unitOfMoraine e.1) e.2.cons.ctx (4 * e.2.regs.pc) (e.2.park != Park.no)) ++
    s.engines.filterMap (fun e =>
      match e.2.parkT, e.2.ready, e.2.parkV with
      | (_, .tex _ _ pc _ _ _ _ _ c _ _ _, p) :: _, _, _ => some (viewOf s (unitOfEngine e.1) c pc (p != Park.no))
      | _, r :: _, _ => some (viewOf s (unitOfEngine e.1) r.1.ctx (refAddr (qAt r.2 32)) false)
      | _, [], r :: _ => some (viewOf s (unitOfEngine e.1) r.1.ctx (refAddr (qAt r.2 32)) true)
      | _, [], [] => none)

/-- Latch the snapshot registers of every unit. -/
def latch (s : State) : SMap DWord :=
  let m := (unitViews s).foldl (fun (m : SMap DWord) u =>
    let put (k v : Nat) (m : SMap DWord) : SMap DWord := SMap.insert (u.code * 4 + k) (BitVec.ofNat 64 v) m
    put 2 u.pc (put 1 u.ctx (put 0 u.status m))) []
  let m := s.counts.foldl (fun m e => SMap.set 0 (unitCode e.1 * 4 + 3) (BitVec.ofNat 64 e.2) m) m
  SMap.set 0 (2 ^ 32) (BitVec.ofNat 64 s.free) m

/-- The trigger fires (R76): source 1 the host, 2 a fault, 3 SNAPT. Of a fault of no context the five bits of CTX read 31:
DESIGN CHOICE, log 18, unsafe. -/
def fire (s : State) (src seq cause c : Nat) : State :=
  { s with hub := { s.hub with armed := false, taken := true, bank := latch s, snapSrc := src, snapSeq := seq, snapCause := cause, snapCtx := c % 32 } }

/-- SNAP_FIRE.
DEDUCED, log 18: diagnostic bytes are free. -/
def execSnapFire (s : State) : Host.Outcome State Fault Refusal :=
  if s.hub.armed then .next (fire s 1 0 0 0) else .next s

/-- SNAP_REARM. -/
def execSnapRearm (s : State) : Host.Outcome State Fault Refusal := .next { s with hub := { s.hub with armed := true } }

/-- Whether a report fires the armed trigger (R76). -/
def fires (s : State) (r : Report) : Bool :=
  s.hub.armed && (if r.cause = fSnaptMark then s.hub.snaptCtx.getLsbD r.ctx
    else match causeClass r.cause with | some k => bit s.hub.snapClass k | none => false)

/-! ### The fault log (R72-R74) -/

/-- The 64 bytes of an entry (R74). -/
def entryBytes (seq : Nat) (r : Report) : List Byte :=
  bytesOf 2 r.cause ++ bytesOf 1 r.ctx ++ bytesOf 1 (r.flags + flag r.snap 3) ++ bytesOf 4 seq ++ bytesOf 8 r.va ++
    bytesOf 8 (r.time.getD 0) ++ bytesOf 2 r.unit ++ bytesOf 2 r.wave ++ bytesOf 4 r.sub ++ bytesOf 8 r.pc ++
    bytesOf 8 r.lanes.toNat ++ bytesOf 16 r.detail

/-- A hub write at a physical address; a reserved range takes nothing. -/
def physWrite (s : State) (pa : Nat) (bs : List Byte) : State :=
  if regionOf pa = .reserved ∨ 2 ^ 48 ≤ pa then s else homeStore s pa bs

/-- The address of the log's next entry (R72). -/
def logNext (s : State) : Nat := s.hub.flogBase + 64 * (s.hub.flogWr.toNat % ringSize s.hub.flogLog)

/-- Entries the log has room for: none while the home of the next one is out of service or a link to it retrains (R29).
DESIGN CHOICE, log 32, safe: an entry that R46 would lose is held as R72 has it of a full log. -/
def logRoom (s : State) : Nat :=
  if offline s (logNext s) || pathWaits s 2 (homeEnd (logNext s)) || lineWaits s none true (logNext s / 128) then 0
  else ringSize s.hub.flogLog - (s.hub.flogWr - s.hub.flogRd).toNat

/-- Write one entry, advance HUB_FLOG_WR, raise vector 0 (R72). -/
def writeEntry (s : State) (r : Report) : State :=
  let n := s.hub.flogWr.toNat
  let s := physWrite s (logNext s) (entryBytes n r)
  { s with hub := { s.hub with flogWr := s.hub.flogWr + 1 }, msix := s.msix ++ [0] }

/-- Write held entries in order as room allows (R72). -/
def flushHeld (s : State) : State :=
  s.hub.held.foldl (fun s r =>
    if 0 < logRoom s ∧ s.hub.held.head? = some r then writeEntry { s with hub := { s.hub with held := s.hub.held.drop 1 } } r else s) s

/-- The link between a unit's die and the hub, if there is one (R27). -/
def linkOf (unit : Nat) : Option Nat :=
  match unit / 4096 with
  | 1 => some 1 | 3 => some 1 | 5 => some 1 | 6 => some 1
  | 2 => some 2 | 4 => some 2 | 7 => some 2 | 8 => some 2
  | _ => none

def linkUp (s : State) (l : Nat) : Bool := SMap.get .up s.links l == .up

/-- A report may reach the hub: it is its unit's first, and the link carries packets. The hub itself reports die resets. -/
def arrives (s : State) (i : Nat) (r : Report) : Bool :=
  !(s.hub.reports.take i).any (fun q => q.unit == r.unit) &&
    (r.cause == fDieReset || match linkOf r.unit with | some l => linkUp s l | none => true)

/-- A report the hub takes: its time, the trigger, the ECC status bit. -/
def received (s : State) (i : Nat) (r : Report) : State × Report :=
  let seq := (s.hub.flogWr.toNat + s.hub.held.length) % 2 ^ 32
  let hit := fires s r
  let s := { s with hub := { s.hub with reports := s.hub.reports.eraseIdx i } }
  let s := if hit then fire s (if r.cause = fSnaptMark then 3 else 2) seq r.cause r.ctx else s
  (if r.cause = fEcc then s.err 2 else s, { r with time := some s.hclk, snap := hit })

/-- FAULT_REPORT (R72): report i reaches the hub and is written, held among 256, or stays with its unit. -/
def execFaultReport (i : Nat) (s : State) : Host.Outcome State Fault Refusal :=
  match s.hub.reports[i]? with
  | none => .next s
  | some r =>
    if !arrives s i r then .next s
    else if s.hub.held = [] ∧ 0 < logRoom s then
      let (s, r) := received s i r
      .next (writeEntry s r)
    else if s.hub.held.length < 256 then
      let (s, r) := received s i r
      .next ({ s with hub := { s.hub with held := s.hub.held ++ [r] } }.err 10)
    else .next s

/-- FLOG_RD_WRITE (R73). -/
def execFlogRdWrite (w : HostWrite) (s : State) : Host.Outcome State Fault Refusal :=
  .next (hostWrite s w (fun r v => match r with
    | .flogRd => flushHeld { s with hub := { s.hub with flogRd := BitVec.ofNat 32 v } }
    | _ => s))

/-- FLOG_CONFIG_WRITE (R73). -/
def execFlogConfigWrite (w : HostWrite) (s : State) : Host.Outcome State Fault Refusal :=
  .next (hostWrite s w (fun r v => match r with
    | .flogBase => flushHeld { s with hub := { s.hub with flogBase := v } }
    | .flogCfg => flushHeld { s with hub := { s.hub with flogLog := v } }
    | _ => s))

/-! ### The aperture (R53, R65, R82) -/

/-- The size of BAR 2 (R51). -/
def apertureSize (s : State) : Nat := 2 ^ s.hub.barLog

/-- The host gives BAR 2 another size, 1 GiB to 256 GiB (R51). -/
def resizeAperture (s : State) (l : Nat) : State :=
  if 30 ≤ l ∧ l ≤ 38 then { s with hub := { s.hub with barLog := l } } else s

/-- The physical address of an aperture offset: the base aligned to the BAR (R53). -/
def aperturePa (s : State) (o : Nat) : Nat := s.hub.apBase.toNat / apertureSize s * apertureSize s + o

/-- The offset is in the staging buffer of recovery (R82). -/
def inStaging (s : State) (o : Nat) : Bool := s.hub.fwState == 2 && decide (o < 0x4000000)

/-- Some byte of an access is reserved (R23), or lies in a moraine or save region, which BAR 2 treats so (R176, R438). -/
def touchesReserved (pa n : Nat) : Bool :=
  (List.range n).any (fun j => match regionOf (pa + j) with | .near _ => false | .far => false | .sys => false | _ => true)

/-- An access of the host waits while a link on its way carries nothing (R29), if its home is in service (R30, R46). -/
def hostWaits (s : State) (pa n : Nat) : Bool :=
  (linePieces pa n).any (fun p => !offline s p.1 && (pathWaits s 2 (homeEnd p.1) || lineWaits s none true (p.1 / 128)))

/-- A host access met an error of the memory itself, reported for no context (R25, R26, R46, R74). -/
def hostFault (s : State) (cause : Nat) : State :=
  s.send (reportOf 0xFF 0 0xFFFF 0 { cause := cause, sub := 0, va := 0, lanes := 0, detail := 0 })

/-- APERTURE_READ (R53): n bytes at offset o. -/
def execApertureRead (o n : Nat) (s : State) : Host.Outcome State Fault Refusal :=
  let answer (s : State) (v : Nat) : State := { s with answers := s.answers ++ [BitVec.ofNat 64 v] }
  let pa := aperturePa s o
  if apertureSize s < o + n ∨ hostWaits s pa n then .next s
  else if inStaging s o then .next (answer s (natOfBytes ((List.range n).map (fun j => SMap.get 0 s.hub.staging (o + j)))))
  else if touchesReserved pa n then .next (answer (regErr s 8 o) (2 ^ (8 * n) - 1))
  else if offline s pa then .next (answer (hostFault s fMemoryOffline) (Config.freeNat s.free 0x90000 % 2 ^ (8 * n)))
  else if poisoned s pa n then .next (answer (hostFault s fEcc) (Config.freeNat s.free 0x90000 % 2 ^ (8 * n)))
  else
    let (s, bs) := hubRead s (linePieces pa n)
    .next (answer s (natOfBytes bs))

/-- A host's bytes reach the DRAM of their home (R480).
DEDUCED, log 12: the lines stay valid and clean in the home cache. -/
def writeThrough (s : State) (pa : Nat) (bs : List Byte) : State :=
  (linePieces pa bs.length).foldl (fun s p => cleanLine s (p.1 / 128)) (hubWrite s [(pa, bs.length)] bs)

/-- APERTURE_WRITE (R53): the bytes at offset o. -/
def execApertureWrite (o : Nat) (bs : List Byte) (s : State) : Host.Outcome State Fault Refusal :=
  let pa := aperturePa s o
  if apertureSize s < o + bs.length ∨ bs = [] ∨ hostWaits s pa bs.length then .next s
  else if inStaging s o then
    .next { s with hub := { s.hub with staging := bs.zipIdx.foldl (fun m b => SMap.set 0 (o + b.2) b.1 m) s.hub.staging } }
  else if touchesReserved pa bs.length then .next (regErr s 8 o)
  else
    let t := writeThrough s pa bs
    match homeLoss s (bs.zipIdx.map (fun b => (pa + b.2, b.1))) with
    | some c => .next (hostFault t c)
    | none => .next t

/-! ### BAR 4 (R51, R80) -/

/-- A byte of the MSI-X table: 16 bytes a vector, of which the last word's bit 0 masks it.
PRESUMED, log 7, unsafe: the layout of PCI Express, and every vector masked after reset. -/
def vecByte (s : State) (o : Nat) : Byte := (SMap.find? s.hub.vecTab o).getD (if o % 16 = 12 then 1 else 0)

def vecNum (s : State) (o n : Nat) : Nat := natOfBytes ((List.range n).map (fun j => vecByte s (o + j)))
def vecMasked (s : State) (v : Nat) : Bool := (vecByte s (16 * v + 12)).getLsbD 0

/-- A vector that is raised is sent as its message, or is pending while it is masked. -/
def sendVec (s : State) (v : Nat) : State :=
  if vecMasked s v then
    { s with hub := { s.hub with pba := if s.hub.pba.contains v then s.hub.pba else s.hub.pba ++ [v] } }
  else { s with msgs := s.msgs ++ [(vecNum s (16 * v) 8, vecNum s (16 * v + 8) 4)] }

/-- The interrupts raised so far go out, in order. -/
def deliverMsix (s : State) : State := s.msix.foldl sendVec { s with msix := [] }

/-- A write of BAR 4: the table takes its bytes, and a pending vector that is no longer masked goes out. -/
def vecWrite (s : State) (o : Nat) (bs : List Byte) : State :=
  let keep (j : Nat) (b : Byte) : Byte := if j % 16 = 12 then b &&& 1 else if 12 < j % 16 then 0 else b
  let tab := bs.zipIdx.foldl (fun m b =>
    let j := o + b.2
    if j < 16 * 39 then SMap.insert j (keep j b.1) m else m) s.hub.vecTab
  let s := { s with hub := { s.hub with vecTab := tab } }
  let go := s.hub.pba.filter (fun v => !vecMasked s v)
  go.foldl sendVec { s with hub := { s.hub with pba := s.hub.pba.filter (fun v => vecMasked s v) } }

/-- A read of n bytes of BAR 4: the table, or from 0x8000 on the pending bits; the rest reads zero. -/
def vecRead (s : State) (o n : Nat) : State :=
  let pend := s.hub.pba.foldl (fun x v => x ||| 2 ^ v) 0
  let byte (j : Nat) : Byte :=
    if j < 16 * 39 then vecByte s j else if 0x8000 ≤ j ∧ j < 0x8008 then BitVec.ofNat 8 (pend / 2 ^ (8 * (j - 0x8000))) else 0
  { s with answers := s.answers ++ [BitVec.ofNat 64 (natOfBytes ((List.range n).map (fun j => byte (o + j))))] }

/-! ### Memory errors (R25, R26, R79) -/

/-- An error strikes the sector of an address: corrected and counted, or left for the next access to find. -/
def eccStrike (s : State) (pa : Nat) (fixed : Bool) : State :=
  if fixed then { s with hub := { s.hub with errCorr := min 0xFFFFFFFF (s.hub.errCorr + 1) } }.err 1
  else if regionOf pa = .reserved ∨ isSys pa ∨ s.poison.contains (pa / 32) then s
  else { s with poison := s.poison ++ [pa / 32] }

end Sys2Proof.Machine
end

