-- ==== Sys2Proof/Machine/Dies.lean ====
section
/-!
DEFINITION. Resets of the module and of its dies (R39-R47), links (R29, R30), the thermal trip (R50), and the firmware
(R81-R83). Die n of `dies` is Cn for n = 0, 1 and F(n − 2) for n = 2, 3.
-/

namespace Sys2Proof.Machine

/-! ### Module reset (R39, R40, R50) -/

/-- A module reset: nothing survives but the fuses and the flash, what the world holds (host memory, the messages and
answers it has), and the model's own schedule and counters. The boot counter rises (R83). -/
def moduleReset (s : State) : State :=
  { State.resetWith { s.fuses with boots := s.fuses.boots + 1 } with
    sched := s.sched, free := s.free, nextId := s.nextId, sys := s.sys, msix := s.msix, answers := s.answers }

def execPcieFundamentalReset (s : State) : Host.Outcome State Fault Refusal := .next (moduleReset s)
def execDieResetModule (s : State) : Host.Outcome State Fault Refusal := .next (moduleReset s)

/-- THERMAL_TRIP (R50): power goes, and the trip is recorded. -/
def execThermalTrip (d : Nat) (s : State) : Host.Outcome State Fault Refusal :=
  if !s.power ∨ 9 < d then .next s else .next { s with power := false, fuses := { s.fuses with trip := true } }

/-! ### The start of a die reset (R40-R42) -/

def enterDie (s : State) (d : Nat) (st : DieSt) : State := s.setDie d { s.die d with st := st, since := s.hclk }

/-- DIE_RESET_COMPUTE. -/
def execDieResetCompute (n : Nat) (s : State) : Host.Outcome State Fault Refusal :=
  if n < 2 ∧ (s.die n).st = .run then .next (enterDie s n .quiesce) else .next s

/-- DIE_RESET_FOUNDATION: Fn takes Cn with it, or a Cn already on its way follows it (R42). -/
def resetFoundation (s : State) (n : Nat) : State :=
  if (s.die (2 + n)).st ≠ .run then s
  else
    let s := if (s.die n).st = .run then enterDie s n .quiesce else s
    enterDie (s.setDie n { s.die n with follow := true }) (2 + n) .quiesce

def execDieResetFoundation (n : Nat) (s : State) : Host.Outcome State Fault Refusal :=
  if n < 2 then .next (resetFoundation s n) else .next s

/-! ### The end of QUIESCE (R41, R43) -/

/-- Contexts with a wave, team, sequencer program or engine operation on compute die n. -/
def onCompute (s : State) (n : Nat) : List Nat :=
  (s.teams.filter (fun t => t.2.st != .written && stackOfCore t.2.core == n)).map (fun t => t.2.cons.ctx) ++
    (s.seqs.filter (fun q => q.1 / 24 == n)).map (fun q => q.2.cons.ctx) ++
    ((s.engines.filter (fun e => e.1 / 24 == n)).flatMap (fun e =>
      e.2.parkT.map (fun p => p.2.1.ctxOf) ++ e.2.parkV.map (fun r => r.1.ctx) ++ e.2.ready.map (fun r => r.1.ctx))) ++
    ((s.vqs.filter (fun v => v.1 / 96 == n)).flatMap (fun v => (v.2.tex ++ v.2.ras ++ v.2.trv).map EItem.ctxOf))

/-- Contexts with a kernel, or a queue or record in the record store, on foundation die n. -/
def onFoundation (s : State) (n : Nat) : List Nat :=
  (s.kerns.filter (fun k => k.1 / 16 == n)).map (fun k => k.2.cons.ctx) ++
    (s.steals.filter (fun t => t.crossed && t.sk == n)).map (·.ctx) ++
    (s.queues.filter (fun q => (q.2.half n).st != .unmapped)).map (fun q => q.2.ctx) ++
    ((s.mdisp.filter (fun m => m.1 / 2 == n)).flatMap (fun m => m.2.map (fun t => t.ctx)))

/-- No wave, and for a foundation die no kernel, runs on the die. -/
def dieEmpty (s : State) (d : Nat) : Bool :=
  let n := d % 2
  s.waves.all (fun w => stackOfCore (coreOfWave w.1) != n) && (d < 2 || s.kerns.all (fun k => k.1 / 16 != n))

/-- A context is faulted by a die reset; its entry waits for the drain (R43). The mark 32 says that it was FAULTED.
DEDUCED, log 29: one that is ABORTING is reported, and its release goes on. -/
def faultByReset (s : State) (d c : Nat) : State :=
  let x := s.ctx c
  let die := s.die d
  let mark := if x.st = .faulted then c + 32 else c
  let s := s.setDie d { die with hit := die.hit ++ [mark] }
  if x.st = .faulted ∨ x.st = .aborting then s else s.setCtx c { x with st := .faulted, fatal := fDieReset }

/-- A die leaves QUIESCE. -/
def endQuiesce (s : State) (d : Nat) : State :=
  let cs := (onCompute s (d % 2) ++ (if d < 2 then [] else onFoundation s (d % 2))).eraseDups
  enterDie (cs.foldl (fun s c => faultByReset s d c) s) d .drain

def quiesceEnds (s : State) (p : Nat → Bool) : State :=
  (List.range 4).foldl (fun s d => if (s.die d).st = .quiesce ∧ p d then endQuiesce s d else s) s

/-- QUIESCE_COMPLETE. -/
def execQuiesceComplete (s : State) : Host.Outcome State Fault Refusal := .next (quiesceEnds s (dieEmpty s))

/-- QUIESCE_TIMEOUT: 65,536 HCLK. -/
def execQuiesceTimeout (s : State) : Host.Outcome State Fault Refusal :=
  .next (quiesceEnds s (fun d => decide ((s.die d).since + 65536 ≤ s.hclk)))

/-! ### The end of DRAIN, and HELD (R39, R41, R43-R47) -/

/-- The entries of the contexts that a die's reset faulted: UNIT names the die, DATA_LOSS is its DRAIN_FAIL bit. -/
def resetEntries (s : State) (d : Nat) : State :=
  let x := s.die d
  let s := s.setDie d { x with hit := [] }
  x.hit.foldl (fun s m =>
    s.send { reportOf (m % 32) ((1 + d) * 4096) 0xFFFF 0 (.of fDieReset 0 0) with flags := flag x.fail 1 + flag (decide (32 ≤ m)) 2 }) s

/-- Some of what a stack's L1s have to send cannot reach its home yet (R29, R30). -/
def drainWaits (s : State) (n : Nat) : Bool := s.links != [] && s.l1.any (fun e => l1Core e.1 / 96 == n && copyHeld s false e)

/-- Every dirty line of a stack's L1s goes home, or, where the drain failed, each or none of it: which is free, but that
nothing crosses a link that carries nothing (R29, R44). -/
def drainL1 (s : State) (n : Nat) (failed : Bool) : State :=
  let mine := s.l1.filter (fun e => l1Core e.1 / 96 == n)
  let s := mine.foldl (fun s e =>
    if failed ∧ (Config.freeBit s.free e.1 ∨ copyHeld s false e) then s else sendHome s (l1Line e.1) e.2) s
  { s with l1 := s.l1.filter (fun e => l1Core e.1 / 96 != n) }

/-- The bytes of a line. -/
def lineOld (x : BitVec 1024) : List Byte := (List.range 128).map (fun j => x.extractLsb' (8 * j) 8)

/-- Every dirty L2 line of a stack reaches DRAM, or, where the drain failed, each or none (R47). -/
def drainL2 (s : State) (n : Nat) (failed : Bool) : State :=
  let mine (ln : Nat) : Bool := match dramOf (ln * 128) with | some d => d / 2 == n | none => false
  let ls := s.l2old.filter (fun e => mine e.1)
  let s := { s with l2old := s.l2old.filter (fun e => !mine e.1), l2clean := s.l2clean.filter (fun n => !mine n) }
  if !failed then s
  else ls.foldl (fun s e =>
    if Config.freeBit s.free (2 ^ 50 + e.1) then
      { s with mem := (lineOld e.2).zipIdx.foldl (fun m b => SMap.set 0 (e.1 * 128 + b.2) b.1 m) s.mem }
    else s) s

/-- A page table of a level maps a near-tier page of stack n (R47); the root has 16 entries, VA[51:48] (R193). -/
def tableMaps (s : State) (n : Nat) : Nat → Nat → Bool
  | level, table =>
    (List.range (if level = 4 then 16 else 512)).any (fun i =>
      let e := readPte s (table + 8 * i)
      bit e 0 && (if bit e 1 then (match dramOf (pteAddr e) with | some d => d / 2 == n | none => false)
        else match level with
          | 0 => false
          | l + 1 => tableMaps s n l (pteAddr e)))

/-- The records of a consumer that a reset ends on a stack stay in their queue, unconsumed (R44). -/
def returnRecs (s : State) (st : Nat) (k : Cons) : State :=
  updQueue s (qidOf s k.ctx k.img k.node) (fun q => q.setHalf st { q.half st with recs := k.recs ++ (q.half st).recs })

/-- The records of a team that its reset leaves unconsumed: those of its waves that have not exited (R44). -/
def unexited (s : State) (t : Team) : Cons := { t.cons with recs := (computeWaves s t).flatMap (fun w => w.2.recs) }

/-- The consumers on compute die n: of its teams, of its sequencers, and of traversals in the engine blocks below it. -/
def consumersOn (s : State) (n : Nat) : List Cons :=
  (s.teams.filter (fun t => t.2.st != .written && stackOfCore t.2.core == n)).map (fun t => unexited s t.2) ++
    (s.seqs.filter (fun e => e.1 / 24 == n)).map (fun e => e.2.cons) ++
    (s.engines.filter (fun e => e.1 / 24 == n)).flatMap (fun e => (e.2.parkV ++ e.2.ready).map (fun r => r.1))

/-- What compute die n holds is lost as its reset is asserted (R39), but for records: those of its consumers go back to
their queues, and those of the vertical FIFOs stay in them (R44). -/
def clearCompute (s : State) (n : Nat) : State :=
  let here := s.teams.filter (fun t => t.2.st != .written && stackOfCore t.2.core == n)
  let s := (consumersOn s n).foldl (fun s k => returnRecs s n k) s
  let gone (t : Nat) : Bool := here.any (fun x => x.1 == t)
  recheckWaits { s with
    teams := s.teams.filter (fun t => !gone t.1)
    waves := s.waves.filter (fun w => stackOfCore (coreOfWave w.1) != n)
    longs := s.longs.filter (fun l => !gone l.team)
    mons := s.mons.filter (fun m => stackOfCore m.core != n)
    carve := s.carve.filter (fun e => stackOfCore e.1 != n)
    ratio := s.ratio.filter (fun e => stackOfCore e.1 != n)
    l1 := s.l1.filter (fun e => l1Core e.1 / 96 != n)
    tlb1 := s.tlb1.filter (fun e => stackOfCore e.1 != n)
    vqs := s.vqs.map (fun e => (e.1, if e.1 / 96 = n then { e.2 with tex := [], hold := [] } else e.2))
    engines := s.engines.filter (fun e => e.1 / 24 != n)
    seqs := s.seqs.filter (fun e => e.1 / 24 != n)
    rngs := s.rngs.filter (fun e => e.1 / 24 != n) }

/-- What foundation die n holds is lost (R39): the record store, the dispatchers and their steals, the L2 TLB, the
kernels. -/
def clearFoundation (s : State) (n : Nat) : State :=
  let ends (t : Steal) : Bool := t.sk == n || !t.crossed
  let s := (s.steals.filter ends).foldl (fun s t => setSteal (giveRoom s t.ctx t.img t.node t.recs) t none) s
  recheckWaits { s with
    queues := s.queues.map (fun q => (q.1, q.2.setHalf n Half.empty))
    mdisp := s.mdisp.filter (fun m => m.1 / 2 != n)
    kerns := s.kerns.filter (fun k => k.1 / 16 != n)
    tlb2 := SMap.erase n s.tlb2
    walks := s.walks.filter (fun w => w.stack != n)
    claims := s.claims.filter (fun e => e.1 % 2 != n) }

/-- The contexts whose tables map a near-tier page of stack n (R47). -/
def mappingCtxs (s : State) (n : Nat) : List Nat := (List.range 32).filter (fun c => tableMaps s n 4 (s.ctx c).ptRoot)

/-- A die leaves DRAIN for HELD: with DRAIN_FAIL, every context that maps pages of the stack is faulted (R47). -/
def endDrain (s : State) (d : Nat) (failed : Bool) : State :=
  let n := d % 2
  let s := if failed then s.setDie d { s.die d with fail := true } else s
  let s := drainL1 s n failed
  let s := if d < 2 then s else drainL2 s n failed
  let s := if d ≥ 2 ∧ (s.die d).fail then
      ((mappingCtxs s n).filter (fun c => !(s.die d).hit.contains c && !(s.die d).hit.contains (c + 32))).foldl
        (fun s c => faultByReset s d c) s
    else s
  let s := resetEntries s d
  let s := clearCompute s n
  enterDie (if d < 2 then s else clearFoundation s n) d .held

/-- The drain of a die has taken 262,144 HCLK (R41). -/
def drainLate (s : State) (d : Nat) : Bool := decide ((s.die d).since + 262144 ≤ s.hclk)

/-- DRAIN_COMPLETE (R41): not while something cannot reach its home; past its bound the drain has failed. -/
def execDrainComplete (d : Nat) (s : State) : Host.Outcome State Fault Refusal :=
  if d < 4 ∧ (s.die d).st = .drain ∧ (drainLate s d ∨ !drainWaits s (d % 2)) then .next (endDrain s d (drainLate s d)) else .next s

/-- DRAIN_TIMEOUT: 262,144 HCLK. -/
def execDrainTimeout (s : State) : Host.Outcome State Fault Refusal :=
  .next ((List.range 4).foldl (fun s d =>
    if (s.die d).st = .drain ∧ drainLate s d then endDrain s d true else s) s)

/-- The stack of a die is cut off from the hub (R30). -/
def cutOff (s : State) (d : Nat) : Bool := linkDown s (1 + d % 2)

/-- A die's time in HELD is over; a stack cut off from the hub stays (R30). -/
def heldOver (s : State) (d : Nat) : Bool :=
  (s.die d).st == .held && decide ((s.die d).since + 4096 ≤ s.hclk) && !cutOff s d

/-- HELD_EXPIRY (R41, R42): a compute die that follows its foundation die enters INIT with it, or again where it was there; each after its own time in HELD.
DEDUCED, log 29. -/
def execHeldExpiry (s : State) : Host.Outcome State Fault Refusal :=
  .next ((List.range 2).foldl (fun s n =>
    let s := if heldOver s n ∧ !(s.die n).follow then enterDie s n .init else s
    if heldOver s (2 + n) ∧ (heldOver s n ∨ (s.die n).st = .init) then enterDie (enterDie s n .init) (2 + n) .init else s) s)

/-- INIT_COMPLETE (R41, R42); a stack cut off from the hub stays out of service (R30). Entries held for a log in its DRAM
are then written. -/
def execInitComplete (d : Nat) (s : State) : Host.Outcome State Fault Refusal :=
  if d < 4 ∧ (s.die d).st = .init ∧ !(d < 2 && (s.die d).follow) ∧ !cutOff s d then
    let s := enterDie s d .run
    if 2 ≤ d ∧ (s.die (d - 2)).st = .init then
      let s := enterDie s (d - 2) .run
      .next (flushHeld (s.setDie (d - 2) { s.die (d - 2) with follow := false }))
    else .next (flushHeld s)
  else .next s

/-! ### Links (R29, R30, R79): 0 F0-F1, 1 F0-H, 2 F1-H -/

/-- LINK_FLIT_RETRY. -/
def execLinkFlitRetry (l : Nat) (exhausted : Bool) (s : State) : Host.Outcome State Fault Refusal :=
  if 2 < l ∨ !linkUp s l then .next s
  else
    let s := { s with hub := { s.hub with retry := SMap.set 0 l (min 0xFFFF (SMap.get 0 s.hub.retry l + 1)) s.hub.retry } }
    .next (if exhausted then { s with links := SMap.set .up l (.training s.hclk) s.links } else s)

/-- What waited for a link goes on (R29): log entries, and the releases of barriers. -/
def linkFree (s : State) : State := s.teams.foldl (fun s t => barChecks s t.1) (flushHeld s)

/-- LINK_RETRAIN_DONE: within 1,048,576 HCLK (R30). -/
def execLinkRetrainDone (l : Nat) (s : State) : Host.Outcome State Fault Refusal :=
  match SMap.get .up s.links l with
  | .training t =>
    .next (if s.hclk < t + 1048576 then linkFree ({ s with links := SMap.set .up l .up s.links }.err 3) else s)
  | _ => .next s

/-- LINK_RETRAIN_TIMEOUT: 1,048,576 HCLK. Traffic of F0-F1 goes through the hub; a stack without its hub link goes through
a reset that does not complete. -/
def execLinkRetrainTimeout (s : State) : Host.Outcome State Fault Refusal :=
  .next ((List.range 3).foldl (fun s l =>
    match SMap.get .up s.links l with
    | .training t =>
      if t + 1048576 ≤ s.hclk then
        let s := { s with links := SMap.set .up l .down s.links }.err 4
        if l = 0 then linkFree s else resetFoundation (linkFree s) (l - 1)
      else s
    | _ => s) s)

/-! ### Firmware (R81, R82) -/

/-- A firmware image as its checks see it. -/
structure FwImage where
  svn     : Nat
  version : DWord
  digest  : List Byte
  deriving DecidableEq, Repr

/-- Check an image: what it is, or the FAIL code of the first check that fails.
DEDUCED, log 33: the checks in the order of R82's list, and both signatures over the digest D itself. -/
def checkFw (f : Fuses) (m : SMap Byte) : Sum Nat FwImage :=
  let get (o n : Nat) : List Byte := (List.range n).map (fun j => SMap.get 0 m (o + j))
  let num (o n : Nat) : Nat := natOfBytes (get o n)
  let len := num 0x14 4
  let zero (o n : Nat) : Bool := (get o n).all (· == 0)
  if num 0 4 ≠ 0x4E4C4657 ∨ num 4 4 ≠ 1 ∨ len % 4096 ≠ 0 ∨ 0x4000000 < len ∨ !zero 0x18 0x68 ∨ !zero 0x8EC 0x714 then .inl 1
  else
    let d := sha384 (get 0 0x80 ++ get 0x1000 len)
    let ke := get 0x80 97
    let kl := get 0x100 56
    if sha384 ke ≠ f.keyE ∨ sha384 kl ≠ f.keyL then .inl 2
    else if num 0x10 4 < f.minSvn then .inl 3
    else if !ecdsaVerifies ke d (get 0x140 96) then .inl 4
    else if !lmsVerifies 20 kl d (get 0x200 1772) then .inl 5
    else .inr { svn := num 0x10 4, version := BitVec.ofNat 64 (num 8 8), digest := d }

/-- A secret of n bytes: of the fused secret (index even) or of a boot (odd), by its use.
DESIGN CHOICE, log 33, safe: how keys are derived and drawn is free. -/
def secretBytes (n from_ use : Nat) : List Byte := bytesBE n (Config.keyNat from_ use)
def secretScalar (from_ use : Nat) : Nat := 1 + Config.keyNat from_ use % (p384N - 1)

/-- The identity keys (R83): ECDSA P-384, and LMS of height 20. -/
def identityEcdsa (f : Fuses) : Nat := secretScalar (2 * f.secret) 0
def identitySeed (f : Fuses) : List Byte := secretBytes 32 (2 * f.secret) 1
def identityId (f : Fuses) : List Byte := secretBytes 16 (2 * f.secret) 2

/-- The keys of a boot and their certificates (R83): none once the leaves of the identity key are used up. The leaf that
certifies is the boot counter's. -/
def bootKeys (f : Fuses) : Option BootKeys :=
  if 2 ^ 20 ≤ f.boots then none
  else
    let b := 2 * f.boots + 1
    let e := secretScalar b 0
    let seed := secretBytes 32 b 1
    let id := secretBytes 16 b 2
    some { ecdsa := e, seed := seed, lmsId := id
           certE := ecdsaSign (identityEcdsa f) (secretScalar b 3) (sha384 (ecdsaPublic e))
           certL := lmsSign 20 (identitySeed f) (identityId f) f.boots (secretBytes 32 b 4) (lmsPublic 15 seed id) }

/-- Run an accepted image, which makes the keys of this boot, or stay in recovery with the FAIL code. -/
def startFw (s : State) (r : Sum Nat FwImage) : State :=
  match r with
  | .inl n => { s with hub := { s.hub with fwState := 2, fwFail := n } }
  | .inr i =>
    { s with hub := { s.hub with fwState := 1, fwFail := 0, svn := i.svn, version := i.version, digest := i.digest,
                                 keys := bootKeys s.fuses } }

/-- FIRMWARE_BOOT (R81): the image in the flash; a flash that cannot be read at all fails as such, which is free. -/
def execFirmwareBoot (s : State) : Host.Outcome State Fault Refusal :=
  if s.hub.fwState ≠ 0 then .next s
  else if s.fuses.flash ≠ [] ∧ Config.freeBit s.free 0x91000 then .next (startFw s (.inl 6))
  else .next (startFw s (checkFw s.fuses s.fuses.flash))

/-- FW_LOAD (R82): in recovery, the staged image; accepted, it also goes to the flash where FLASH_WRITE is set. -/
def execFwLoad (s : State) : Host.Outcome State Fault Refusal :=
  if s.hub.fwState ≠ 2 then .next s
  else
    let r := checkFw s.fuses s.hub.staging
    let keep : Bool := match r with | .inr _ => s.hub.flashWrite | .inl _ => false
    .next (startFw (if keep then { s with fuses := { s.fuses with flash := s.hub.staging } } else s) r)

/-- RAISE_SVN (R82): the fused minimum rises to the running image's, and never falls. -/
def execRaiseSvn (s : State) : Host.Outcome State Fault Refusal :=
  if s.hub.fwState = 1 then .next { s with fuses := { s.fuses with minSvn := max s.fuses.minSvn s.hub.svn } } else .next s

/-- The fuse configuration as a measurement: cores fused off on each stack, the key hashes, the minimum SVN (R37, R82). -/
def fuseBytes (s : State) : List Byte :=
  bytesOf 12 (fusedBits s 0) ++ bytesOf 12 (fusedBits s 1) ++ s.fuses.keyE ++ s.fuses.keyL ++ bytesOf 4 s.fuses.minSvn

/-- The harvest map of both stacks (R37). -/
def harvestMap (s : State) : List Nat := [harvestVal s 0, harvestVal s 1]

/-- The hash that both signatures of a report cover: of the requester's transcript and the measurements.
PRESUMED, log 33: their order and form in the transcript. -/
def transcriptHash (s : State) (t : List Byte) : List Byte :=
  sha384 (t ++ s.hub.digest ++ bytesOf 4 s.hub.svn ++ fuseBytes s ++ (harvestMap s).flatMap (bytesOf 4))

/-- The report over a transcript (R83): signed with the boot's ECDSA key, and with the next leaf of its LMS key. -/
def attReport (s : State) (k : BootKeys) (t : List Byte) : AttReport :=
  let h := transcriptHash s t
  { digest := s.hub.digest, svn := s.hub.svn, fuses := fuseBytes s, harvest := harvestMap s
    ecdsa := ecdsaSign k.ecdsa (1 + Config.freeNat s.free 0x92000 % (p384N - 1)) h
    block0xF0 := lmsSign 15 k.seed k.lmsId s.hub.reportsDone (bytesBE 32 (Config.freeNat s.free 0x92001)) h }

/-- ATTESTATION_REQUEST (R83): a signed report over a transcript, or an error once the reports of this boot or the leaves
of the boot counter are used up. -/
def execAttestationRequest (t : List Byte) (s : State) : Host.Outcome State Fault Refusal :=
  match s.hub.keys with
  | some k =>
    if s.hub.fwState = 1 ∧ s.hub.reportsDone < 32768 then
      .next { s with hub := { s.hub with doe := s.hub.doe ++ [some (attReport s k t)], reportsDone := s.hub.reportsDone + 1 } }
    else .next { s with hub := { s.hub with doe := s.hub.doe ++ [none] } }
  | none => .next { s with hub := { s.hub with doe := s.hub.doe ++ [none] } }

end Sys2Proof.Machine
end

