-- ==== Sys2Proof/Machine/Lanes.lean ====
section
/-!
DEFINITION. Cross-lane words (R155, R358-R362) and indexed register words (R363-R366).
-/

namespace Sys2Proof.Machine

/-- Subgroup size G: 2^MOD[2:0] (R358). -/
def VWord.group (w : VWord) : Nat := 2 ^ (w.mod.toNat % 8)

/-- A lane is a valid source for lane l (R359): in its subgroup, in E and below W. -/
def validSrc (x : WCtx) (g l k : Nat) : Bool := k / g == l / g && x.e.getLsbD k && decide (k < x.wv.width)

/-- The source lane of a shuffle (R360). -/
def shufLane (kind g l q : Nat) : Option Nat :=
  let s0 := l / g * g
  let j := l - s0
  match kind with
  | 0 => if q < g then some (s0 + q) else none
  | 1 => if q ≤ j then some (l - q) else none
  | 2 => if j + q < g then some (l + q) else none
  | _ => if q < g then some (l ^^^ q) else none

/-- SHFL words (R360): a from the source lane when it is valid, else the fill. -/
def shufWord (kind : Nat) (w : VWord) (s : State) : Host.Outcome State Fault Refusal :=
  valueWord s w [(.dst, w.d), (.src, w.a), (.src, w.b), (.src, w.c)] 6 fun x l =>
    match shufLane kind (VWord.group w) l (src s x w.b l).toNat with
    | some k => if validSrc x (VWord.group w) l k then src s x w.a k else src s x w.c l
    | none => src s x w.c l

def execShflIdx (w : VWord) (s : State) : Host.Outcome State Fault Refusal := shufWord 0 w s
def execShflUp (w : VWord) (s : State) : Host.Outcome State Fault Refusal := shufWord 1 w s
def execShflDown (w : VWord) (s : State) : Host.Outcome State Fault Refusal := shufWord 2 w s
def execShflXor (w : VWord) (s : State) : Host.Outcome State Fault Refusal := shufWord 3 w s

/-- The lanes of E in the subgroup of lane l, ascending. -/
def peers (x : WCtx) (g l : Nat) : List Nat := (lanesOf x.e).filter (fun k => k / g == l / g)

/-- BCAST (R360). -/
def execBcast (w : VWord) (s : State) : Host.Outcome State Fault Refusal :=
  valueWord s w [(.dst, w.d), (.src, w.a)] 6 fun x l => src s x w.a ((peers x (VWord.group w) l).headD l)

/-- Combine two counted values (R361). -/
def combine (op : XOp) (u : Bool) (a b : Word) : Word :=
  match op with
  | .add => a + b
  | .min => imin u a b
  | .max => imax u a b
  | .and => a &&& b
  | .or => a ||| b
  | .xor => a ^^^ b
  | .fadd => BitVec.ofNat 32 (fAdd fp32 (n4 fp32) .ne a.toNat b.toNat)
  | .fmin => BitVec.ofNat 32 (fMinMax fp32 (n4 fp32) false a.toNat b.toNat)
  | .fmax => BitVec.ofNat 32 (fMinMax fp32 (n4 fp32) true a.toNat b.toNat)

def combineOpt (op : XOp) (u : Bool) (a b : Option Word) : Option Word :=
  match a, b with
  | none, b => b
  | a, none => a
  | some a, some b => some (combine op u a b)

/-- One level of the tree (R361). -/
def treeLevel (op : XOp) (u : Bool) : List (Option Word) → List (Option Word)
  | a :: b :: r => combineOpt op u a b :: treeLevel op u r
  | r => r

/-- The tree of R361 over 2^n positions. -/
def tree (op : XOp) (u : Bool) : Nat → List (Option Word) → Option Word
  | 0, l => l.headD none
  | n + 1, l => tree op u n (treeLevel op u l)

/-- The reduction in a subgroup over the counted lanes (R361). A single counted lane of a floating-point operator that holds a NaN
gives the canonical NaN. -/
def reduceLanes (op : XOp) (u : Bool) (n s0 : Nat) (counted : Nat → Bool) (a : Nat → Word) : Word :=
  let r := (tree op u n ((List.range (2 ^ n)).map (fun j =>
    if counted (s0 + j) then some (a (s0 + j)) else none))).getD 0
  match op with
  | .fmin => if fDecode fp32 r.toNat = .nan then BitVec.ofNat 32 fp32.nan else r
  | .fmax => if fDecode fp32 r.toNat = .nan then BitVec.ofNat 32 fp32.nan else r
  | .fadd => if fDecode fp32 r.toNat = .nan then BitVec.ofNat 32 fp32.nan else r
  | _ => r

def reduceWord (scan : Bool) (op : XOp) (w : VWord) (s : State) : Host.Outcome State Fault Refusal :=
  valueWord s w [(.dst, w.d), (.src, w.a)] 6 fun x l =>
    let g := VWord.group w
    let s0 := l / g * g
    reduceLanes op (w.mod.getLsbD 3) (w.mod.toNat % 8) s0
      (fun k => x.e.getLsbD k && (!scan || decide (k ≤ l))) (fun k => src s x w.a k)

def execRedx (op : XOp) (w : VWord) (s : State) : Host.Outcome State Fault Refusal := reduceWord false op w s
def execScanx (op : XOp) (w : VWord) (s : State) : Host.Outcome State Fault Refusal := reduceWord true op w s

/-! ### Indexed registers (R363-R366) -/

/-- The registers lanes reach through an x register, with the faults of R365. -/
def indexFault (x : WCtx) (xr : Nat) (at_ : Nat → Nat × Nat) (idx : Nat → Nat) : Option FaultInfo :=
  let ls := lanesOf x.e
  let past := ls.filter (fun l => decide ((at_ l).2 ≤ (at_ l).1 + idx l))
  let out := ls.filter (fun l => !vInRange x.nd x.wv.access ((at_ l).1 + idx l))
  match past with
  | l :: _ => some { cause := fIndexRange, sub := xr, va := 0, lanes := maskOf past,
                     detail := idx l + (at_ l).1 * 2 ^ 32 + (at_ l).2 * 2 ^ 48 }
  | [] => if out ≠ [] then some (.of fRegRange 0 (maskOf out)) else none

/-- The checking scoreboard on the registers that lanes reach (R292, R366). -/
def indexScb (s : State) (x : WCtx) (write : Bool) (lat : Nat) (reg : Nat → Nat) : Option FaultInfo :=
  if !(s.ctx x.wv.ctx).dbgScb then none
  else
    let keys := ((lanesOf x.e).filter (fun l => decide (reg l < 256))).map (fun l => vKey (reg l) l)
    match pendingReason x (if write then [] else keys) (if write then keys else []) lat with
    | some r => some (.of fScoreboard (slotSub r x.cl.i) x.e)
    | none => none

def firstFault (a b : Option FaultInfo) : Option FaultInfo := match a with | some f => some f | none => b

def execVldx (w : VWord) (s : State) : Host.Outcome State Fault Refusal :=
  onWave s w.msel fun x =>
    let xr := w.a.toNat - 0x150
    let reg (l : Nat) : Nat := (readX s x.wv xr l).1 + (src s x w.b l).toNat
    let own := firstFault (indexScb s x false 4 reg) (indexFault x xr (readX s x.wv xr) (fun l => (src s x w.b l).toNat))
    checked s x [(.vDst 1 1, w.d), (.idxSrc, w.a), (.src, w.b)] 4 own
      (s.setWave x.v (x.wv.put s.free 4 w.d x.e (fun l => readV s x.wv (reg l) l)))

/-- VSTX's writes are read by every later word without a stall (R365): latency 0. -/
def execVstx (w : VWord) (s : State) : Host.Outcome State Fault Refusal :=
  onWave s w.msel fun x =>
    let xr := w.a.toNat - 0x150
    let reg (l : Nat) : Nat := (readX s x.wv xr l).1 + (src s x w.b l).toNat
    let own := firstFault (indexScb s x true 0 reg) (indexFault x xr (readX s x.wv xr) (fun l => (src s x w.b l).toNat))
    checked s x [(.idxSrc, w.a), (.src, w.b), (.src, w.c)] 0 own
      (s.setWave x.v ((lanesOf x.e).foldl (fun u l => u.writeV s.free x.wv.cyc (reg l) l (src s x w.c l)) x.wv))

def execXset (w : VWord) (s : State) : Host.Outcome State Fault Refusal :=
  onWave s w.msel fun x =>
    let base := (readUni s x.v x.wv w.a).toNat
    let limit := (readUni s x.v x.wv w.b).toNat
    let own : Option FaultInfo :=
      if x.e ≠ 0 ∧ (base > 255 ∨ limit > 256) then
        some { cause := fIndexRange, sub := 0x100 + (w.d.toNat - 0x150), va := 0, lanes := x.e, detail := base + limit * 2 ^ 32 }
      else none
    checked s x [(.idxDst, w.d), (.uni, w.a), (.uni, w.b)] 2 own
      (if x.e = 0 then s else s.setWave x.v (x.wv.putX s.free 2 (w.d.toNat - 0x150) x.e (base, limit)))

end Sys2Proof.Machine
end

