-- ==== Sys2Proof/Machine/Moraine.lean ====
section
/-!
DEFINITION. The words of a moraine core (R442, R443, R447-R456): memory, arithmetic, scalar and control words. A span's
writes are held by physical address until it commits (R439).
-/

namespace Sys2Proof.Machine

/-- The kernel whose word runs. -/
structure KCtx where
  m  : Nat
  kn : Kern
  deriving DecidableEq, Repr

def onMor (s : State) (f : KCtx → State) : Host.Outcome State Fault Refusal :=
  match s.cur with
  | some (.mor m) =>
    match SMap.find? s.kerns m with
    | some kn => .next (f { m := m, kn := kn })
    | none => .fault .noIssuer
  | _ => .fault .noIssuer

def MRegs.zr (r : MRegs) (n l : Nat) : Word := SMap.get 0 r.z (n * 64 + l)
def MRegs.kr (r : MRegs) (n : Nat) : DWord := SMap.get 0 r.k n
def MRegs.pr (r : MRegs) (n : Nat) : Mask := SMap.get 0 r.p n
def MRegs.setZ (r : MRegs) (n l : Nat) (x : Word) : MRegs := { r with z := SMap.set 0 (n * 64 + l) x r.z }
def MRegs.setK (r : MRegs) (n : Nat) (x : DWord) : MRegs := { r with k := SMap.set 0 n x r.k }
def MRegs.setP (r : MRegs) (n : Nat) (x : Mask) : MRegs := { r with p := SMap.set 0 n x r.p }
/-- The word after (R455). -/
def MRegs.step (r : MRegs) : MRegs := { r with pc := r.pc + 1 }

/-- A word that changes registers only, and goes on to the next word. -/
def regWord (s : State) (f : KCtx → MRegs) : Host.Outcome State Fault Refusal :=
  onMor s fun x => s.setKern x.m { x.kn with regs := (f x).step }

def actives (r : MRegs) (p : BitVec 3) : List Nat := lanesOf (r.pr p.toNat)

/-- A vector word: each active lane of z[D] takes a value (R451). -/
def vecWord (s : State) (w : MR) (f : MRegs → Nat → Word) : Host.Outcome State Fault Refusal :=
  regWord s fun x => (actives x.kn.regs w.pred).foldl (fun r l => r.setZ w.d.toNat l (f x.kn.regs l)) x.kn.regs

/-! ### Memory (R442, R443, R450) -/

/-- The bytes of one access of a word. -/
structure MAcc where
  lane : Nat
  addr : Nat
  deriving DecidableEq, Repr

/-- The first failing check among 1 and 2 of R442. -/
def morAddrFault (as : List MAcc) (n : Nat) : Option (Nat × Nat × Nat × Mask) :=
  let hi := as.filter (fun a => decide (2 ^ 52 ≤ a.addr))
  let mis := as.filter (fun a => a.addr % n != 0)
  match hi with
  | a :: _ => some (fVaRange, 0, a.addr, maskOf (hi.map (·.lane)))
  | [] => match mis with
    | a :: _ => some (fMisaligned, 0, a.addr, maskOf (mis.map (·.lane)))
    | [] => none

/-- The stack number F_MORAINE_ADDR reports. -/
def stackCode (pa : Nat) : Nat := match dramOf pa with | some d => d | none => 0xFF

/-- The kernel parks on translation faults: its span is discarded (R444). -/
def parkMor (s : State) (x : KCtx) (pages : List (Nat × Nat × Nat × Mask)) : State :=
  (s.setKern x.m { x.kn.discard with park := .xlat }).logPages x.kn.cons.ctx (unitOfMoraine x.m) 0xFFFF (4 * x.kn.regs.pc) pages

/-- Go on with the physical addresses, or wait, park or fault as a gate says. -/
def Gate.runMor (g : Gate) (s : State) (x : KCtx) (k : List Nat → State) : State :=
  match g with
  | .go pas => k pas
  | .wait ws => ws.foldl askWalk s
  | .park ps => parkMor s x ps
  | .fatal f => faultMoraine s x.m x.kn f.cause f.sub f.va f.lanes f.detail

/-- The translations that a span uses (R197). -/
def KCtx.uses (x : KCtx) (as : List MAcc) : KCtx :=
  { x with kn := { x.kn with pages := (x.kn.pages ++ as.map (fun (a : MAcc) => a.addr / 4096)).eraseDups } }

/-- The bytes of an access that the span has not written itself (R443). -/
def Kern.unwritten (kn : Kern) (pa n : Nat) : List Nat :=
  ((List.range n).map (pa + ·)).filter (fun a => (SMap.find? kn.writes a).isNone)

/-- Translation of a kernel's access (R442), with what its home answers: the home matters only for the bytes that a read
takes from it (R443). -/
def morXl (s : State) (x : KCtx) (r : Req) : Xl :=
  match translate s none (x.m / 16) x.kn.cons.ctx r.va r.acc with
  | .hit pa =>
    if r.acc == .read && offline s pa && x.kn.unwritten pa r.size != [] then .fault fMemoryOffline
    else if r.acc == .read && (x.kn.unwritten pa r.size).any (fun a => poisoned s a 1) then .fault fEcc
    else .hit pa
  | y => y

/-- Check and translate every access of n bytes (R442), then, as its home answers, go on with the physical addresses. -/
def morAccess (s : State) (x : KCtx) (as : List MAcc) (n : Nat) (acc : Acc) (k : KCtx → List (MAcc × Nat) → State) : State :=
  match morAddrFault as n with
  | some f => faultMoraine s x.m x.kn f.1 f.2.1 f.2.2.1 f.2.2.2 0
  | none =>
    let c := x.kn.cons.ctx
    let rs : List Req := as.map (fun a => { lane := a.lane, va := a.addr, size := n, acc := acc })
    (gateBy none (x.m / 16) c (askerOf s) (fun r => translate s none (x.m / 16) c r.va r.acc) rs).runMor s x fun pas =>
      let out := (as.zip pas).filter (fun a => dramOf a.2 != some (x.m / 8))
      match out with
      | a :: _ => faultMoraine s x.m x.kn fMoraineAddr (stackCode a.2) a.1.addr (maskOf (out.map (·.1.lane))) 0
      | [] => (gateBy none (x.m / 16) c (askerOf s) (morXl s x) rs).runMor s x fun pas => k (x.uses as) (as.zip pas)

/-- What a kernel reads (R443): its span's own writes; any other byte at its home, which it probes. -/
def morRead (s : State) (kn : Kern) (pa n : Nat) : State × List Byte :=
  (if kn.unwritten pa n = [] then s else cleanLine s (pa / 128),
   (List.range n).map (fun j => match SMap.find? kn.writes (pa + j) with | some b => b | none => homeByte s (pa + j)))

def morLoads (s : State) (kn : Kern) (l : List (MAcc × Nat)) (n : Nat) : State × List (Nat × Nat) :=
  l.foldl (fun a p =>
    let (s', bs) := morRead a.1 kn p.2 n
    (s', a.2 ++ [(p.1.lane, natOfBytes bs)])) (s, [])

/-- The distinct sectors a span's writes touch (R441). -/
def spanSectors (w : SMap Byte) : Nat := ((w.map (fun e => e.1 / 32)).eraseDups).length

/-- Hold stores in the span, lanes in ascending order; past 2,048 sectors reason 4 (R441). -/
def morStore (s : State) (x : KCtx) (l : List (MAcc × Nat)) (n : Nat) (v : Nat → Nat) : State :=
  let ws := l.foldl (fun m p => (bytesOf n (v p.1.lane)).zipIdx.foldl (fun m b => SMap.insert (p.2 + b.2) b.1 m) m) x.kn.writes
  if spanSectors ws > 2048 then faultMoraine s x.m x.kn fMoraineIllegal 4 0 0 0
  else s.setKern x.m { x.kn with writes := ws, regs := x.kn.regs.step }

/-- Bytes of a size code: .W, .H, .B. -/
def morSize (t : BitVec 3) : Nat := match t.toNat with | 0 => 4 | 1 => 2 | _ => 1

/-- a(i) of the strided words. -/
def strided (r : MRegs) (w : MR) (i : Nat) : Nat :=
  wrapN 64 (((r.kr w.a.toNat).toNat : Int) + i * (r.kr w.b.toNat).toInt)

/-- a(i) of the indexed words. -/
def indexed (r : MRegs) (w : MR) (i : Nat) : Nat :=
  let z := r.zr w.b.toNat i
  let x : Int := if w.f.getLsbD 2 then z.toInt else z.toNat
  wrapN 64 (((r.kr w.a.toNat).toNat : Int) + x * 2 ^ (w.f.toNat % 4))

def vecLoad (s : State) (w : MR) (addr : MRegs → MR → Nat → Nat) : Host.Outcome State Fault Refusal :=
  onMor s fun x =>
    let n := morSize w.t
    let as := (actives x.kn.regs w.pred).map (fun l => { lane := l, addr := addr x.kn.regs w l : MAcc })
    morAccess s x as n .read fun x l =>
      let (s, vs) := morLoads s x.kn l n
      let r := vs.foldl (fun (r : MRegs) v => r.setZ w.d.toNat v.1 (BitVec.ofNat 32 v.2)) x.kn.regs
      s.setKern x.m { x.kn with regs := r.step }

def vecStore (s : State) (w : MR) (addr : MRegs → MR → Nat → Nat) : Host.Outcome State Fault Refusal :=
  onMor s fun x =>
    let n := morSize w.t
    let as := (actives x.kn.regs w.pred).map (fun l => { lane := l, addr := addr x.kn.regs w l : MAcc })
    morAccess s x as n .write fun x l => morStore s x l n (fun i => (x.kn.regs.zr w.d.toNat i).toNat)

def execVldS (w : MR) (s : State) : Host.Outcome State Fault Refusal := vecLoad s w strided
def execVldG (w : MR) (s : State) : Host.Outcome State Fault Refusal := vecLoad s w indexed
def execVstS (w : MR) (s : State) : Host.Outcome State Fault Refusal := vecStore s w strided
def execVstG (w : MR) (s : State) : Host.Outcome State Fault Refusal := vecStore s w indexed

/-- The address of KLD and KST. -/
def scalarAddr (r : MRegs) (w : MI) : Nat := wrapN 64 (((r.kr w.a.toNat).toNat : Int) + 8 * w.imm.toInt)

def execKld (w : MI) (s : State) : Host.Outcome State Fault Refusal :=
  onMor s fun x =>
    morAccess s x [{ lane := 0, addr := scalarAddr x.kn.regs w }] 8 .read fun x l =>
      let (s, vs) := morLoads s x.kn l 8
      let v := match vs with | (_, v) :: _ => v | [] => 0
      s.setKern x.m { x.kn with regs := (x.kn.regs.setK w.d.toNat (BitVec.ofNat 64 v)).step }

def execKst (w : MI) (s : State) : Host.Outcome State Fault Refusal :=
  onMor s fun x =>
    morAccess s x [{ lane := 0, addr := scalarAddr x.kn.regs w }] 8 .write fun x l =>
      morStore s x l 8 (fun _ => (x.kn.regs.kr w.d.toNat).toNat)

/-! ### Vector arithmetic (R451-R453) -/

def vec2 (s : State) (w : MR) (f : Word → Word → Word) : Host.Outcome State Fault Refusal :=
  vecWord s w fun r l => f (r.zr w.a.toNat l) (r.zr w.b.toNat l)

def execViadd (w : MR) (s : State) : Host.Outcome State Fault Refusal := vec2 s w (· + ·)
def execVisub (w : MR) (s : State) : Host.Outcome State Fault Refusal := vec2 s w (· - ·)
def execVimul (w : MR) (s : State) : Host.Outcome State Fault Refusal := vec2 s w (· * ·)
/-- a + b, a × b and a × b + c of the moraine words, rounded once (R231, R451). -/
def vfAdd (t : Fmt) (a b : Nat) : Nat := encVal t (n4 t) .ne (plusZero (sumExact .ne (fDecode t a) (fDecode t b)))
def vfMul (t : Fmt) (a b : Nat) : Nat := encVal t (n4 t) .ne (plusZero (mulExact (fDecode t a) (fDecode t b)))
def vfFma (t : Fmt) (a b c : Nat) : Nat :=
  encVal t (n4 t) .ne (plusZero (sumExact .ne (mulExact (fDecode t a) (fDecode t b)) (fDecode t c)))

def execVfadd (w : MR) (s : State) : Host.Outcome State Fault Refusal :=
  vec2 s w (fun a b => perElem w.t.toNat (fun t a b _ => vfAdd t a b) a b 0)
def execVfmul (w : MR) (s : State) : Host.Outcome State Fault Refusal :=
  vec2 s w (fun a b => perElem w.t.toNat (fun t a b _ => vfMul t a b) a b 0)
def execVfma (w : MR) (s : State) : Host.Outcome State Fault Refusal :=
  vecWord s w fun r l =>
    perElem w.t.toNat vfFma (r.zr w.a.toNat l) (r.zr w.b.toNat l) (r.zr w.d.toNat l)

/-- A compare of VCMP: type 0 signed, 1 unsigned, 2 FP32. -/
def vcmpHolds (ty cc : Nat) (a b : Word) : Bool :=
  if ty = 2 then fCmp fp32 (n4 fp32) cc a.toNat b.toNat
  else Cmp.holds (match cc with | 0 => .eq | 1 => .ne | 2 => .lt | 3 => .le | 4 => .gt | _ => .ge) (ty == 1) a b

def execVcmp (w : MR) (s : State) : Host.Outcome State Fault Refusal :=
  regWord s fun x =>
    let r := x.kn.regs
    r.setP (w.d.toNat % 8) ((actives r w.pred).foldl (fun m l =>
      setBit m l (vcmpHolds w.t.toNat w.f.toNat (r.zr w.a.toNat l) (r.zr w.b.toNat l))) (r.pr (w.d.toNat % 8)))

/-- The operator of VRED and whether it is unsigned. -/
def vredOp (f : Nat) : XOp × Bool :=
  match f with
  | 0 => (.add, false) | 1 => (.min, false) | 2 => (.max, false) | 3 => (.min, true) | 4 => (.max, true)
  | 5 => (.and, false) | 6 => (.or, false) | 7 => (.xor, false) | 8 => (.fadd, false) | 9 => (.fmin, false)
  | _ => (.fmax, false)

def execVred (w : MR) (s : State) : Host.Outcome State Fault Refusal :=
  regWord s fun x =>
    let r := x.kn.regs
    let e := r.pr w.pred.toNat
    let (op, u) := vredOp w.f.toNat
    r.setK w.d.toNat ((if e = 0 then 0 else reduceLanes op u 6 0 e.getLsbD (r.zr w.a.toNat)).setWidth 64)

/-- One conversion of VCVT: code and NSTAT bits (R453). -/
def vcvt (mode x : Nat) : Nat × Nat :=
  let lin (a b : Elem) : Nat × Nat := cvtLin a b .ne false 0 0 (x % 2 ^ a.width)
  match mode with
  | 0 => cvtLg (.flt fp32) lg8 .ne 0 0 x
  | 1 => cvtLg (.flt fp32) lg16 .ne 0 0 x
  | 2 => cvtLn lg8 (.flt fp32) .ne false 0 0 (x % 256)
  | 3 => cvtLn lg16 (.flt fp32) .ne false 0 0 (x % 65536)
  | 4 => lin (.flt fp32) (.flt bf16)
  | 5 => lin (.flt bf16) (.flt fp32)
  | 6 => lin (.flt fp32) (.flt fp16)
  | 7 => lin (.flt fp16) (.flt fp32)
  | 8 => lin (.int 32) (.flt fp32)
  | _ => lin (.flt fp32) (.int 32)

def execVcvt (w : MR) (s : State) : Host.Outcome State Fault Refusal :=
  regWord s fun x =>
    let r := x.kn.regs
    (actives r w.pred).foldl (fun (a : MRegs) l =>
      let c := vcvt w.f.toNat (r.zr w.a.toNat l).toNat
      (a.setZ w.d.toNat l (BitVec.ofNat 32 c.1)).flag c.2) r

def execVmov (w : MR) (s : State) : Host.Outcome State Fault Refusal := vecWord s w fun r l => r.zr w.a.toNat l
def execVsplat (w : MR) (s : State) : Host.Outcome State Fault Refusal :=
  vecWord s w fun r _ => (r.kr w.a.toNat).setWidth 32
def execViota (w : MR) (s : State) : Host.Outcome State Fault Refusal :=
  vecWord s w fun r l => (r.kr w.a.toNat + BitVec.ofNat 64 l * r.kr w.b.toNat).setWidth 32

/-- VSEL writes every lane (R451). -/
def execVsel (w : MR) (s : State) : Host.Outcome State Fault Refusal :=
  regWord s fun x =>
    let r := x.kn.regs
    (List.range 64).foldl (fun (a : MRegs) l =>
      a.setZ w.d.toNat l (if (r.pr w.pred.toNat).getLsbD l then r.zr w.a.toNat l else r.zr w.b.toNat l)) r

def vlogic (f : Nat) (a b : Word) : Word :=
  match f with
  | 0 => a &&& b | 1 => a ||| b | 2 => a ^^^ b | 3 => shl a b | 4 => shr a b | _ => sar a b

def execVlogic (w : MR) (s : State) : Host.Outcome State Fault Refusal := vec2 s w (vlogic w.f.toNat)

/-! ### Predicates and scalars (R454) -/

def execPlogic (w : MR) (s : State) : Host.Outcome State Fault Refusal :=
  regWord s fun x =>
    let r := x.kn.regs
    let a := r.pr (w.a.toNat % 8)
    let b := r.pr (w.b.toNat % 8)
    match w.f.toNat with
    | 0 => r.setP (w.d.toNat % 8) (a &&& b)
    | 1 => r.setP (w.d.toNat % 8) (a ||| b)
    | 2 => r.setP (w.d.toNat % 8) (a ^^^ b)
    | 3 => r.setP (w.d.toNat % 8) (a &&& ~~~ b)
    | 4 => r.setP (w.d.toNat % 8) (r.kr w.a.toNat)
    | 5 => r.setK w.d.toNat a
    | _ => r.setK w.d.toNat (BitVec.ofNat 64 (lanesOf a).length)

def b64 (b : Bool) : DWord := if b then 1 else 0

def kalu (f : Nat) (a b : DWord) : DWord :=
  let n := b.toNat
  match f with
  | 0 => a + b | 1 => a - b | 2 => a * b | 3 => a &&& b | 4 => a ||| b | 5 => a ^^^ b
  | 6 => if n < 64 then a <<< n else 0
  | 7 => if n < 64 then a >>> n else 0
  | 8 => a.sshiftRight (min n 63)
  | 9 => if b.slt a then b else a
  | 10 => if a.slt b then b else a
  | 11 => if b.ult a then b else a
  | 12 => if a.ult b then b else a
  | 13 => b64 (a == b) | 14 => b64 (a != b) | 15 => b64 (a.slt b) | _ => b64 (a.ult b)

def execKalu (w : MR) (s : State) : Host.Outcome State Fault Refusal :=
  regWord s fun x => x.kn.regs.setK w.d.toNat (kalu w.f.toNat (x.kn.regs.kr w.a.toNat) (x.kn.regs.kr w.b.toNat))

def execKaddi (w : MI) (s : State) : Host.Outcome State Fault Refusal :=
  regWord s fun x => x.kn.regs.setK w.d.toNat (x.kn.regs.kr w.a.toNat + w.imm.signExtend 64)

/-- KMOVI: IMM16 into its place; .Z clears the rest. -/
def kmovi (sh : Nat) (z : Bool) (imm : BitVec 16) (old : DWord) : DWord :=
  let v := (imm.setWidth 64 : DWord) <<< (16 * sh)
  if z then v else (old &&& ~~~ ((0xFFFF : DWord) <<< (16 * sh))) ||| v

def execKmovi (w : MH) (s : State) : Host.Outcome State Fault Refusal :=
  regWord s fun x => x.kn.regs.setK w.d.toNat (kmovi w.sh.toNat w.z w.imm (x.kn.regs.kr w.d.toNat))

/-- The special numbers of KGET (R448). -/
def kget (s : State) (x : KCtx) (n : Nat) : DWord :=
  let c := x.kn.cons
  match n with
  | 0 => BitVec.ofNat 64 (x.m % 8)
  | 1 => BitVec.ofNat 64 (x.m / 8)
  | 2 => BitVec.ofNat 64 c.ctx
  | 3 => BitVec.ofNat 64 c.tag
  | 4 => BitVec.ofNat 64 c.node
  | 5 => BitVec.ofNat 64 (s.mclkOf (x.m / 8))
  | 6 => argOf s c.ctx c.tag
  | 7 => x.kn.recaddr
  | 8 => x.kn.regs.nstat.setWidth 64
  | _ => BitVec.ofNat 64 x.kn.commits

def execKget (w : MR) (s : State) : Host.Outcome State Fault Refusal :=
  regWord s fun x => x.kn.regs.setK w.d.toNat (kget s x w.a.toNat)

/-! ### Control (R455) -/

/-- The words of a kernel's section. -/
def sectionSize (s : State) (x : KCtx) : Nat :=
  match imageOf s x.kn.cons.ctx x.kn.cons.img with | some im => im.mcode.length | none => 0

/-- Branch by OFF21 words; a target outside the section is reason 3 (R449). -/
def morBranch (s : State) (x : KCtx) (off : BitVec 21) : State :=
  let t := (x.kn.regs.pc : Int) + off.toInt
  if t < 0 ∨ (sectionSize s x : Int) ≤ t then faultMoraine s x.m x.kn fMoraineIllegal 3 0 0 0
  else s.setKern x.m { x.kn with regs := { x.kn.regs with pc := t.toNat } }

def branchIf (s : State) (w : MJ) (c : MRegs → Bool) : Host.Outcome State Fault Refusal :=
  onMor s fun x => if c x.kn.regs then morBranch s x w.off else s.setKern x.m { x.kn with regs := x.kn.regs.step }

def execBr (w : MJ) (s : State) : Host.Outcome State Fault Refusal := branchIf s w (fun _ => true)
def execBz (w : MJ) (s : State) : Host.Outcome State Fault Refusal := branchIf s w (fun r => r.kr w.test.toNat == 0)
def execBnz (w : MJ) (s : State) : Host.Outcome State Fault Refusal := branchIf s w (fun r => r.kr w.test.toNat != 0)

/-- BP: TEST holds the condition above the p register. -/
def execBp (w : MJ) (s : State) : Host.Outcome State Fault Refusal :=
  branchIf s w fun r =>
    let p := r.pr (w.test.toNat % 8)
    match w.test.toNat / 8 with | 0 => p != 0 | 1 => p == 0 | _ => p == BitVec.allOnes 64

/-- YIELD and EXIT end the span; the next word, or the end of the kernel, follows its commit (R439, R455). -/
def execMoraineYield (s : State) : Host.Outcome State Fault Refusal :=
  onMor s fun x => s.setKern x.m { x.kn with regs := x.kn.regs.step, ending := 1 }
def execMoraineExit (s : State) : Host.Outcome State Fault Refusal :=
  onMor s fun x => s.setKern x.m { x.kn with regs := x.kn.regs.step, ending := 2 }

/-- MQAPP (R456): the record waits for the span's commit. -/
def execMqapp (w : MR) (s : State) : Host.Outcome State Fault Refusal :=
  onMor s fun x =>
    let k := x.kn.cons
    let port := w.f.toNat % 16
    let bad (cause sub : Nat) : State := faultMoraine s x.m x.kn cause sub 0 0 0
    match portEdge s k.ctx k.img k.node port with
    | none => bad fContPort port
    | some e =>
      if e.cont then bad fContPort port
      else if SMap.get 0 k.resv port ≤ (x.kn.recs.filter (fun r => r.1 == port)).length then bad fEmitOverrun port
      else if x.kn.recs.length ≥ 16 then bad fMoraineIllegal 5
      else
        let n := recSize s k.ctx k.img e.dst / 4
        let words := (List.range n).map (fun l => x.kn.regs.zr w.a.toNat l)
        s.setKern x.m { x.kn with recs := x.kn.recs ++ [(port, words)], regs := x.kn.regs.step }

end Sys2Proof.Machine
end

