-- ==== Sys2Proof/Machine/Kernels.lean ====
section
/-!
DEFINITION. Moraine kernels as consumers (R435, R436, R439-R441, R444-R446): start, the commit of a span, stop, save slots
and resumption.
-/

namespace Sys2Proof.Machine

/-! ### Start and resumption -/

/-- The registers a kernel starts with (R436). -/
def startRegs (words : List Word) (arg : DWord) (pc : Nat) : MRegs :=
  { z := words.zipIdx.foldl (fun (m : SMap Word) w => SMap.set 0 w.2 w.1 m) []
    k := SMap.set 0 1 arg (SMap.set 0 0 (BitVec.ofNat 64 ((words.getD 0 0).toNat + (words.getD 1 0).toNat * 2 ^ 32)) [])
    p := SMap.set 0 0 (BitVec.allOnes 64) [], pc := pc, nstat := 0 }

/-- What a moraine dispatcher could start now. -/
inductive KMove
  | start (i : Nat)
  | back (i : Nat)
  deriving DecidableEq, Repr

/-- The lowest free moraine core of a DRAM stack, while its foundation die is in RUN. -/
def freeMor (s : State) (d : Nat) : Option Nat :=
  if (s.die (2 + d / 2)).st = .run then
    ((List.range 8).map (· + d * 8)).find? (fun m => (SMap.find? s.kerns m).isNone)
  else none

/-- The moves of the moraine dispatcher of a DRAM stack, a core apart, in the order of R131. -/
def kernMoves (s : State) (d : Nat) : List (List Nat × KMove) :=
  let backs : List (List Nat × Nat × KMove) := s.savedKerns.zipIdx.filterMap (fun e =>
    let k := e.1.2.2.cons
    if e.1.1 = d ∧ runnable s k.ctx then some (orderKey s k.ctx k.node k.recs, qidOf s k.ctx k.img k.node, .back e.2) else none)
  let starts : List (List Nat × KMove) := (SMap.get [] s.mdisp d).zipIdx.filterMap (fun e =>
    let t := e.1
    if runnable s t.ctx && roomFor s t.ctx t.img t.node [t.rcd] && !backs.any (fun b => b.2.1 == qidOf s t.ctx t.img t.node) then
      some (orderKey s t.ctx t.node [t.rcd], .start e.2)
    else none)
  backs.map (fun b => (b.1, b.2.2)) ++ starts

def bestKern (ms : List (List Nat × KMove)) : Option KMove :=
  match ms.foldl (fun (a : Option (List Nat × KMove)) m => match a with
      | none => some m
      | some b => if lexLt m.1 b.1 then some m else some b) none with
  | some m => some m.2
  | none => none

/-- MORAINE_KERNEL_START (R142, R436): the first record of the dispatcher starts on the lowest free core. -/
def execMoraineKernelStart (d : Nat) (s : State) : Host.Outcome State Fault Refusal :=
  match freeMor s d, bestKern (kernMoves s d) with
  | some m, some (.start i) =>
    match (SMap.get [] s.mdisp d)[i]? with
    | none => .next s
    | some t =>
      match nodeOf s t.ctx t.img t.node with
      | none => .next s
      | some nd =>
        let s := { s with mdisp := SMap.set [] d ((SMap.get [] s.mdisp d).eraseIdx i) s.mdisp }
        let (s, k) := takeCons s t.ctx t.img t.node t.rcd.tag [t.rcd]
        let r := startRegs t.rcd.words (argOf s t.ctx t.rcd.tag) nd.entry
        .next ((s.setKern m
          { cons := k, regs := r, ckpt := r, writes := [], recs := [], commits := 0, ending := 0, park := .no, stop := false,
            immune := none, pages := [], recaddr := BitVec.ofNat 64 (recAddr t.rcd) }).count ((5 + d) * 4096 + 0x10))
  | _, _ => .next s

/-- MORAINE_KERNEL_RESUME (R444, R445): a kernel in a save slot resumes on a free core of the same DRAM stack, and its
slot is free. -/
def execMoraineKernelResume (d : Nat) (s : State) : Host.Outcome State Fault Refusal :=
  match freeMor s d, bestKern (kernMoves s d) with
  | some m, some (.back i) =>
    match s.savedKerns[i]? with
    | none => .next s
    | some e =>
      let kn := { e.2.2 with stop := false, immune := some (e.2.2.commits, s.mclkOf d) }
      .next (({ s with savedKerns := s.savedKerns.eraseIdx i }.setKern m kn).count ((5 + d) * 4096 + 0x10))
  | _, _ => .next s

/-! ### Commit -/

/-- The writes of a span are performed in DRAM, and the L2 copies of their lines go (R219, R439); an error ends where the
whole of its sector is written (log 39). -/
def commitWrites (s : State) (w : SMap Byte) : State :=
  let lines := (w.map (fun e => e.1 / 128)).eraseDups
  let s := if s.poison = [] then s else { s with poison := s.poison.filter (fun x => !wholeSector w x) }
  lines.foldl (fun s ln => wakeLine (dropLine s ln) ln) { s with mem := w.foldl (fun m e => SMap.set 0 e.1 e.2 m) s.mem }

/-- The records of a span are appended in issue order, at depth 0 (R130, R439). -/
def commitRecs (s : State) (m : Nat) (k : Cons) (rs : List (Nat × List Word)) : State × Cons :=
  rs.foldl (fun (a : State × Cons) r => appendOn a.1 (unitOfMoraine m) (m / 16) a.2 r.1 r.2 0 none) (s, k)

/-- MORAINE_SPAN_COMMIT (R439): the span that YIELD or EXIT ended commits in one step; after EXIT the kernel is over.
DEDUCED, log 35: a span that meets an uncorrectable error at its commit leaves no effect, and its fault is fatal (R25). -/
def execMoraineSpanCommit (m : Nat) (s : State) : Host.Outcome State Fault Refusal :=
  match SMap.find? s.kerns m with
  | none => .next s
  | some kn =>
    if kn.ending = 0 ∨ !ctxRuns s kn.cons.ctx ∨ !s.power ∨ !dieRuns s (2 + m / 16) then .next s
    else match homeLoss s kn.writes with
    | some c => .next { faultMoraine s m { kn with regs := { kn.regs with pc := kn.regs.pc - 1 } } c 0 0 0 0 with issue := s.issue }
    | none =>
      let (s, k) := commitRecs (commitWrites s kn.writes) m kn.cons kn.recs
      if kn.ending = 2 then
        .next ((consumerDone { s with kerns := SMap.erase m s.kerns } k).count (unitOfMoraine m))
      else
        .next (s.setKern m { kn with cons := k, ckpt := kn.regs, writes := [], recs := [], pages := [], commits := kn.commits + 1, ending := 0 })

/-! ### Stop -/

/-- The 8,576 bytes that a save moves to its slot (R446). The hidden header is device-private, and no unit reads it from
here: `hdr` gives its bytes (log 35). -/
def slotBytes (hdr : Nat → Nat) (kn : Kern) : List Byte :=
  let r := kn.ckpt
  let zs := (List.range 32).flatMap (fun n => (List.range 64).flatMap (fun l => bytesOf 4 (r.zr n l).toNat))
  let ks := (List.range 32).flatMap (fun n => bytesOf 8 (r.kr n).toNat)
  let ps := (List.range 8).flatMap (fun n => bytesOf 8 (r.pr n).toNat)
  zs ++ ks ++ ps ++ bytesOf 4 r.pc ++ bytesOf 4 r.nstat.toNat ++ bytesOf 4 kn.commits ++ bytesOf 4 0 ++
    (List.range 48).map (fun j => BitVec.ofNat 8 (hdr j))

/-- The address of a save slot (R438). -/
def slotAddr (d slot : Nat) : Nat := moraineBase d + 0x100000 + slot * 16384

/-- The lowest free save slot of a DRAM stack (R438). -/
def freeSlot (s : State) (d : Nat) : Option Nat :=
  let used := (s.savedKerns.filter (fun e => e.1 == d)).map (·.2.1)
  (List.range 4032).find? (fun i => !used.contains i)

/-- A resumed kernel that has neither committed a span nor run 65,536 MCLK is no victim (R445). -/
def Kern.isImmune (kn : Kern) (now : Nat) : Bool :=
  match kn.immune with | some (c, t) => kn.commits == c && decide (now < t + 65536) | none => false

/-- MORAINE_KERNEL_STOP (R444): a kernel that is pre-empted goes to a save slot; one whose context has faulted keeps
its checkpoint on the core. Its span leaves no effect. -/
def execMoraineKernelStop (m : Nat) (s : State) : Host.Outcome State Fault Refusal :=
  match SMap.find? s.kerns m with
  | none => .next s
  | some kn =>
    if (s.ctx kn.cons.ctx).st = .faulted then .next (s.setKern m kn.discard)
    else if kn.stop ∧ kn.ending = 0 ∧ kn.park = .no then
      match freeSlot s (m / 8) with
      | some slot =>
        let kn := kn.discard
        .next { s with kerns := SMap.erase m s.kerns, savedKerns := s.savedKerns ++ [(m / 8, slot, kn)],
                       mem := putBlock s.mem (slotAddr (m / 8) slot) (slotBytes (fun j => Config.freeNat s.free (0x46000 + j)) kn) }
      | none => .next s
    else .next s

end Sys2Proof.Machine
end

