-- ==== Sys2Proof/Machine/Container.lean ====
section
/-!
DEFINITION. What a load checks of a container (R90-R101, R104-R108, R113, R115), up to the translation. A failure is a
status code with its DETAIL; within a step entries are checked in ascending index, and the first failure stands.
-/

namespace Sys2Proof.Machine

/-- A status code of R115 and its DETAIL. -/
abbrev LoadErr := Nat × Nat

def noEntry : Nat := 0xFFFFFFFF

def firstErr (l : List (Option LoadErr)) : Option LoadErr := l.findSome? id

def failIf (b : Bool) (code detail : Nat) : Option LoadErr := if b then some (code, detail) else none

/-- Cut a section into its entries (R91). -/
def entriesOf (size : Nat) : Nat → List Byte → List (List Byte)
  | 0, _ => []
  | n + 1, bs => bs.take size :: entriesOf size n (bs.drop size)

/-- LOAD_RESERVED at the first byte that is not zero among the reserved bytes [off, off + n) of an entry at `at_`. -/
def reservedBytes (bs : List Byte) (at_ off n : Nat) : Option LoadErr :=
  match (List.range n).find? (fun j => bs.getD (off + j) 0 != 0) with
  | some j => some (3, at_ + off + j)
  | none => none

/-- One step of CRC-32 (R90).
PRESUMED, log 34, unsafe: the polynomial is the standard's. -/
def crcBit (c : BitVec 32) : BitVec 32 := if c.getLsbD 0 then (c >>> 1) ^^^ 0xEDB88320 else c >>> 1
def crcByte (c : BitVec 32) (b : Byte) : BitVec 32 := (List.range 8).foldl (fun c _ => crcBit c) (c ^^^ b.setWidth 32)

/-- The CRC-32 of IEEE 802.3 (R90). -/
def crc32 (bs : List Byte) : Nat := (~~~ (bs.foldl crcByte 0xFFFFFFFF)).toNat

/-! ### The header (R90, R108, R113 step 2) -/

structure CHead where
  origin : Nat
  mmrev  : Nat
  length : Nat
  crc    : Nat
  isize  : Nat
  nsec   : Nat
  nnodes : Nat
  deriving DecidableEq, Repr

def cheadOf (h : List Byte) : CHead :=
  { origin := leAt h 6 1, mmrev := leAt h 7 1, length := leAt h 8 4, crc := leAt h 12 4, isize := leAt h 16 8,
    nsec := leAt h 24 2, nnodes := leAt h 26 2 }

/-- Steps 2.1 to 2.3, on the 64 bytes of the header. -/
def headErr (h : List Byte) : Option LoadErr :=
  let x := cheadOf h
  firstErr [
    failIf (leAt h 0 4 != 0x4E4C4743 || leAt h 4 2 != 1 || decide (x.length < 128 ∨ 2 ^ 31 < x.length)) 1 0,
    reservedBytes h 0 0x1C 36,
    failIf (decide (x.origin = 0 ∨ 4 < x.origin)) 3 6,
    failIf (decide (x.mmrev = 0 ∨ 3 < x.mmrev)) 3 7,
    failIf (decide (x.isize % 4096 ≠ 0 ∨ x.isize < 8192 ∨ x.nsec = 0 ∨ 16 < x.nsec ∨ x.nnodes = 0 ∨ 4096 < x.nnodes)) 1 0,
    failIf ((x.origin == 1 && x.mmrev != 1) || ((x.origin == 2 || x.origin == 3) && x.mmrev != 2)) 5 0 ]

/-- Images a context holds, loaded or being unloaded (R113 step 2). -/
def heldImages (s : State) (c : Nat) : List Image := ((s.ctx c).images.map (·.2)).filter (fun i => i.st != .loading)

/-- Steps 2.4 to 2.6, on the whole container. -/
def crcErr (s : State) (c addr : Nat) (bs : List Byte) : Option LoadErr :=
  let x := cheadOf bs
  let held := heldImages s c
  firstErr [
    failIf (crc32 (bs.drop 0x40) != x.crc) 2 0,
    failIf (decide (64 ≤ held.length)) 17 1,
    match held.find? (fun i => decide (i.addr < addr + x.isize ∧ addr < i.addr + i.size)) with
    | some i => some (18, i.seq)
    | none => none ]

/-! ### The section table (R91) -/

structure CSec where
  typ   : Nat
  off   : Nat
  size  : Nat
  count : Nat
  deriving DecidableEq, Repr

def entrySize (t : Nat) : Nat :=
  match t with
  | 1 => 64 | 2 => 16 | 3 => 16 | 4 => 16 | 5 => 64 | 6 => 8 | 7 => 48 | 8 => 16 | 9 => 32 | 10 => 16 | 11 => 1 | 12 => 1
  | _ => 4

def secTable (bs : List Byte) : List CSec :=
  (entriesOf 16 (cheadOf bs).nsec (bs.drop 0x40)).map (fun e =>
    { typ := leAt e 0 2, off := leAt e 4 4, size := leAt e 8 4, count := leAt e 12 4 })

/-- What is wrong with entry i of the section table.
DESIGN CHOICE, log 26, unsafe: a section of no entries whose OFFSET lies strictly inside another overlaps it. -/
def secErr (bs : List Byte) (x : CHead) (t : List CSec) (i : Nat) : Option LoadErr :=
  let at_ := 0x40 + 16 * i
  match t[i]? with
  | none => none
  | some e =>
    let before := t.take i
    firstErr [
      reservedBytes (bs.drop at_) at_ 2 2,
      failIf (decide (e.typ = 0 ∨ 13 < e.typ)) 3 at_,
      failIf (before.any (fun f => f.typ == e.typ || decide (f.off < e.off + e.size ∧ e.off < f.off + f.size)) ||
        decide (e.off % 8 ≠ 0 ∨ e.off < 0x40 + 16 * x.nsec ∨ e.size ≠ e.count * entrySize e.typ ∨ x.length < e.off + e.size)) 4 i,
      failIf ((e.typ == 1 && e.count != x.nnodes) ||
        (x.origin != 4 && (e.typ == 6 || e.typ == 7 || e.typ == 8 || e.typ == 10)) || (x.origin == 4 && e.typ == 12)) 4 i ]

def hasSec (t : List CSec) (k : Nat) : Bool := t.any (fun e => e.typ == k)

/-- The bytes of a section, and its place. -/
def secOf (bs : List Byte) (t : List CSec) (k : Nat) : Nat × List (List Byte) :=
  match t.find? (fun e => e.typ == k) with
  | some e => (e.off, entriesOf (entrySize k) e.count (bs.drop e.off))
  | none => (0, [])

/-- Step 3. A section table that runs past the container breaks R91 at entry 0, whose section cannot lie behind it. -/
def tableErr (bs : List Byte) : Option LoadErr :=
  let x := cheadOf bs
  let t := secTable bs
  let kinds := ((secOf bs t 1).2).map (fun e => leAt e 0 1)
  let missing : Bool := !hasSec t 1 || !hasSec t 4 ||
    (x.origin == 4 && (kinds.contains 0 || kinds.contains 3) && (!hasSec t 6 || !hasSec t 7)) ||
    (kinds.contains 4 && !hasSec t 13) || (x.origin != 4 && !hasSec t 12)
  if x.length < 0x40 + 16 * x.nsec then
    (match (if x.length < 0x50 then none else secErr bs x t 0) with | some e => some e | none => some (4, 0))
  else match firstErr ((List.range x.nsec).map (secErr bs x t)) with
    | some e => some e
    | none => failIf missing 4 noEntry

/-! ### RECFMT, SLOTS, NODES, EDGES, CEDGES, MEMPLAN (R92-R95, R104) -/

/-- A NODES entry (R92). -/
structure CNode where
  kind   : Nat
  width  : Nat
  fmt    : Nat
  code   : Nat
  access : Nat
  linger : Nat
  slots  : Nat
  flags  : Nat
  vregs  : Nat
  wregs  : Nat
  loc    : Nat
  team   : Nat
  qbase  : Nat
  qlen   : Nat
  edge0  : Nat
  edges  : Nat
  cedge0 : Nat
  cedges : Nat
  qcap   : Nat
  spill  : Nat
  deriving DecidableEq, Repr

def cnodeOf (e : List Byte) : CNode :=
  { kind := leAt e 0 1, width := leAt e 1 1, fmt := leAt e 2 2, code := leAt e 4 4, access := leAt e 8 4,
    linger := leAt e 12 2, slots := leAt e 14 1, flags := leAt e 15 1, vregs := leAt e 16 2, wregs := leAt e 18 1,
    loc := leAt e 19 1, team := leAt e 20 1, qbase := leAt e 21 1, qlen := leAt e 22 1, edge0 := leAt e 24 2,
    edges := leAt e 26 2, cedge0 := leAt e 28 2, cedges := leAt e 30 2, qcap := leAt e 32 4, spill := leAt e 36 4 }

def CNode.hasAccess (n : CNode) : Bool := n.access != noEntry

/-- A MEMPLAN entry (R104). -/
structure CPlan where
  kind : Nat
  tier : Nat
  doff : Nat
  va   : Nat
  size : Nat
  dlen : Nat
  deriving DecidableEq, Repr

def cplanOf (e : List Byte) : CPlan :=
  { kind := leAt e 0 1, tier := leAt e 1 1, doff := leAt e 4 4, va := leAt e 8 8, size := leAt e 16 8, dlen := leAt e 24 4 }

/-- A container's tables as its sections give them. -/
structure CTabs where
  head   : CHead
  fmts   : List (Nat × Bool)
  slots  : List (List DWord)
  nodes  : List CNode
  edges  : List Edge
  cedges : List CEdge
  plan   : List CPlan
  words  : List DWord
  safes  : List (Nat × Nat × BitVec 256 × DWord)
  mcode  : List Word
  legacy : List Byte
  dataOff : Nat
  dataLen : Nat
  deriving DecidableEq, Repr

def ctabsOf (bs : List Byte) : CTabs :=
  let t := secTable bs
  let sec (k : Nat) : List (List Byte) := (secOf bs t k).2
  { head := cheadOf bs
    fmts := (sec 4).map (fun e => (leAt e 0 2, bit (leAt e 2 2) 0))
    slots := (sec 5).map (fun e => (entriesOf 8 8 e).map (fun w => BitVec.ofNat 64 (natOfBytes w)))
    nodes := (sec 1).map cnodeOf
    edges := (sec 2).map (fun e =>
      { src := leAt e 0 2, dst := leAt e 2 2, max := leAt e 4 2, port := leAt e 6 1, cont := bit (leAt e 7 1) 0 })
    cedges := (sec 3).map (fun e =>
      { src := leAt e 0 2, dst := leAt e 2 2, mask := BitVec.ofNat 32 (leAt e 4 4), value := BitVec.ofNat 32 (leAt e 8 4) })
    plan := (sec 9).map cplanOf
    words := (sec 6).map (fun e => BitVec.ofNat 64 (natOfBytes e))
    safes := (sec 7).map (fun e =>
      (leAt e 0 4, leAt e 4 2, BitVec.ofNat 256 (leAt e 8 32), BitVec.ofNat 64 (leAt e 40 8)))
    mcode := (sec 13).map (fun e => BitVec.ofNat 32 (natOfBytes e))
    legacy := ((sec 12).map (fun e => e.headD 0))
    dataOff := (secOf bs t 11).1
    dataLen := (sec 11).length }

/-- Check every entry of a section in turn: index, place and bytes. -/
def checkSec (bs : List Byte) (k : Nat) (f : Nat → Nat → List Byte → Option LoadErr) : Option LoadErr :=
  let sec := secOf bs (secTable bs) k
  firstErr (sec.2.zipIdx.map (fun e => f e.2 (sec.1 + entrySize k * e.2) e.1))

/-- Record sizes of the nodes other than shaders, sequencers and kernels (R94; R87, R259, R269). -/
def engineSize (k : Nat) : Option Nat := match k with | 1 => some 64 | 2 => some 256 | 5 => some 32 | _ => none

/-- A format agrees with a node that uses it (R94): its size, and whether it has ADDR0. -/
def formatFits (f : Nat × Bool) (n : CNode) : Bool :=
  (n.kind != 4 || f.2) && (match engineSize n.kind with | some k => f.1 == k | none => true)

/-- Entry i of RECFMT (R94, R115).
DEDUCED, log 26, unsafe: a format's agreement with its nodes is checked with the format, before the NODES entries. -/
def fmtErr (t : CTabs) (i at_ : Nat) (e : List Byte) : Option LoadErr :=
  let size := leAt e 0 2
  firstErr [reservedBytes e at_ 4 12, failIf (leAt e 2 2 / 2 != 0) 3 (at_ + 2),
            failIf (decide (size < 4 ∨ 256 < size ∨ size % 4 ≠ 0) ||
              !(t.nodes.all (fun n => n.fmt != i || formatFits (t.fmts.getD i (0, false)) n))) 8 i]

/-- The reserved parts, and the rules, of a slot word (R95). -/
def slotReserved (w : Nat) : Bool :=
  bits w 32 32 != 0 || bits w 0 19 != 0 || decide (11 < bits w 28 4 ∨ 1 < bits w 24 4 ∨ bits w 22 2 = 3 ∨ bits w 20 2 = 3)
def slotBad (w : Nat) : Bool :=
  if bits w 24 4 = 0 then bits w 22 2 != 0 else bits w 22 2 == 0 || decide (bits w 28 4 < 3 ∨ 10 < bits w 28 4)

/-- DEDUCED, log 26. -/
def slotErr (i at_ : Nat) (e : List Byte) : Option LoadErr :=
  firstErr ((List.range 8).map (fun j =>
    firstErr [failIf (slotReserved (leAt e (8 * j) 8)) 3 (at_ + 8 * j),
              failIf (slotBad (leAt e (8 * j) 8)) 8 (0x80000000 + i)]))

/-- A range of edges lies in its section and has the node as its source (R92). -/
def rangeOk (srcs : List Nat) (first n i : Nat) : Bool :=
  n == 0 || (decide (first + n ≤ srcs.length) && ((srcs.drop first).take n).all (· == i))

/-- A SEGEND (R98). -/
def isSegEnd (w : DWord) : Bool := w.extractLsb' 58 6 == 0x3B && w.extractLsb' 51 7 == 0x7E

/-- An offset in CODE that names a segment (R92, R97), or in a LEGACY object a byte of it. -/
def entryOk (t : CTabs) (o : Nat) : Bool :=
  if t.head.origin = 4 then o < t.words.length && (o == 0 || (match t.words[o - 1]? with | some w => isSegEnd w | none => false))
  else o < t.legacy.length

/-- The constraints of R92 that depend on KIND. -/
def nodeKindOk (t : CTabs) (n : CNode) : Bool :=
  let native := t.head.origin == 4
  if n.kind = 0 then
    (n.width == 8 || n.width == 16 || n.width == 32 || n.width == 64) &&
      (native || n.width == (if t.head.origin = 1 then 16 else 32)) &&
      decide (1 ≤ n.vregs ∧ n.vregs ≤ 256 ∧ n.wregs ≤ 64 ∧ 1 ≤ n.team ∧ n.team ≤ 16) && entryOk t n.code &&
      (if n.hasAccess then native && entryOk t n.access && decide (1 ≤ n.qlen ∧ n.qlen ≤ 64) else n.qlen == 0) &&
      decide (n.qbase + n.qlen ≤ n.vregs)
  else
    n.width == 0 && n.vregs == 0 && n.wregs == 0 && n.team == 0 && !n.hasAccess && n.loc == 0 && n.qbase == 0 && n.qlen == 0 &&
      (if n.kind = 3 then entryOk t n.code
       else if n.kind = 4 then decide (n.code < t.mcode.length) else n.code == noEntry)

def nodeOk (t : CTabs) (i : Nat) (n : CNode) : Bool :=
  decide (n.fmt < t.fmts.length) && (n.slots == 0xFF || decide (n.slots < t.slots.length)) &&
    decide (64 ≤ n.qcap ∧ n.qcap ≤ 1048576 ∧ n.spill ≤ 2 ^ 28 ∧ n.edges ≤ 16 ∧ n.cedges ≤ 16) &&
    (n.cedges == 0 || bit n.flags 0) && rangeOk (t.edges.map (·.src)) n.edge0 n.edges i &&
    rangeOk (t.cedges.map (·.src)) n.cedge0 n.cedges i && nodeKindOk t n

def nodeErr (t : CTabs) (i at_ : Nat) (e : List Byte) : Option LoadErr :=
  let n := cnodeOf e
  firstErr [reservedBytes e at_ 0x28 24, failIf (decide (5 < n.kind)) 3 at_, failIf (n.flags / 2 != 0) 3 (at_ + 15),
            failIf (decide (4 < n.loc)) 3 (at_ + 19), reservedBytes e at_ 23 1, failIf (!nodeOk t i n) 6 i]

/-- Bmax (R93). -/
def bmax (n : CNode) : Nat := if n.kind = 0 then n.width * n.team else 1

/-- The edges of a source fit their destination (R93), checked at the first edge of each pair. -/
def fitErr (t : CTabs) (i : Nat) (x : Edge) : Option LoadErr :=
  let same (y : Edge) : Bool := y.src == x.src && y.dst == x.dst
  match t.nodes[x.src]?, t.nodes[x.dst]? with
  | some a, some b =>
    if (t.edges.take i).any same then none
    else failIf (decide (b.qcap + b.spill < (t.edges.filter same).foldl (fun n y => n + y.max * bmax a) 0)) 7 i
  | _, _ => none

/-- Entry i of EDGES (R93): its own fields, and then the fit that it is the first edge of. -/
def edgeErr (t : CTabs) (i at_ : Nat) (e : List Byte) : Option LoadErr :=
  let x := t.edges.getD i { src := 0, dst := 0, max := 0, port := 0, cont := false }
  let kind (n : Nat) : Nat := match t.nodes[n]? with | some d => d.kind | none => 0
  firstErr [reservedBytes e at_ 8 8, failIf (leAt e 7 1 / 2 != 0) 3 (at_ + 7),
            failIf (decide (t.nodes.length ≤ x.src ∨ t.nodes.length ≤ x.dst ∨ 1024 < x.max ∨ 15 < x.port) ||
              (t.edges.take i).any (fun y => y.src == x.src && y.port == x.port) || (kind x.dst == 5 && kind x.src != 0)) 7 i,
            fitErr t i x]

def cedgeErr (t : CTabs) (i at_ : Nat) (e : List Byte) : Option LoadErr :=
  let x := t.cedges.getD i { src := 0, dst := 0, mask := 0, value := 0 }
  let result : Bool := match t.nodes[x.src]? with | some n => bit n.flags 0 | none => false
  firstErr [reservedBytes e at_ 12 4,
            failIf (!result || decide (t.nodes.length ≤ x.dst) || x.value &&& ~~~ x.mask != 0) 7 (0x80000000 + i)]

def overlap (a n b m : Nat) : Bool := decide (a < b + m ∧ b < a + n)

def planErr (t : CTabs) (addr i at_ : Nat) (e : List Byte) : Option LoadErr :=
  let p := cplanOf e
  firstErr [reservedBytes e at_ 2 2, reservedBytes e at_ 28 4, failIf (decide (p.kind = 0 ∨ 2 < p.kind)) 3 at_,
            failIf (decide (5 < p.tier)) 3 (at_ + 1),
            failIf (decide (p.va % 4096 ≠ 0 ∨ 2 ^ 52 ≤ p.va ∨ p.size % 4096 ≠ 0 ∨ p.size < 4096 ∨ p.size < p.dlen) ||
              (p.dlen != 0 && decide (t.dataLen < p.doff + p.dlen)) ||
              (p.kind == 1 && (p.tier != 0 || p.dlen != 0 || decide (p.size < 65536))) ||
              (t.plan.take i).any (fun q => overlap p.va p.size q.va q.size || (p.kind == 1 && q.kind == 1)) ||
              overlap p.va p.size addr t.head.isize ||
              (p.kind == 1 && !t.nodes.any (fun n => n.spill != 0))) 12 i]

/-- Step 4. -/
def tabsErr (bs : List Byte) (t : CTabs) (addr : Nat) : Option LoadErr :=
  let spills := t.plan.any (fun p => p.kind == 1)
  firstErr [checkSec bs 4 (fmtErr t), checkSec bs 5 slotErr, checkSec bs 1 (nodeErr t), checkSec bs 2 (edgeErr t), checkSec bs 3 (cedgeErr t), checkSec bs 9 (planErr t addr),
            failIf (t.nodes.any (fun n => n.spill != 0) && !spills) 12 noEntry]

/-! ### Drift code (R96-R98, R102) -/

/-- The fields of a SEGEND (R98). -/
structure SegEnd where
  kind : Nat
  ms   : Nat
  a    : Nat
  b    : Nat
  low  : Nat
  deriving DecidableEq, Repr

def segEndOf (w : DWord) : SegEnd :=
  { kind := (w.extractLsb' 42 3).toNat, ms := (w.extractLsb' 38 4).toNat, a := (w.extractLsb' 20 18).toNat,
    b := (w.extractLsb' 2 18).toNat, low := (w.extractLsb' 0 2).toNat }

/-- The q register of SEGEND.QZ: its bit 4 is word bit 0 (R98). -/
def SegEnd.q (e : SegEnd) : Nat := e.ms + 16 * e.low

/-- Fields that a kind does not use are zero, and those it uses are in range (R98). -/
def segEndOk (w : DWord) : Bool :=
  let e := segEndOf w
  w.extractLsb' 45 6 == 7 && match e.kind with
    | 0 => e.ms == 0 && e.b == 0 && e.low == 0
    | 1 => decide (e.ms < 12) && e.low == 0
    | 2 => e.ms == 0 && e.low == 0
    | 3 => e.ms == 0 && e.a == 0 && e.b == 0 && e.low == 0
    | 4 => e.ms == 0 && decide (e.a < 256) && e.b == 0 && e.low == 0
    | 5 => e.ms == 0 && e.a == 0 && e.b == 0 && e.low == 0
    | 6 => decide (e.low < 2)
    | _ => false

/-- The segments a SEGEND names (R98). -/
def SegEnd.succs (e : SegEnd) : List Nat :=
  match e.kind with | 0 => [e.a] | 1 => [e.a, e.b] | 2 => [e.a, e.b] | 6 => [e.a, e.b] | _ => []

/-- The instruction of a drift word: its token field is 0b111 whatever its group, and its stall 0 (R96). -/
def driftInstr (w : DWord) : Option Instr :=
  let maj := (w.extractLsb' 58 6).toNat
  let func := (w.extractLsb' 51 7).toNat
  if w.extractLsb' 45 6 ≠ 7 then none
  else match instrOf maj func w with
    | none => none
    | some i => if rawReserved maj func w || i.reason == some 2 then none else some i

/-- Words that transfer control stand in no segment (R97). -/
def isTransfer (i : Instr) : Bool :=
  match i with
  | .bra _ => true | .call _ => true | .brx _ => true | .ret _ => true | .sbrZ _ => true | .sbrNz _ => true
  | _ => false

/-- The words that may precede SEGEND.END (R98). -/
def isEnding (w : DWord) : Bool :=
  match driftInstr w with
  | some (.exitW _) => true
  | some (.exitC _) => true
  | some (.sexit _) => true
  | some (.trap _) => true
  | _ => false

/-- A segment (R97): its first word, its words before the SEGEND, and the SEGEND. -/
structure Seg where
  off  : Nat
  body : List DWord
  fin  : SegEnd
  deriving DecidableEq, Repr

/-- CODE cut into segments; words after the last SEGEND belong to none. -/
def segsOf : List DWord → Nat → List DWord → List Seg
  | [], _, _ => []
  | w :: ws, off, acc =>
    if isSegEnd w then { off := off, body := acc.reverse, fin := segEndOf w } :: segsOf ws (off + acc.length + 1) []
    else segsOf ws off (w :: acc)

def Seg.last (g : Seg) : Nat := g.off + g.body.length

/-- The rules of R96 to R98 that each word of CODE meets by itself. In code of an older generation, a word that was an
illegal encoding there stands as one (R107). -/
def wordBad (native : Bool) (heads : List Nat) (prev : Option DWord) (w : DWord) : Bool :=
  if isSegEnd w then
    !segEndOk w || !((segEndOf w).succs.all heads.contains) ||
      ((segEndOf w).kind == 5 && !(match prev with | some p => isEnding p | none => false))
  else match driftInstr w with
    | none => native
    | some i => isTransfer i

/-- DEDUCED, log 26. -/
def wordsErr (native : Bool) (heads : List Nat) : Option DWord → Nat → List DWord → Option LoadErr
  | _, _, [] => none
  | prev, i, w :: ws =>
    if i = 262144 ∨ wordBad native heads prev w ∨ (ws = [] ∧ !isSegEnd w) then some (9, 8 * i)
    else wordsErr native heads (some w) (i + 1) ws

/-! ### What code reaches (R98-R102) -/

def segAt (gs : List Seg) (o : Nat) : Option Seg := gs.find? (fun g => g.off == o)

/-- Segments reached from a list of them. -/
def reachFrom (gs : List Seg) : Nat → List Nat → List Nat → List Nat
  | 0, _, seen => seen
  | _ + 1, [], seen => seen
  | k + 1, o :: todo, seen =>
    if seen.contains o then reachFrom gs k todo seen
    else match segAt gs o with
      | none => reachFrom gs k todo seen
      | some g => reachFrom gs k (g.fin.succs ++ todo) (o :: seen)

def reach (gs : List Seg) (os : List Nat) : List Nat := reachFrom gs (3 * gs.length + os.length + 1) os []

/-- Executors of code: 0 compute waves, 1 access waves, 2 sequencers (R102). -/
def entriesFor (ns : List CNode) (k : Nat) : List Nat :=
  ns.filterMap (fun n =>
    if k = 0 then (if n.kind = 0 then some n.code else none)
    else if k = 1 then (if n.kind = 0 ∧ n.hasAccess then some n.access else none)
    else (if n.kind = 3 then some n.code else none))

/-- A word an executor may not run (R101, R102). -/
def wordForeign (k : Nat) (w : DWord) : Bool :=
  match driftInstr w with
  | none => false
  | some i => if k = 2 then !permitted 7 true false i else if k = 1 then !accessWord i else i.cls == 7

/-- A segment holds only what an executor runs (R98, R101, R102). -/
def segFits (k : Nat) (g : Seg) : Bool :=
  !(g.body.any (wordForeign k)) && g.fin.kind != (if k = 2 then 1 else 6)

/-- What an executor's code reaches: the segments its entries reach and, where one of them holds an INDIRECT, what the
segments listed in SAFEPTS reach, as far as that executor runs it (R98, R102). -/
def codeOf (gs : List Seg) (listed : List Nat) (ns : List CNode) (k : Nat) : List Nat :=
  let r := reach gs (entriesFor ns k)
  if r.any (fun o => match segAt gs o with | some g => g.fin.kind == 4 | none => false) then
    let more := listed.filter (fun o => (reach gs [o]).all (fun u => match segAt gs u with | some g => segFits k g | none => false))
    reach gs (entriesFor ns k ++ more)
  else r

/-- The first word, in CODE, that its executors may not run: of class 7 in a node of KIND 0, of another class than 5 and
7 in a node of KIND 3, or a COND or QZ where it may not stand (R98, R102). -/
def placeErr (gs : List Seg) (listed : List Nat) (ns : List CNode) : Option LoadErr :=
  let waves := reach gs (entriesFor ns 0 ++ entriesFor ns 1)
  let seqs := reach gs (entriesFor ns 2)
  let wavesAll := codeOf gs listed ns 0 ++ codeOf gs listed ns 1
  let seqsAll := codeOf gs listed ns 2
  firstErr (gs.map (fun g =>
    let words := g.body.zipIdx.map (fun w =>
      failIf ((waves.contains g.off && wordForeign 0 w.1) || (seqs.contains g.off && wordForeign 2 w.1)) 9 (8 * (g.off + w.2)))
    let fin := failIf ((g.fin.kind == 1 && (seqs.contains g.off || !wavesAll.contains g.off)) ||
        (g.fin.kind == 6 && (waves.contains g.off || !seqsAll.contains g.off)) ||
        (g.fin.kind == 4 && seqs.contains g.off && decide (31 < g.fin.a))) 9 (8 * g.last)
    firstErr (words ++ [fin])))

/-- Bad words of MORAINE (R113 step 5). -/
def mcodeErr (ws : List Word) : Option LoadErr :=
  firstErr (ws.zipIdx.map (fun w => match decodeMoraine w.1 with | .ok _ => none | .error _ => some (9, 4 * w.2)))

/-! ### Safe points (R99, R100) -/

/-- Segments that must be listed (R99). -/
def mustList (gs : List Seg) (ns : List CNode) : List Nat :=
  entriesFor ns 0 ++ entriesFor ns 1 ++ entriesFor ns 2 ++
    gs.flatMap (fun g => g.fin.succs.filter (fun t => g.fin.kind == 2 || decide (t ≤ g.off)))

/-- Words from each segment to the next cut, in descending order of the segments (R100): a successor that is no cut stands
higher. -/
def pathLens (listed : List Nat) : List Seg → List (Nat × Nat)
  | [] => []
  | g :: gs =>
    let rest := pathLens listed gs
    let tail := (g.fin.succs.filter (fun t => !listed.contains t)).foldl (fun m t =>
      match rest.find? (fun r => r.1 == t) with | some r => max m r.2 | none => m) 0
    (g.off, g.body.length + (if g.fin.kind = 1 then 2 else 1) + tail) :: rest

/-- Step 5's SAFEPTS and the paths between cuts (R99, R100).
DESIGN CHOICE, log 26, unsafe: ids are distinct among the segments that successor fields reach from an entry; one that only
an INDIRECT can reach does not count there, though its paths are measured. -/
def safeErr (bs : List Byte) (gs : List Seg) (t : CTabs) : Option LoadErr :=
  let listed := t.safes.map (·.1)
  let entryErr (i at_ : Nat) (e : List Byte) : Option LoadErr :=
    let seg := leAt e 0 4
    firstErr [reservedBytes e at_ 6 2,
              failIf ((segAt gs seg).isNone || (listed.take i).contains seg || decide (4095 < leAt e 4 2)) 10 seg]
  let need := (mustList gs t.nodes).filter (fun o => !listed.contains o)
  let roots := entriesFor t.nodes 0 ++ entriesFor t.nodes 1 ++ entriesFor t.nodes 2
  let twice := roots.flatMap (fun o =>
    let here := t.safes.filter (fun e => (reach gs [o]).contains e.1)
    (here.filter (fun e => here.any (fun f => decide (f.1 < e.1) && f.2.1 == e.2.1))).map (·.1))
  let lens := pathLens listed gs
  let run := (List.range 3).flatMap (codeOf gs listed t.nodes)
  let long := (run.eraseDups).filter (fun o => listed.contains o &&
    (match lens.find? (fun r => r.1 == o) with | some r => decide (4096 < r.2) | none => false))
  let least (l : List Nat) : Option LoadErr := match l.min? with | some o => some (10, o) | none => none
  firstErr [checkSec bs 7 entryErr, least need, least twice, least long]

/-- Access slices (R101).
DESIGN CHOICE, log 26, unsafe: what a slice and a CODE entry reach is what successor fields reach; no INDIRECT is followed. -/
def accessErr (gs : List Seg) (ns : List CNode) : Option LoadErr :=
  firstErr (ns.zipIdx.map (fun n =>
    if n.1.kind = 0 ∧ n.1.hasAccess then
      let a := reach gs [n.1.access]
      let c := reach gs [n.1.code]
      failIf (a.any (fun o => c.contains o || (match segAt gs o with
        | some g => g.body.any (wordForeign 1)
        | none => false))) 11 n.2
    else none))

/-! ### Relocations and patches (R105, R106) -/

/-- A word in literal form: format L (R105). -/
def isLiteral (w : DWord) : Bool := match driftInstr w with | some (.movi _) => true | some (.smovi _) => true | _ => false

/-- A word whose C field is a short immediate offset (R105, R299). -/
def isShort (w : DWord) : Bool :=
  w.getLsbD 0 && match driftInstr w with
    | some (.ld _ _) => true | some (.st _ _) => true | some (.ldl _ _) => true | some (.stl _ _) => true
    | some (.lda _ _) => true | some (.strl _ _) => true | some (.pref _) => true
    | _ => false

/-- Put a value into bits of a word that are zero. -/
def putField (w : DWord) (lo v : Nat) : DWord := w ||| BitVec.ofNat 64 (v * 2 ^ lo)

/-- The value a RELOC entry computes (R105), if its SYM names something. -/
def relocValue (t : CTabs) (heads : List Nat) (e : List Byte) : Option Int :=
  let sym := leAt e 6 2
  let add := leAt e 8 8
  match leAt e 5 1 with
  | 0 => match t.plan[sym]? with | some p => some ((p.va : Int) + sext 64 add) | none => none
  | 1 => if sym < t.nodes.length then some ((sym : Int) + sext 64 add) else none
  | 2 =>
    let o := sym + bits add 62 2 * 65536
    if heads.contains o then some ((o : Int) + sext 62 add) else none
  | _ => none

/-- The range of a type, and what it writes where (R105). -/
def relocRange (typ : Nat) (v : Int) : Bool :=
  match typ with
  | 1 => decide (0 ≤ v ∧ v < (2 : Int) ^ 52)
  | 2 => decide (0 ≤ v ∧ v < (2 : Int) ^ 52)
  | 3 => decide (0 ≤ v ∧ v < (2 : Int) ^ 32)
  | 4 => decide (-(2 : Int) ^ 31 ≤ v ∧ v < (2 : Int) ^ 31)
  | _ => decide (0 ≤ v ∧ v ≤ 511)

def relocWord (typ : Nat) (v : Int) (w : DWord) : DWord :=
  match typ with
  | 2 => putField w 0 (wrapN 52 v / 2 ^ 32)
  | 5 => putField w 9 (wrapN 9 v)
  | _ => putField w 0 (wrapN 32 v)

/-- The target field of a type is in a word of its form, and zero (R105). -/
def relocTarget (typ : Nat) (w : DWord) : Bool :=
  if typ = 5 then isShort w && w.extractLsb' 9 9 == 0 else isLiteral w && w.extractLsb' 0 32 == 0

/-- Apply the RELOC entries in order: the words, the words written, or a failure.
DESIGN CHOICE, log 26, unsafe: of two entries for one word the later fails with LOAD_RELOC_TYPE, as does an OFFSET outside
CODE or no multiple of 8; R115 names no code for them. -/
def applyRelocs (t : CTabs) (heads : List Nat) : List (List Byte) → Nat → List DWord → List Nat → Sum LoadErr (List DWord × List Nat)
  | [], _, ws, hit => .inr (ws, hit)
  | e :: es, i, ws, hit =>
    let j := leAt e 0 4 / 8
    let typ := leAt e 4 1
    match ws[j]? with
    | none => .inl (13, i)
    | some w =>
      if leAt e 0 4 % 8 ≠ 0 ∨ typ = 0 ∨ 5 < typ ∨ hit.contains j ∨ !relocTarget typ w then .inl (13, i)
      else match relocValue t heads e with
        | none => .inl (13, i)
        | some v => if relocRange typ v then applyRelocs t heads es (i + 1) (ws.set j (relocWord typ v w)) (j :: hit) else .inl (14, i)

/-- Apply the PATCH entries: `val` gives the value of a kind and a SYM (R106). -/
def applyPatches (t : CTabs) (at0 : Nat) (val : Nat → Nat → Nat) :
    List (List Byte) → Nat → List DWord → List Nat → Sum LoadErr (List DWord)
  | [], _, ws, _ => .inr ws
  | e :: es, i, ws, hit =>
    let at_ := at0 + 16 * i
    let j := leAt e 0 4 / 8
    let kind := leAt e 4 1
    match firstErr [reservedBytes e at_ 5 1, reservedBytes e at_ 8 8, failIf (decide (kind = 0 ∨ 3 < kind)) 3 (at_ + 4)] with
    | some x => .inl x
    | none =>
      match ws[j]? with
      | none => .inl (15, i)
      | some w =>
        if leAt e 0 4 % 8 ≠ 0 ∨ hit.contains j ∨ !isLiteral w ∨ w.extractLsb' 0 32 ≠ 0 ∨
            (kind = 2 ∧ t.nodes.length ≤ leAt e 6 2) then .inl (15, i)
        else applyPatches t at0 val es (i + 1) (ws.set j (putField w 0 (val kind (leAt e 6 2)))) (j :: hit)

end Sys2Proof.Machine
end

