-- ==== Sys2Proof/Machine/Translate.lean ====
section
/-!
DEFINITION. The hub translator (R102, R103, R107): drift segments become clauses in the image area. Its free choices: each
word of fixed latency stalls for what is left of its latency; a word that writes a register when it completes, or that
takes range locks, takes tk0 and ends its clause; every header waits on tk0.
-/

namespace Sys2Proof.Machine

/-- A word of a translated clause: itself, or a branch whose target is a segment. -/
inductive TWord
  | lit (w : DWord)
  | bra (ms seg : Nat)
  | call (seg ret : Nat)
  | ret
  | brx (r : Nat)
  | sbrz (q seg : Nat)
  deriving DecidableEq, Repr

/-- A clause before it has an address: its executor and class, its words, its safe point, and the segment whose first
clause it is. -/
structure TClause where
  ex    : Nat
  cls   : Nat
  words : List TWord
  safe  : Option (Nat × BitVec 256 × DWord)
  seg   : Option Nat
  deriving DecidableEq, Repr

/-- Idle cycles after a word of fixed latency, so that its result can be read by the next word (R289, R290). -/
def latencyStall (w : DWord) : Nat :=
  let maj := (w.extractLsb' 58 6).toNat
  let f := (w.extractLsb' 51 7).toNat
  if maj = 0x01 then (if f ≤ 6 then 1 else 0)
  else if (maj = 0x0C ∧ 2 ≤ f ∧ f ≤ 4) ∨ (maj = 0x11 ∧ f = 1) then 3
  else if 0x0C ≤ maj ∧ maj ≤ 0x11 then 1
  else if maj = 0x18 ∨ maj = 0x19 then 3
  else if maj = 0x1A then (if f = 7 ∨ f = 8 then 5 else 0)
  else if maj = 0x24 then (if f = 0 then 3 else 5)
  else if maj = 0x25 then 5
  else if maj = 0x26 then (if f = 0 then 3 else if f = 2 then 1 else 0)
  else if maj = 0x08 then (if f = 3 then 1 else 0)
  else if maj = 0x37 then (if f ≤ 0x0D then 1 else 0)
  else 0

/-- Words that take range locks, which a later word of the same thread must find released (R103). -/
def takesLocks (i : Instr) : Bool := match i with | .tld _ => true | .tst _ => true | .tcopy _ => true | _ => false

/-- Whether the translator gives a word tk0: it writes a register when it completes, or takes locks. -/
def wantsToken (ex : Nat) (w : DWord) : Bool :=
  match driftInstr w with
  | none => false
  | some i =>
    takesLocks i || match i.shape.tok with
      | .need => true
      | .load => !(ex == 1 && w.extractLsb' 36 9 == 0xFF)
      | _ => false

/-- How many registers from D on an instruction writes; in a sequencer a GETSR writes one (R333, R403). -/
def Instr.dests (ex : Nat) (i : Instr) : Nat :=
  match i with
  | .recld w => w.c.toNat - 0x180
  | .texSample _ => 4 | .texLoad _ => 4 | .texGather _ => 4
  | .ttake w => if w.mod0 then 4 else 1
  | .ld z _ => Size.regs z | .ldl z _ => Size.regs z | .lda z _ => Size.regs z
  | .atom _ _ w => if w.mod0 then 2 else 1
  | .dadd _ => 2 | .dmul _ => 2 | .dfma _ => 2 | .aadd64 _ => 2 | .amad64 _ => 2 | .mbal _ => 2
  | .getsr w => match waveSr w.imm16 with | some (true, _) => if ex = 2 then 1 else 2 | _ => 1
  | .movi _ => 1 | .smovi _ => 1
  | .tfeed _ => 0 | .tld _ => 0 | .tst _ => 0 | .mma _ => 0 | .mdrain _ => 0 | .mdrainLg _ => 0
  | .join _ => 0 | .leave _ => 0 | .waitm _ => 0 | .xset _ => 0
  | i => if i.shape.d then 1 else 0

/-- A drift word, run by an executor, writes the register of a code. -/
def writesCode (ex : Nat) (w : DWord) (code : Nat) : Bool :=
  match driftInstr w with
  | none => false
  | some i => let d := (w.extractLsb' 36 9).toNat; decide (d ≤ code ∧ code < d + Instr.dests ex i)

/-- A drift word with its stall and token (R102). -/
def timed (ex : Nat) (w : DWord) : DWord :=
  let w := w ||| BitVec.ofNat 64 (latencyStall w * 2 ^ 48)
  if wantsToken ex w then w &&& ~~~ (BitVec.ofNat 64 (7 * 2 ^ 45)) else w

/-- The class of the clause a word stands in (R102). -/
def clauseClass (ex : Nat) (w : DWord) (cur : Nat) : Nat :=
  if ex = 1 then 6 else if ex = 2 then 7 else match driftInstr w with | some i => i.cls | none => cur

/-- Cut the words of a segment into clauses of one class and at most 16 words; a word with a token ends its clause. The
flag says whether such a word ended the last one. -/
def cutBody (ex : Nat) : List DWord → Nat → List DWord → List (Nat × List DWord × Bool)
  | [], _, [] => []
  | [], c, cur => [(c, cur.reverse, false)]
  | w :: ws, c, cur =>
    let k := clauseClass ex w c
    let t := timed ex w
    let room := cur != [] && k == c && decide (cur.length < 16)
    let cur' := if room then t :: cur else [t]
    let before := if room || cur == [] then [] else [(c, cur.reverse, false)]
    if wantsToken ex w then before ++ (k, cur'.reverse, true) :: cutBody ex ws 0 [] else before ++ cutBody ex ws k cur'

/-- The branch words of a SEGEND (R102). -/
def branchWords (e : SegEnd) : List TWord :=
  match e.kind with
  | 0 => [.bra 15 e.a]
  | 1 => [.bra e.ms e.a, .bra 15 e.b]
  | 2 => [.call e.a e.b]
  | 3 => [.ret]
  | 4 => [.brx e.a]
  | 6 => [.sbrz e.q e.a, .bra 15 e.b]
  | _ => []

/-- The class of a clause that holds only branch words. -/
def bareClass (ex : Nat) (e : SegEnd) : Nat := if ex = 1 then 6 else if ex = 2 ∧ e.kind = 6 then 7 else 5

/-- The clauses of a segment for an executor (R102). Branch words stand last in the clause of the words before them, but
where they read a register that a word with a token has only then written: the scoreboard would trap there. -/
def segClauses (listed : List (Nat × Nat × BitVec 256 × DWord)) (ex : Nat) (g : Seg) : List TClause :=
  let br := branchWords g.fin
  let body := cutBody ex g.body 0 []
  let reads (w : DWord) : Bool :=
    (g.fin.kind == 4 && writesCode ex w g.fin.a) || (g.fin.kind == 6 && writesCode ex w g.fin.q)
  let own : Bool := match body.getLast?, g.body.getLast? with | some b, some w => b.2.2 && reads w | _, _ => true
  let lits (ws : List DWord) : List TWord := ws.map TWord.lit
  let parts : List (Nat × List TWord) := match body.getLast? with
    | none => [(bareClass ex g.fin, br)]
    | some (c, ws, _) =>
      let front := (body.dropLast).map (fun b => (b.1, lits b.2.1))
      if own then front ++ [(c, lits ws), (bareClass ex g.fin, br)]
      else
        let extra := ws.length + br.length - 16
        front ++ (if extra = 0 then [(c, lits ws ++ br)] else [(c, lits (ws.take extra)), (c, lits (ws.drop extra) ++ br)])
  let safe := match listed.find? (fun e => e.1 == g.off) with | some e => some e.2 | none => none
  parts.zipIdx.map (fun p =>
    { ex := ex, cls := p.1.1, words := p.1.2, safe := if p.2 = 0 then safe else none, seg := if p.2 = 0 then some g.off else none })

/-- Every clause of an image in order: by executor, then by segment (R102). -/
def allClauses (gs : List Seg) (safes : List (Nat × Nat × BitVec 256 × DWord)) (ns : List CNode) : List TClause :=
  (List.range 3).flatMap (fun ex =>
    let code := codeOf gs (safes.map (·.1)) ns ex
    (gs.filter (fun g => code.contains g.off)).flatMap (segClauses safes ex))

def TClause.size (c : TClause) : Nat := 8 * (c.words.length + 1)

/-- Give each clause its address. -/
def placeClauses : Nat → List TClause → List (Nat × TClause)
  | _, [] => []
  | a, c :: cs => (a, c) :: placeClauses (a + c.size) cs

/-- The first header of a segment for an executor. -/
def headerOf (ps : List (Nat × TClause)) (ex seg : Nat) : Nat :=
  match ps.find? (fun p => p.2.ex == ex && p.2.seg == some seg) with | some p => p.1 | none => 0

/-- A word of a clause at header h (R294, R409). -/
def encodeT (ps : List (Nat × TClause)) (ex h : Nat) (w : TWord) : DWord :=
  let off (seg : Nat) : BitVec 24 := BitVec.ofInt 24 (((headerOf ps ex seg : Int) - h) / 8)
  let c (d ms seg : Nat) : CWord := { stall := 0, token := 7, d := BitVec.ofNat 9 d, off := off seg, msel := BitVec.ofNat 4 ms }
  let v (a : Nat) : VWord :=
    { stall := 0, token := 7, d := 0, a := BitVec.ofNat 9 a, b := 0, c := 0, msel := 15, reuse := false, mod := 0 }
  match w with
  | .lit w => w
  | .bra ms seg => encodeNative (.bra (c 0 ms seg))
  | .call seg _ => encodeNative (.call (c 0 15 seg))
  | .ret => encodeNative (.ret (v 0))
  | .brx r => encodeNative (.brx (v r))
  | .sbrz q seg => encodeNative (.sbrZ (c q 15 seg))

/-- The bytes of a placed clause. -/
def clauseBytes (ps : List (Nat × TClause)) (p : Nat × TClause) : List Byte :=
  let c := p.2
  let hd : Header := { cls := c.cls, count := c.words.length, wait := 1, s := c.safe.isSome,
                       spid := match c.safe with | some e => e.1 | none => 0, park := false }
  let ws : List DWord := encodeHeader hd :: c.words.map (encodeT ps c.ex p.1)
  ws.flatMap (fun w => bytesOf 8 w.toNat)

end Sys2Proof.Machine
end

