-- ==== Sys2Proof/Machine/Loader.lean ====
section
/-!
DEFINITION. GRAPH_LOAD (R111-R115): a load reads its container, checks it, relocates and translates the code, copies the data
and registers the nodes; what it finds wrong stands in the image header.
-/

namespace Sys2Proof.Machine

/-! ### The loader's accesses (R113) -/

/-- What a loader access meets: its bytes or pages; a walk that ended in a fault; a home out of service or with an
uncorrectable error; or a link that retrains on the way from the hub, for which it waits (R29). -/
inductive LRes (α : Type)
  | ok (a : α)
  | walk (cause va : Nat)
  | dead (cause va : Nat)
  | hold

/-- The physical address of a loader access: a TLB's answer, or a walk made for it.
DEDUCED, log 11: the walk is made at once. -/
def loadXlate (s : State) (c va : Nat) (acc : Acc) : LRes Nat :=
  let at_ (pa : Nat) : LRes Nat :=
    if offline s pa then .dead fMemoryOffline va
    else if pathWaits s 2 (homeEnd pa) || lineWaits s none true (pa / 128) then .hold else .ok pa
  if 2 ^ 52 ≤ va then .walk fVaRange va
  else match tlbFind (SMap.get [] s.tlb2 0) c va acc with
    | some pa => at_ pa
    | none =>
      match walkFrom s va acc 4 (s.ctx c).ptRoot with
      | .page v pa _ _ _ => at_ (pa + (va - v))
      | .fault f => .walk f va
      | .hold => .hold

/-- Translate every piece of a range. -/
def loadPages (s : State) (c : Nat) (acc : Acc) : List (Nat × Nat) → LRes (List (Nat × Nat))
  | [] => .ok []
  | (va, n) :: ps =>
    match loadXlate s c va acc with
    | .walk f v => .walk f v
    | .dead f v => .dead f v
    | .hold => .hold
    | .ok pa =>
      if poisoned s pa n then .dead fEcc va
      else match loadPages s c acc ps with
        | .ok l => .ok ((pa, n) :: l)
        | .walk f v => .walk f v
        | .dead f v => .dead f v
        | .hold => .hold

/-- The lines that the walks of a range read are combined (R192). -/
def loadWalked (s : State) (c : Nat) (acc : Acc) (ps : List (Nat × Nat)) : State :=
  ps.foldl (fun s p => if (tlbFind (SMap.get [] s.tlb2 0) c p.1 acc).isSome then s else combineWalk s c p.1) s

def loadRead (s : State) (c va n : Nat) : LRes (State × List Byte) :=
  match loadPages s c .read (pieces va n) with
  | .ok l => .ok (hubRead (loadWalked s c .read (pieces va n)) l)
  | .walk f v => .walk f v
  | .dead f v => .dead f v
  | .hold => .hold

def loadWrite (s : State) (c va : Nat) (bs : List Byte) : LRes State :=
  match loadPages s c .write (pieces va bs.length) with
  | .ok l => .ok (hubWrite (loadWalked s c .write (pieces va bs.length)) l bs)
  | .walk f v => .walk f v
  | .dead f v => .dead f v
  | .hold => .hold

/-! ### The image header (R114) -/

/-- What the header says of a container: NODES, ORIGIN and MMREV, free where the container has not been read. -/
def headWords (s : State) (h : Option CHead) : List Byte :=
  match h with
  | some x => bytesOf 2 x.nnodes ++ bytesOf 1 x.origin ++ bytesOf 1 x.mmrev
  | none => bytesOf 4 (Config.freeNat s.free 0x70000)

/-- The image header.
DESIGN CHOICE, log 26, unsafe: DETAIL and USED while a load is in progress, and USED of one that failed, are 0. -/
def imageHeader (s : State) (l : Launch) (h : Option CHead) (status detail seq used fva : Nat) : List Byte :=
  bytesOf 4 0x4E4C494D ++ bytesOf 4 status ++ bytesOf 4 detail ++ bytesOf 4 seq ++ bytesOf 8 used ++ bytesOf 8 l.entryVA ++
    headWords s h ++ bytesOf 4 s.hub.version.toNat ++ bytesOf 8 fva ++ bytesOf 16 0

/-- Write the image header; a walk that faults there faults the context (R111). A step that must wait is run again. -/
def putHeader (s : State) (c : Nat) (im : Image) (bs : List Byte) (k : State → State) : State :=
  match loadWrite s c im.addr bs with
  | .ok s => k s
  | .walk f _ => s.fatal (hubReport c fLaunchFetch f im.addr 0)
  | .dead f va => s.fatal (hubReport c f 0 va 0)
  | .hold => s

/-- The load's one step is done: it may retire (R68, R139). -/
def loadDone (s : State) (c tag : Nat) : State := updLaunch s c tag (fun l => { l with fed := 1 })

/-- A load fails: its header says how, and nothing is registered (R113).
DESIGN CHOICE, log 26, unsafe: the rest of the image area, and the DATA regions, keep what was written so far, where R113
permits more. -/
def loadFail (s : State) (c tag : Nat) (l : Launch) (im : Image) (h : Option CHead) (e : LoadErr) (fva : Nat) : State :=
  putHeader s c im (imageHeader s l h e.1 e.2 (s.ctx c).loads 0 fva) (fun s => loadDone s c tag)

/-- Go on with an access of the loader, or fail with LOAD_FETCH (R113). -/
def LRes.run {α : Type} (r : LRes α) (s : State) (c tag : Nat) (l : Launch) (im : Image) (h : Option CHead) (k : α → State) : State :=
  match r with
  | .ok a => k a
  | .walk f va => loadFail s c tag l im h (19, f) va
  | .dead f va => s.fatal (hubReport c f 0 va 0)
  | .hold => s

/-! ### Steps 6 to 10 -/

/-- Keys not in a rising list, from k on. -/
def freeKeys : Nat → Nat → List Nat → List Nat
  | 0, _, _ => []
  | f + 1, k, [] => k :: freeKeys f (k + 1) []
  | f + 1, k, x :: xs => if k = x then freeKeys f (k + 1) xs else k :: freeKeys f (k + 1) (x :: xs)

/-- Queue-directory entries for n nodes (R21): 65,536 in all. -/
def freeDir (s : State) (n : Nat) : List Nat :=
  let used := s.queues.map (·.1)
  ((freeKeys (n + used.length) 0 used).take n).filter (fun k => decide (k < 65536))

/-- The MORAINE sections that the code regions hold, by offset and bytes (R113, R437). -/
def moraineHeld (s : State) : List (Nat × Nat) :=
  (s.ctxs.flatMap (fun x => x.2.images.map (fun i => (i.2.mbase, 4 * i.2.mcode.length)))).filter (fun e => e.2 != 0)

/-- The lowest offset with room for a section in the 1 MiB of the code regions.
DESIGN CHOICE, log 26, unsafe: a section lies in one piece. -/
def morainePlace (s : State) (n : Nat) : Option Nat :=
  let held := moraineHeld s
  (((0 :: held.map (fun e => e.1 + e.2)).filter (fun o =>
    decide (o + n ≤ 0x100000) && held.all (fun e => !overlap o n e.1 e.2)))).min?

/-- Place a section in the code region of every DRAM stack (R437). -/
def placeSection (s : State) (o : Nat) (ws : List Word) : State :=
  { s with mem := (List.range 4).foldl (fun m d => putBlock m (moraineBase d + o) (ws.flatMap (fun w => bytesOf 4 w.toNat))) s.mem }

/-- A node as the hub keeps it, with the headers of its entries. -/
def nodeInfo (t : CTabs) (ps : List (Nat × TClause)) (n : CNode) : NodeInfo :=
  { kind := n.kind, width := n.width, fmt := n.fmt,
    entry := if n.kind = 0 then headerOf ps 0 n.code else if n.kind = 3 then headerOf ps 2 n.code else n.code
    access := if n.hasAccess then some (headerOf ps 1 n.access) else none
    linger := n.linger, slots := if n.slots = 0xFF then List.replicate 8 0 else t.slots.getD n.slots (List.replicate 8 0), result := bit n.flags 0, vregs := n.vregs,
    wregs := n.wregs, loc := n.loc, team := n.team, qbase := n.qbase, qlen := n.qlen, edge0 := n.edge0, edges := n.edges,
    cedge0 := n.cedge0, cedges := n.cedges, qcap := n.qcap, spill := n.spill }

def emptyQueue (c img node : Nat) : Queue :=
  { ctx := c, img := img, node := node, half0 := Half.empty, half1 := Half.empty, far := [], pages := [],
    occ := 0, rv := 0, lingered := [] }

/-- Register the nodes of an image (R113 step 10). -/
def registerNodes (s : State) (c tag : Nat) (l : Launch) (im : Image) (t : CTabs) (ps : List (Nat × TClause)) (dir : List Nat)
    (mbase : Nat) : State :=
  let seq := (s.ctx c).loads + 1
  let listed := t.safes.map (·.1)
  let firsts := ps.filter (fun p => match p.2.seg with | some o => listed.contains o | none => false)
  let im : Image := { im with
    size := t.head.isize, seq := seq, st := .loaded, mmrev := t.head.mmrev, nodes := t.nodes.map (nodeInfo t ps),
    edges := t.edges, cedges := t.cedges, fmts := t.fmts,
    spill := (t.plan.find? (fun p => p.kind == 1)).map (fun p => (p.va, p.size)),
    plan := t.plan.map (fun p => (p.kind, p.tier, p.va, p.size)), qdir := dir, mcode := t.mcode, mbase := mbase,
    rets := ps.foldl (fun m p => match p.2.words.getLast? with
      | some (.call _ r) => SMap.insert p.1 (headerOf ps p.2.ex r) m
      | _ => m) [],
    safe := ps.foldl (fun m p => match p.2.safe with | some e => SMap.insert p.1 e.2 m | none => m) [],
    segs := firsts.foldl (fun m p => SMap.insert (p.2.ex * 2 ^ 32 + p.2.seg.getD 0) p.1 m) [],
    indir := ps.flatMap (fun p => (p.2.words.zipIdx.filter (fun w => match w.1 with | .brx _ => true | _ => false)).map
      (fun w => p.1 + 8 * (w.2 + 1))) }
  let s := updCtx s c (fun x => { x with loads := seq, images := SMap.insert l.img im x.images })
  loadDone (dir.zipIdx.foldl (fun s q => s.setQueue q.1 (emptyQueue c l.img q.2)) s) c tag

/-- Copy the initial bytes of the DATA regions in order (R113 step 9). -/
def copyData (bs : List Byte) (t : CTabs) (c : Nat) : List CPlan → State → State × LRes Unit
  | [], s => (s, .ok ())
  | p :: ps, s =>
    if p.kind ≠ 2 ∨ p.dlen = 0 then copyData bs t c ps s
    else match loadWrite s c p.va ((bs.drop (t.dataOff + p.doff)).take p.dlen) with
      | .ok s => copyData bs t c ps s
      | .walk f va => (s, .walk f va)
      | .dead f va => (s, .dead f va)
      | .hold => (s, .hold)

/-- Steps 7 to 10, on relocated code. -/
def loadImage (s : State) (c tag : Nat) (l : Launch) (im : Image) (bs : List Byte) (t : CTabs) : State :=
  let h := some t.head
  let dir := freeDir s t.nodes.length
  let ps := placeClauses (im.addr + 4096) (allClauses (segsOf t.words 0 []) t.safes t.nodes)
  let used := ps.foldl (fun n p => n + p.2.size) 4096
  if dir.length < t.nodes.length then loadFail s c tag l im h (17, 2) 0
  else match morainePlace s (4 * t.mcode.length) with
  | none => loadFail s c tag l im h (17, 4) 0
  | some mbase =>
  if t.head.isize < used then loadFail s c tag l im h (17, 3) 0
  else
    (loadWrite s c (im.addr + 4096) (ps.flatMap (clauseBytes ps))).run s c tag l im h fun s =>
      let d := copyData bs t c t.plan s
      d.2.run d.1 c tag l im h fun _ =>
        putHeader d.1 c im (imageHeader d.1 l h 0 0 ((s.ctx c).loads + 1) used 0) fun s =>
          registerNodes (placeSection s mbase t.mcode) c tag l im t ps dir mbase

/-- Step 6: relocations in order, then patches (R105, R106). -/
def relocated (s : State) (c : Nat) (bs : List Byte) (t : CTabs) : Sum LoadErr CTabs :=
  let tab := secTable bs
  let heads := (segsOf t.words 0 []).map (·.off)
  let dir := freeDir s t.nodes.length
  let val (kind sym : Nat) : Nat := match kind with | 1 => c | 2 => dir.getD sym 0 | _ => (s.ctx c).loads + 1
  match applyRelocs t heads (secOf bs tab 10).2 0 t.words [] with
  | .inl e => .inl e
  | .inr (ws, hit) =>
    match applyPatches t (secOf bs tab 8).1 val (secOf bs tab 8).2 0 ws hit with
    | .inl e => .inl e
    | .inr ws => .inr { t with words := ws }

/-- A translated cross-lane word with the subgroup size of its generation: 16 for N1, 32 for N2 and N3 (R107, R358). -/
def withGroup (origin : Nat) (w : DWord) : DWord :=
  if w.extractLsb' 58 6 = 0x25 ∧ (driftInstr w).isSome then (w &&& ~~~ 7) ||| (if origin = 1 then 4 else 5) else w

/-- The registers that code writes, as live masks: any v register where one is written by an index (R99, R107). -/
def writtenBy (ws : List DWord) : BitVec 256 × DWord :=
  let v := if ws.any (fun w => match driftInstr w with | some (.vstx _) => true | _ => false) then BitVec.allOnes 256
    else (List.range 256).foldl (fun (m : BitVec 256) i => if ws.any (fun w => writesCode 0 w i) then m ||| BitVec.twoPow 256 i else m) 0
  (v, (List.range 64).foldl (fun (m : DWord) i => if ws.any (fun w => writesCode 0 w (0x100 + i)) then m ||| BitVec.twoPow 64 i else m) 0)

/-- A container of an older generation as drift code (R107): entry points become segments, with a safe point at every
entry and loop header and every register that the code writes marked live.
DESIGN CHOICE, log 27, safe. -/
def fromLegacy (t : CTabs) : Sum LoadErr CTabs :=
  if t.head.origin = 4 then .inr t
  else match Config.legacyTranslate t.head.origin t.legacy with
    | .inl off => .inl (16, off)
    | .inr (raw, entries) =>
      let ws := raw.map (withGroup t.head.origin)
      let live := writtenBy ws
      let coded (n : CNode) : Bool := n.kind == 0 || n.kind == 3
      let at_ (o : Nat) : Option Nat := match entries.find? (fun e => e.1 == o) with | some e => some e.2 | none => none
      match t.nodes.find? (fun n => coded n && (at_ n.code).isNone) with
      | some n => .inl (16, n.code)
      | none =>
        let ns := t.nodes.map (fun n => if coded n then { n with code := (at_ n.code).getD 0 } else n)
        let need := mustList (segsOf ws 0 []) ns
        let safes := ((List.range ws.length).filter need.contains).zipIdx.map (fun o =>
          (o.1, o.2 % 4096, live.1, live.2))
        .inr { t with words := ws, nodes := ns, safes := safes }

/-- Of two failures in one section, the one at the lower byte offset (R113). -/
def lowerErr (a b : Option LoadErr) : Option LoadErr :=
  match a, b with
  | some x, some y => if y.2 < x.2 then some y else some x
  | some x, none => some x
  | none, b => b

/-- Step 5. -/
def codeErr (bs : List Byte) (t : CTabs) : Option LoadErr :=
  let native := t.head.origin == 4
  let gs := segsOf t.words 0 []
  firstErr [lowerErr (wordsErr native (gs.map (·.off)) none 0 t.words) (placeErr gs (t.safes.map (·.1)) t.nodes), mcodeErr t.mcode,
            if native then safeErr bs gs t else none, accessErr gs t.nodes]

/-- Steps 3 to 6 on a whole container: what fails, or its tables with relocated code. -/
def checkContainer (s : State) (c addr : Nat) (bs : List Byte) : Sum LoadErr CTabs :=
  match firstErr [crcErr s c addr bs, tableErr bs] with
  | some e => .inl e
  | none =>
    let t := ctabsOf bs
    match tabsErr bs t addr with
    | some e => .inl e
    | none =>
      match fromLegacy t with
      | .inl e => .inl e
      | .inr t =>
        match codeErr bs t with
        | some e => .inl e
        | none => relocated s c bs t

/-- Steps 2 to 10. -/
def runLoad (s : State) (c tag : Nat) (l : Launch) (im : Image) : State :=
  (loadRead s c l.entryVA 64).run s c tag l im none fun (s, hd) =>
    let h := some (cheadOf hd)
    match headErr hd with
    | some e => loadFail s c tag l im h e 0
    | none =>
      (loadRead s c l.entryVA (cheadOf hd).length).run s c tag l im h fun (s, bs) =>
        match checkContainer s c im.addr bs with
        | .inl e => loadFail s c tag l im h e 0
        | .inr t => loadImage s c tag l im bs t

/-- The load that was read first among those not done, in contexts that run (R112): context, tag and launch. -/
def nextLoad (s : State) : Option (Nat × Nat × Launch) :=
  let ls : List (Nat × Nat × Launch) := s.ctxs.flatMap (fun x =>
    if x.2.st = .active then (x.2.launches.filter (fun l => l.2.kind == .load && !feedDone l.2)).map (fun l => (x.1, l.1, l.2)) else [])
  ls.foldl (fun (a : Option (Nat × Nat × Launch)) x => match a with
    | none => some x
    | some b => if x.2.2.order < b.2.2.order then some x else a) none

/-- GRAPH_LOAD (R113): the first time, step 1 for the load whose turn it is (its ENTRY_NODE, reserved as zero, then counts
one); the second time, the other steps.
DEDUCED, log 26, unsafe: a load that STOP or ABORT ends before its turn has not begun, and leaves its image area as it was. -/
def execGraphLoad (s : State) : Host.Outcome State Fault Refusal :=
  match nextLoad s with
  | none => .next s
  | some (c, tag, l) =>
    match imageOf s c l.img with
    | none => .next s
    | some im =>
      if l.entryNode = 0 then
        .next (putHeader s c im (imageHeader s l none 0xFFFFFFFF 0 (s.ctx c).loads 0 0)
          (fun s => updLaunch s c tag (fun l => { l with entryNode := 1 })))
      else .next (runLoad s c tag l im)

end Sys2Proof.Machine
end

