-- ==== Sys2Proof/Machine/Matrix.lean ====
section
/-!
DEFINITION. Matrix operations of a sequencer (R417-R431): MMA, MZERO, MSCALE, MCOOP, MDRAIN, MDRAIN.LG, MSYNC, MWAIT,
their issue, and their commit by the engine in order.
-/

namespace Sys2Proof.Machine

/-! ### Issue (R417) -/

/-- List a matrix operation, with its token. -/
def pushOp (s : State) (k : Nat) (q : Seq) (tok : BitVec 3) (o : MOp) : State :=
  s.setSeq k { q with
    queue := q.queue ++ [(o, tokenOf tok)]
    tok := match tokenOf tok with | some t => SMap.set 0 t (SMap.get 0 q.tok t + 1) q.tok | none => q.tok }

/-- A matrix word: its operands, its own fault, then a wait for the queue's depth and the token. -/
def matWord (s : State) (tok : BitVec 3) (ops : List (SeqKind × Bool × BitVec 9)) (own : SCtx → Option FaultInfo)
    (body : SCtx → State) : Host.Outcome State Fault Refusal :=
  onSeq s fun x =>
    let full : Bool := match tokenOf tok with | some t => decide (63 ≤ SMap.get 0 x.sq.tok t) | none => false
    checkedSeq s x ops (own x) (if x.sq.queue.length ≥ 8 ∨ full then s.waitIssue else body x)

/-- F_MATRIX_STATE of a sequencer, and F_COOP_GROUP. -/
def mState (reason v : Nat) : Option FaultInfo := some (matrixState reason v 0)
def coopFault (reason : Nat) : Option FaultInfo := some (.of fCoopGroup reason 0)

/-- The header a report of a program's engine names. -/
def Seq.pc (q : Seq) : Nat := match q.run with | some c => c.h | none => q.h

def seqSlot (s : State) (q : Seq) (i : Nat) : DWord :=
  match nodeOf s q.cons.ctx q.cons.img q.cons.node with | some nd => slotOf nd i | none => 0

/-- Whether a sub-tile is triangular once the queued operations have committed. -/
def triAfter (q : Seq) (m : Nat) : Bool :=
  q.queue.foldl (fun t o => match o.1 with
    | .mzero k => if bit k m then false else t
    | .mma sub _ _ _ _ tri red _ _ _ _ _ _ => if sub = m ∧ tri ∧ !red then true else t
    | _ => t) (SMap.get Sub.reset q.subs m).tri.isSome

/-- The bytes of a tile and its side-array, by offset. -/
def tileBytes (q : Seq) (t : Nat) : SMap Byte :=
  (q.tiles.filter (fun e => e.1 / 5120 == t)).map (fun e => (e.1 % 5120, e.2))

def seqAt (s : State) (k : Nat) (q : Seq) : Seq := (SMap.find? s.seqs k).getD q

/-! ### MMA (R418, R419) -/

/-- Both slots name operand formats that may meet (R419). -/
def mmaSlotsOk (a b : DWord) : Bool :=
  let ea := slotElem a
  let eb := slotElem b
  ((decide (ea = 5 ∨ ea = 6) && decide (eb = 5 ∨ eb = 6)) ||
    (decide (7 ≤ ea ∧ ea ≤ 10) && decide (7 ≤ eb ∧ eb ≤ 10))) && opK a == opK b

/-- The faults of MMA, which are checked at issue (R418, R419, R431, R432). -/
def mmaFault (s : State) (w : VWord) (x : SCtx) : Option FaultInfo :=
  let sub := (seqRead s x.k x.sq w.d).toNat
  let ta := w.a.toNat - 0x20
  let tb := w.b.toNat - 0x20
  let tri := w.mod.getLsbD 3
  let red := w.mod.getLsbD 2
  if sub > 8 then mState 6 sub
  else if !mmaSlotsOk (seqSlot s x.sq w.slotA) (seqSlot s x.sq w.slotB) then
    some (.of fFormatSlot (16 * w.slotA + w.slotB) 0)
  else if (match x.sq.inGroup with | some g => (g.shA && decide (8 ≤ ta)) || (g.shB && decide (tb < 8)) | none => false) then
    coopFault 4
  else if red ∧ (x.sq.inGroup = none ∨ tri) then mState 7 sub
  else if w.reuse && (match x.sq.latch with | some (t, sl, _) => t != ta || sl != w.slotA | none => true) then mState 3 ta
  else
    let dst := if red then ownerRed s x.k x.sq x.sq.inGroup else x.k
    let isTri := if dst = x.k then triAfter x.sq sub else (SMap.get Sub.reset (seqAt s dst x.sq).subs sub).tri.isSome
    if !tri ∧ isTri then mState 4 sub else none

def execMma (w : VWord) (s : State) : Host.Outcome State Fault Refusal :=
  matWord s w.token [(.qOrConst, false, w.d), (.tile, false, w.a), (.tile, false, w.b)] (mmaFault s w) fun x =>
    let sub := (seqRead s x.k x.sq w.d).toNat
    let ta := w.a.toNat - 0x20
    let tb := w.b.toNat - 0x20
    let oa := seqAt s (ownerA s x.k x.sq x.sq.inGroup) x.sq
    let ob := seqAt s (ownerB s x.k x.sq x.sq.inGroup) x.sq
    if (!w.reuse && tileState oa ta != .full) || tileState ob tb != .full then s.waitIssue
    else
      let rows : SMap Byte := if w.reuse then (match x.sq.latch with | some (_, _, m) => m | none => []) else tileBytes oa ta
      pushOp s x.k { x.sq with latch := some (ta, w.slotA, rows) } w.token
        (.mma sub (if w.reuse then 16 else ta) tb w.slotA w.slotB (w.mod.getLsbD 3) (w.mod.getLsbD 2) rows (tileBytes ob tb)
          x.sq.tripos x.sq.trival x.sq.mctl (ownersOf s x.k x.sq))

/-- Masked of R423, for a latched TRIPOS. -/
def masked (tpos : DWord) (sub r c : Nat) : Bool :=
  let row := bits tpos.toNat 0 16
  let col := bits tpos.toNat 16 16
  let diag := sext 16 (bits tpos.toNat 32 16)
  decide (((col + 32 * (sub % 3) + c : Nat) : Int) > ((row + 32 * (sub / 3) + r : Nat) : Int) + diag)

/-- The K elements of row r of tile bytes, and their block scales (R406). -/
def rowElems (m : SMap Byte) (sl : DWord) (r : Nat) : List (Nat × Int) :=
  let w := opWidth sl
  let row := natOfBytes ((List.range 128).map (fun j => SMap.get 0 m (128 * r + j)))
  let sc (g : Nat) : Int :=
    if slotBlock sl = 1 then sext 24 (natOfBytes ((List.range 3).map (fun j => SMap.get 0 m (4096 + 32 * r + 4 * g + j)))) else 0
  (List.range (opK sl)).map (fun k => (bits row (w * k) w, sc (k / 32)))

/-- Accumulate of R238. -/
def AccE.add (e : AccE) (p : Int × Bool × Bool) : AccE :=
  let n := if e.count < 2 ^ 32 then e.count + 1 else e.count
  { sum := e.sum + BitVec.ofInt 128 p.1, sat := e.sat || p.2.1, nar := e.nar || p.2.2 || decide (n = 2 ^ 32), count := n }

/-- Add a product to an element's part of its row's signature (R424). -/
def addSig (g : BitVec 128 × Bool × Bool) (p : Int × Bool × Bool) : BitVec 128 × Bool × Bool :=
  (g.1 + BitVec.ofInt 128 p.1, g.2.1 || p.2.1, g.2.2 || p.2.2)

/-- The products of one element of an MMA. -/
def elemProducts (sa sb : DWord) (ra rb : List (Nat × Int)) (anchor : Int) : List (Int × Bool × Bool) :=
  let ea := (elemOf (slotElem sa)).getD (.int 32)
  let eb := (elemOf (slotElem sb)).getD (.int 32)
  (ra.zip rb).map (fun p => product ea eb p.1.1 p.2.1 p.1.2 p.2.2 anchor)

/-- The effect of MMA on the accumulator it adds to (R419); with `red2` its contributions are formed a second time (R424). -/
def mmaOn (dst : Seq) (sub : Nat) (tri red2 : Bool) (sa sb : DWord) (rowsA rowsB : SMap Byte) (tpos tval : DWord) : Seq :=
  let st := SMap.get Sub.reset dst.subs sub
  let st := if tri ∧ st.tri.isNone then { st with tri := some (tpos, tval) } else st
  let st := { st with clear := false }
  let lat := st.tri.getD (0, 0)
  let as := (List.range 32).map (rowElems rowsA sa)
  let bs := (List.range 32).map (rowElems rowsB sb)
  let r := as.zipIdx.foldl (fun (a : SMap AccE × SMap (BitVec 128 × Bool × Bool)) ra =>
    bs.zipIdx.foldl (fun (a : SMap AccE × SMap (BitVec 128 × Bool × Bool)) cb =>
      let key := accKey (32 * (sub / 3) + ra.2) (32 * (sub % 3) + cb.2)
      let e := SMap.get AccE.zero a.1 key
      if tri && masked lat.1 sub ra.2 cb.2 then
        (SMap.set AccE.zero key { e with sum := lat.2.signExtend 128, sat := false, nar := false } a.1, a.2)
      else
        let ps := elemProducts sa sb ra.1 cb.1 st.anchor
        (SMap.set AccE.zero key (ps.foldl AccE.add e) a.1,
         if red2 then SMap.insert (32 * ra.2 + cb.2) (ps.foldl addSig (SMap.get (0, false, false) a.2 (32 * ra.2 + cb.2))) a.2
         else a.2)) a) (dst.acc, st.sigs)
  { dst with acc := r.1, subs := SMap.set Sub.reset sub { st with sigs := r.2 } dst.subs }

/-! ### MZERO, MSCALE (R420-R422) -/

def maskArg (s : State) (x : SCtx) (code : BitVec 9) : Nat := (seqRead s x.k x.sq code).toNat

def execMzero (w : VWord) (s : State) : Host.Outcome State Fault Refusal :=
  matWord s w.token [(.qOrConst, false, w.a)]
    (fun x => if maskArg s x w.a ≥ 512 then mState 6 (maskArg s x w.a) else none)
    fun x => pushOp s x.k x.sq w.token (.mzero (maskArg s x w.a))

def execMscale (w : VWord) (s : State) : Host.Outcome State Fault Refusal :=
  let anchor (x : SCtx) : Int := (seqRead s x.k x.sq w.b).toInt
  matWord s w.token [(.qOrConst, false, w.a), (.qOrConst, false, w.b)]
    (fun x =>
      let m := maskArg s x w.a
      if m ≥ 512 then mState 6 m
      else if anchor x < -32768 ∨ 32767 < anchor x then mState 5 (maskArg s x w.b)
      else if (List.range 9).any (fun i => bit m i && !clearAfter x.sq i) then mState 5 m
      else none)
    fun x => pushOp s x.k x.sq w.token (.mscale (maskArg s x w.a) (anchor x) x.cl.h)

/-- MZERO's effect (R421): parts zero, not triangular, no signatures; the anchor stays. An error in a sub-tile is gone. -/
def zeroSubs (q : Seq) (m : Nat) : Seq :=
  { q with
    bad := q.bad.filter (fun b => !(decide (16 ≤ b) && bit m (b - 16)))
    acc := q.acc.filter (fun e => !bit m (subOfElem e.1))
    subs := (List.range 9).foldl (fun t i =>
      if bit m i then SMap.set Sub.reset i { Sub.reset with anchor := (SMap.get Sub.reset t i).anchor } t else t) q.subs }

/-- MSCALE's effect (R422). -/
def scaleSubs (q : Seq) (m : Nat) (a : Int) : Seq :=
  { q with subs := (List.range 9).foldl (fun t i =>
      if bit m i then SMap.set Sub.reset i { SMap.get Sub.reset t i with anchor := a } t else t) q.subs }

/-! ### MDRAIN (R424, R425) -/

def drainSlotOk (log : Bool) (sl : DWord) : Bool :=
  let e := slotElem sl
  slotBlock sl == 0 && decide (slotRound sl ≤ 1) &&
    (if log then decide (e = 8 ∨ e = 10) else (match elemOf e with | some (.flt t) => t == fp32 || t == fp16 || t == bf16 | _ => false))

/-- MDRAIN and MDRAIN.LG issue into an EMPTY tile, which becomes BUSY. -/
def drainWord (log : Bool) (w : VWord) (s : State) : Host.Outcome State Fault Refusal :=
  matWord s w.token [(.tile, true, w.d), (.qOrConst, false, w.a)]
    (fun x =>
      let sub := maskArg s x w.a
      if sub > 8 then mState 6 sub
      else if !drainSlotOk log (seqSlot s x.sq w.slotA) then some (.of fFormatSlot w.slotA 0)
      else none)
    fun x =>
      let t := w.d.toNat - 0x20
      if tileState x.sq t ≠ .empty ∨ tileRead s x.k t then s.waitIssue
      else pushOp s x.k { x.sq with tst := SMap.set .empty t .busy x.sq.tst } w.token (.mdrain t (maskArg s x w.a) w.slotA x.cl.h log x.sq.mctl)

def execMdrain (w : VWord) (s : State) : Host.Outcome State Fault Refusal := drainWord false w s
def execMdrainLg (w : VWord) (s : State) : Host.Outcome State Fault Refusal := drainWord true w s

/-- The first row of a sub-tile that differs from its signature, or from TRIVAL where masked (R424). -/
def mismatchRow (q : Seq) (sub : Nat) : Option Nat :=
  let st := SMap.get Sub.reset q.subs sub
  (List.range 32).find? (fun r =>
    let es := (List.range 32).map (fun c =>
      (c, SMap.get AccE.zero q.acc (accKey (32 * (sub / 3) + r) (32 * (sub % 3) + c))))
    let hid (c : Nat) : Bool := match st.tri with | some t => masked t.1 sub r c | none => false
    let shown := es.filter (fun e => !hid e.1)
    let sig := shown.foldl (fun (a : BitVec 128 × Bool × Bool) e =>
      let g := SMap.get ((0 : BitVec 128), false, false) st.sigs (32 * r + e.1)
      (a.1 + g.1, a.2.1 || g.2.1, a.2.2 || g.2.2)) (0, false, false)
    let sum := shown.foldl (fun (a : BitVec 128) e => a + e.2.sum) 0
    let tv : BitVec 128 := match st.tri with | some t => t.2.signExtend 128 | none => 0
    sum != sig.1 || shown.any (·.2.sat) != sig.2.1 || shown.any (·.2.nar) != sig.2.2 ||
      es.any (fun e => hid e.1 && (e.2.sum != tv || e.2.sat || e.2.nar)))

/-- The drained tile, and the NSTAT bits (R425): random words are taken where ROUND = 1. -/
def drainTile (q : Seq) (sub : Nat) (sl : DWord) (rnds : List Nat) : List (Nat × Byte) × Nat :=
  let e := (elemOf (slotElem sl)).getD (.int 32)
  let anchor := (SMap.get Sub.reset q.subs sub).anchor
  let rows := (List.range 32).map (fun r =>
    (List.range 32).foldl (fun (a : Nat × Nat) c =>
      let x := SMap.get AccE.zero q.acc (accKey (32 * (sub / 3) + r) (32 * (sub % 3) + c))
      let mode : Rm := if slotRound sl = 1 then .sr (rnds.getD (32 * r + c) 0) else .ne
      let (code, f) := drainElem e mode (slotSat sl) (accValue x.sum x.sat x.nar anchor)
      (a.1 + code * 2 ^ (e.width * c), a.2 ||| f)) (0, 0))
  (rows.zipIdx.flatMap (fun r => (bytesOf (4 * e.width) r.1.1).zipIdx.map (fun b => (128 * r.2 + b.2, b.1))),
   rows.foldl (fun f r => f ||| r.2) 0)

def drainCommit (s : State) (k : Nat) (q : Seq) (t sub slot pc : Nat) (rdn : Bool) : State :=
  let bad : Option Nat := if rdn && !(SMap.get Sub.reset q.subs sub).fedA then mismatchRow q sub else none
  match bad with
  | some r =>
    s.fatal (reportOf q.cons.ctx (unitOfCluster k) 0xFFFF pc
      { cause := fMatrixMismatch, sub := 0, va := 0, lanes := 0, detail := sub + r * 256 })
  | none =>
    let sl := seqSlot s q slot
    let rnds := (Rng.take (if slotRound sl = 1 then 1024 else 0) (s.rng k)).2
    let (bs, f) := drainTile q sub sl rnds
    let s := if slotRound sl = 1 then serveRng s k 0 1024 else s
    setTile (s.setSeq k ((writeTile q t bs).flag f)) k t .full

/-! ### MSYNC, MWAIT (R427) -/

def tileMaskFault (s : State) (w : VWord) (x : SCtx) : Option FaultInfo :=
  if maskArg s x w.a ≥ 65536 then mState 6 (maskArg s x w.a) else none

def execMsync (w : VWord) (s : State) : Host.Outcome State Fault Refusal :=
  matWord s w.token [(.qOrConst, false, w.a)] (tileMaskFault s w) fun x =>
    pushOp s x.k x.sq w.token (.msync (maskArg s x w.a) (ownersOf s x.k x.sq))

/-- The cluster whose tile a tile number names for a program (R430). -/
def tileOwner (s : State) (k : Nat) (q : Seq) (g : Option Grp) (t : Nat) : Nat := if t < 8 then ownerA s k q g else ownerB s k q g

/-- MWAIT waits at issue: earlier operations committed, every tile of the mask FULL. -/
def execMwait (w : VWord) (s : State) : Host.Outcome State Fault Refusal :=
  matWord s w.token [(.qOrConst, false, w.a)] (tileMaskFault s w) fun x =>
    let m := maskArg s x w.a
    if x.sq.queue = [] ∧
        (List.range 16).all (fun t => !bit m t || tileState (seqAt s (tileOwner s x.k x.sq x.sq.inGroup t) x.sq) t == .full) then
      pushOp s x.k x.sq w.token .mwait
    else s.waitIssue

/-! ### Cooperative groups (R428-R431) -/

/-- The fields of MCOOP's descriptor; OP 3 and the reserved fields give reason 1. -/
def coopOp (d : Nat) : Nat := bits d 18 2
def coopBad (d : Nat) : Bool :=
  bits d 32 32 == 0 || bits d 20 12 != 0 || bits d 16 2 != 0 || coopOp d == 3 ||
    (if coopOp d = 0 then
      bits d 10 2 != 0 || bit d 8 || bits d 2 4 != 0 || decide (bits d 14 2 > 1) ||
        decide (bits d 9 1 > bits d 14 2) || decide (bits d 6 2 > bits d 12 2)
     else bits d 0 16 != 0)

/-- The membership a JOIN asks for. -/
def coopGrp (d now : Nat) : Grp :=
  { key := bits d 32 32, rows := bits d 14 2 + 1, cols := bits d 12 2 + 1, row := bits d 9 1, col := bits d 6 2,
    shA := bit d 0, shB := bit d 1, formed := false, syncs := 0, since := now }

/-- Running programs of the context with a group key. -/
def groupOf (s : State) (c key : Nat) : List (Nat × Seq) :=
  s.seqs.filter (fun p => p.2.cons.ctx == c && (match p.2.grp with | some g => g.key == key | none => false))

/-- A pre-empted program of the context is in, or has joined, a group (R429). -/
def groupSaved (s : State) (c key : Nat) : List Seq :=
  s.savedSeqs.filter (fun q => q.cons.ctx == c && (match q.grp with | some g => g.key == key | none => false))

/-- A joiner agrees with an earlier one: shape and shares the same, place distinct. -/
def agrees (g h : Grp) : Bool :=
  g.rows == h.rows && g.cols == h.cols && g.shA == h.shA && g.shB == h.shB && !(g.row == h.row && g.col == h.col)

/-- Every place of a group is taken by a program that runs. -/
def groupFull (s : State) (c : Nat) (g : Grp) : Bool :=
  (groupOf s c g.key).length == g.rows * g.cols && groupSaved s c g.key == []

/-- The last member of a group has joined: it forms, and the word's operation is listed. -/
def formGroup (s : State) (w : VWord) (x : SCtx) (q : Seq) (g : Grp) : State :=
  let s := (groupOf s q.cons.ctx g.key).foldl (fun s p =>
    { s with seqs := SMap.modify p.1 (fun q => { q with grp := q.grp.map (fun h => { h with formed := true }) }) s.seqs }) s
  pushOp s x.k { q with grp := some { g with formed := true }, syncing := false } w.token .mcoop

/-- JOIN: the first issue enters the group, which forms with its last member; the word waits at issue till then. -/
def coopJoin (s : State) (w : VWord) (x : SCtx) (d : Nat) : State :=
  if x.sq.syncing then
    match x.sq.grp with
    | some g =>
      if g.formed then pushOp s x.k { x.sq with syncing := false } w.token .mcoop
      else if groupFull s x.sq.cons.ctx g then formGroup s w x x.sq g
      else s.waitIssue
    | none => s.waitIssue
  else if x.sq.queue.any (fun o => o.1 == .mleave) then s.waitIssue
  else if x.sq.grp.isSome then faultSeq s x (.of fCoopGroup 3 0)
  else
    let g := coopGrp d s.aclk
    let ms := (groupOf s x.sq.cons.ctx g.key).map (·.2) ++ groupSaved s x.sq.cons.ctx g.key
    if ms.any (fun p => match p.grp with | some h => !agrees g h | none => false) then faultSeq s x (.of fCoopGroup 1 0)
    else
      let q := { x.sq with grp := some g, syncing := true }
      let s := s.setSeq x.k q
      if groupFull s q.cons.ctx g then formGroup s w x q g else s.waitIssue

/-- Member m has issued its n-th SYNC, and what it issued before has committed. -/
def syncMet (n : Nat) (q : Seq) : Bool :=
  match q.grp with
  | some g => decide (n < g.syncs) || (g.syncs == n && (!q.syncing || q.queue == []))
  | none => true

/-- SYNC: counted once; waits at issue until every member has met it. -/
def coopSync (s : State) (w : VWord) (x : SCtx) (d : Nat) : State :=
  match x.sq.inGroup with
  | none => faultSeq s x (.of fCoopGroup 3 0)
  | some g =>
    if g.key ≠ bits d 32 32 then faultSeq s x (.of fCoopGroup 3 0)
    else
      let g := if x.sq.syncing then g else { g with syncs := g.syncs + 1 }
      let q := { x.sq with grp := some g, syncing := true }
      let s := s.setSeq x.k q
      if (members s q).all (fun p => syncMet g.syncs p.2) then pushOp s x.k { q with syncing := false } w.token .mcoop
      else s.waitIssue

/-- LEAVE: an operation of the queue; the program is out of its group for the words after it. -/
def coopLeave (s : State) (w : VWord) (x : SCtx) (d : Nat) : State :=
  match x.sq.inGroup with
  | none => faultSeq s x (.of fCoopGroup 3 0)
  | some g => if g.key ≠ bits d 32 32 then faultSeq s x (.of fCoopGroup 3 0) else pushOp s x.k x.sq w.token .mleave

/-- MCOOP is one word: the descriptor's OP decides (R428).
DEDUCED, log 15, safe. -/
def coopWord (w : VWord) (s : State) : Host.Outcome State Fault Refusal :=
  matWord s w.token [(.q, false, w.a)]
    (fun x => if coopBad (maskArg s x w.a) then coopFault 1 else none) fun x =>
    let d := maskArg s x w.a
    match coopOp d with
    | 0 => coopJoin s w x d
    | 1 => coopSync s w x d
    | _ => coopLeave s w x d

def execMcoopJoin (w : VWord) (s : State) : Host.Outcome State Fault Refusal := coopWord w s
def execMcoopSync (w : VWord) (s : State) : Host.Outcome State Fault Refusal := coopWord w s
def execMcoopLeave (w : VWord) (s : State) : Host.Outcome State Fault Refusal := coopWord w s

/-- COOP_JOIN_TIMEOUT (R431): a JOIN not complete within 1,048,576 ACLK. -/
def execCoopJoinTimeout (s : State) : Host.Outcome State Fault Refusal :=
  .next (s.seqs.foldl (fun s p =>
    match p.2.grp with
    | some g =>
      if !g.formed ∧ g.since + 1048576 ≤ s.aclk ∧ (s.ctx p.2.cons.ctx).st = .active then
        s.fatal (reportOf p.2.cons.ctx (unitOfCluster p.1) 0xFFFF
          p.2.pc (.of fCoopGroup 2 0))
      else s
    | none => s) s)

/-! ### Commit -/

/-- Take the oldest operation off the queue and complete its token (R417). -/
def popOp (s : State) (k : Nat) : State :=
  { s with seqs := SMap.modify k (fun q =>
    match q.queue with
    | [] => q
    | (_, tk) :: rest =>
      { q with queue := rest
               tok := match tk with | some t => SMap.set 0 t (SMap.get 0 q.tok t - 1) q.tok | none => q.tok }) s.seqs }

/-- An operation meets an uncorrectable error of a tile it reads or a sub-tile it changes or drains (R433). -/
def meetsError (s : State) (k : Nat) (q : Seq) (o : MOp) : Bool :=
  let bad (j p : Nat) : Bool := match ownerAt s k q j with | some j => (seqAt s j q).bad.contains p | none => false
  match o with
  | .mma sub ta tb _ _ _ red _ _ _ _ _ own =>
    (decide (ta < 16) && bad own.a ta) || bad own.b tb || bad (if red then own.red else q.prog) (16 + sub)
  | .mdrain _ sub _ _ _ _ => bad q.prog (16 + sub)
  | _ => false

/-- What a matrix operation does at its commit, with the owners of its issue (R417, R430): the accumulator of a row owner that
has exited is gone. An anchor changes only on sub-tiles that are CLEAR then too (R422). -/
def commitOp (s : State) (k : Nat) (q : Seq) (o : MOp) : State :=
  if meetsError s k q o then s.fatal (reportOf q.cons.ctx (unitOfCluster k) 0xFFFF q.pc (.of fEcc 0 0))
  else match o with
  | .mma sub _ _ sa sb tri red rowsA rowsB tpos tval rdn own =>
    match ownerAt s k q (if red then own.red else q.prog) with
    | none => s
    | some dk =>
    let dst := seqAt s dk q
    s.setSeq dk (mmaOn dst sub tri (rdn || red) (seqSlot s q sa) (seqSlot s q sb) rowsA rowsB tpos tval)
  | .mzero m => s.setSeq k (zeroSubs q m)
  | .mscale m a pc =>
    if (List.range 9).any (fun i => bit m i && !(SMap.get Sub.reset q.subs i).clear) then
      s.fatal (reportOf q.cons.ctx (unitOfCluster k) 0xFFFF pc (matrixState 5 m 0))
    else s.setSeq k (scaleSubs q m a)
  | .mdrain t sub slot pc _ rdn => drainCommit s k q t sub slot pc rdn
  | .msync m own =>
    (List.range 16).foldl (fun s t =>
      if bit m t then
        match ownerAt s k q (if t < 8 then own.a else own.b) with
        | some j => releaseTile s k j t
        | none => s
      else s) s
  | .mwait => s
  | .mcoop => s
  | .mleave => s.setSeq k { q with grp := none }

/-- The engine of a program runs: its context ACTIVE and its stack running; not stopped for pre-emption (R433). -/
def engineRuns (s : State) (k : Nat) (q : Seq) : Bool := ctxRuns s q.cons.ctx && stackRuns s (k / 24)

/-- A drain that rounds with random words has missed its turn of this ACLK, and commits in a later one (R426). -/
def drainHeld (s : State) (k : Nat) (q : Seq) (o : MOp) : Bool :=
  match o with
  | .mdrain _ _ slot _ _ _ => slotRound (seqSlot s q slot) == 1 && !rngTurn s k 0
  | _ => false

/-- MATRIX_OP_COMMIT (R417): the oldest operation of cluster k's program commits. A drain that finds a mismatch faults
its context and does not commit. -/
def execMatrixOpCommit (k : Nat) (s : State) : Host.Outcome State Fault Refusal :=
  match SMap.find? s.seqs k with
  | none => .next s
  | some q =>
    match q.queue with
    | [] => .next s
    | (o, _) :: _ =>
      if !engineRuns s k q || drainHeld s k q o then .next s
      else
        let t := commitOp s k q o
        if (t.ctx q.cons.ctx).st = .faulted then .next t else .next ((popOp t k).count (unitOfCluster k))

end Sys2Proof.Machine
end

