-- ==== Sys2Proof/Machine/Media.lean ====
section
/-!
DEFINITION. The display heads (R84, R85) and the video engines (R86-R89).
-/

namespace Sys2Proof.Machine

/-! ### Display -/

def setHead (s : State) (h : Nat) (d : Head) : State := { s with heads := SMap.set Head.reset h d s.heads }

/-- DISPLAY_ENABLE (R85): a write that sets DISP_CTL.EN to 1. -/
def execDisplayEnable (w : HostWrite) (s : State) : Host.Outcome State Fault Refusal :=
  .next (hostWrite s w (fun r v =>
    let t := writeReg s r v (wValue w &&& wBits w)
    match r with
    | .disp h .ctl => setHead t h { t.head h with stopping := false }
    | _ => t))

/-- DISPLAY_DISABLE (R84): a write that sets DISP_CTL.EN to 0; the current frame is still scanned out. -/
def execDisplayDisable (w : HostWrite) (s : State) : Host.Outcome State Fault Refusal :=
  .next (hostWrite s w (fun r v =>
    let t := writeReg s r v (wValue w &&& wBits w)
    match r with
    | .disp h .ctl => setHead t h { t.head h with stopping := bit (s.head h).ctl.toNat 0 && !bit v 0 }
    | _ => t))

/-- DISPLAY_VBLANK (R84): DISP_SURF is latched, FLIP_DONE is set, and vector 34 + h goes out.
DESIGN CHOICE, log 30, unsafe: it goes out at every blank, whether or not FLIP_DONE was set before. -/
def execDisplayVblank (h : Nat) (s : State) : Host.Outcome State Fault Refusal :=
  let d := s.head h
  if bit d.ctl.toNat 0 then
    .next { setHead s h { d with latched := d.surf.toNat, flip := true } with msix := s.msix ++ [34 + h] }
  else .next s

/-- A colour channel of an FP16 surface for output: clamped to [0, 1] and rounded to 10 bits, nearest even; a NaN gives
a free value.
PRESUMED, log 30, unsafe: the form of the output. -/
def channel10 (free x : Nat) : Nat :=
  match fDecode fp16 x with
  | .nan => Config.freeNat free x % 1024
  | .inf neg => if neg then 0 else 1023
  | .fin neg p q => if neg then 0 else min 1023 (roundInt .ne false (p * 1023) q)

/-- A pixel as the head shows it: the surface's word for FMT 0 and 1, three 10-bit channels for FMT 2. -/
def pixelOut (free fmt : Nat) (bs : List Byte) : Nat :=
  let c (j : Nat) : Nat := channel10 free (fieldOf bs (2 * j) 2)
  if fmt = 2 then c 0 + c 1 * 2 ^ 10 + c 2 * 2 ^ 20 else natOfBytes (bs.take 4)

/-- The pixels of a row. -/
def rowOut (free fmt : Nat) : Nat → List Byte → List Nat
  | 0, _ => []
  | n + 1, bs =>
    let size := if fmt = 2 then 8 else 4
    pixelOut free fmt (bs.take size) :: rowOut free fmt n (bs.drop size)

/-- Log a scan-out fault against the owning context, once a page, RESUMABLE as its cause is (R335); a translation fault
leaves the context's state as it was.
PRESUMED, log 30. -/
def scanFault (s : State) (c cause va : Nat) : State :=
  let f : Report := { reportOf c 0x400 0xFFFF 0 (FaultInfo.of cause 0 0) with va := va }
  if causeKind cause = .parks then
    let x := s.ctx c
    if x.seen.contains (va / 4096) then s else (s.setCtx c { x with seen := va / 4096 :: x.seen }).report f
  else s.fatal f

/-- The pixels of a row that lie wholly before an address that faults; the rest of the frame is black (R84). -/
def scanStop (s : State) (c fmt at_ rest cause va : Nat) (out : List Nat) : State × List Nat :=
  let size := if fmt = 2 then 8 else 4
  let k := (va - at_) / size
  match loadRead s c at_ (k * size) with
  | .ok (s, bs) => (scanFault s c cause va, out ++ rowOut s.free fmt k bs ++ List.replicate (rest - k) 0)
  | _ => (scanFault s c cause va, out ++ List.replicate rest 0)

/-- Scan out `left` rows from row y; after a fault the rest is black. None while a link retrains on the way (R29). -/
def scanRows (c fmt width pitch base : Nat) : Nat → Nat → State → List Nat → Option (State × List Nat)
  | 0, _, s, out => some (s, out)
  | left + 1, y, s, out =>
    match loadRead s c (base + y * pitch) (width * (if fmt = 2 then 8 else 4)) with
    | .ok (s, bs) => scanRows c fmt width pitch base left (y + 1) s (out ++ rowOut s.free fmt width bs)
    | .walk f va => some (scanStop s c fmt (base + y * pitch) ((left + 1) * width) f va out)
    | .dead f va => some (scanStop s c fmt (base + y * pitch) ((left + 1) * width) f va out)
    | .hold => none

/-- DISPLAY_SCANOUT_FRAME (R84): the head scans out one frame and counts it. -/
def execDisplayScanoutFrame (h : Nat) (s : State) : Host.Outcome State Fault Refusal :=
  let d := s.head h
  let ctl := d.ctl.toNat
  let t := d.timing.toNat
  if bit ctl 0 || d.stopping then
    match scanRows (bits ctl 11 5) (bits ctl 8 3) (bits t 48 16) d.pitch.toNat d.latched (bits t 16 16) 0 s [] with
    | some (s, px) => .next ((setHead s h { d with frames := d.frames + 1, stopping := false, shown := px }).count 0x400)
    | none => .next s
  else .next s

/-! ### Video -/

def setVenc (s : State) (n : Nat) (v : Venc) : State := { s with vencs := SMap.set Venc.reset n v s.vencs }

/-- VIDEO_SESSION_ENABLE (R86): a write that sets VENC_SESS.EN to 1. -/
def execVideoSessionEnable (w : HostWrite) (s : State) : Host.Outcome State Fault Refusal :=
  .next (hostWrite s w (fun r v => writeReg s r v (wValue w &&& wBits w)))

def videoUnit : Nat := 0x300

/-- F_VIDEO_SESSION (R87), or another fatal fault of a frame: nothing of it becomes visible. -/
def videoFault (s : State) (n c cause sub va : Nat) : State :=
  (setVenc s n { s.venc n with cur := none, stalled := false }).fatal
    { reportOf c videoUnit 0xFFFF 0 (FaultInfo.of cause sub 0) with va := va }

/-- A translation fault parks the frame, which runs again from its start (R71, R88). -/
def videoPark (s : State) (n : Nat) (f : VFrame) (cause va : Nat) : State :=
  if causeKind cause = .parks then
    (setVenc s n { s.venc n with cur := some { f with begun := false, left := [] }, stalled := false, park := .xlat }).logPages
      f.cons.ctx videoUnit 0xFFFF 0 [(cause, va / 4096, va, 0)]
  else videoFault s n f.cons.ctx cause 0 va

/-- A frame that must wait for a retraining link runs again from its start, of which nothing shows (R29, R88). -/
def videoHold (s : State) (n : Nat) (f : VFrame) : State :=
  setVenc s n { s.venc n with cur := some { f with begun := false, left := [] }, stalled := false, park := .no }

/-- Go on with what an access of a frame gave. -/
def LRes.frame {α : Type} (r : LRes α) (s : State) (n : Nat) (f : VFrame) (k : α → State) : State :=
  match r with
  | .ok a => k a
  | .walk c va => videoPark s n f c va
  | .dead c va => videoFault s n f.cons.ctx c 0 va
  | .hold => videoHold s n f

/-- Write stream bytes from byte b of a ring. -/
def streamWrite (s : State) (c ring size b : Nat) (bs : List Byte) : LRes State :=
  let at_ := b % size
  let k := size - at_
  match loadWrite s c (ring + 0x1000 + at_) (bs.take k) with
  | .ok s => if bs.length ≤ k then .ok s else loadWrite s c (ring + 0x1000) (bs.drop k)
  | .walk f va => .walk f va
  | .dead f va => .dead f va
  | .hold => .hold

/-- The completion record (R89). -/
def frameRecord (ring n : Nat) (f : VFrame) : List Byte :=
  bytesOf 8 ring ++ bytesOf 8 f.start ++ bytesOf 4 ((f.next + 2 ^ 64 - f.start) % 2 ^ 64) ++ bytesOf 1 n ++
    bytesOf 1 (flag f.key 0) ++ bytesOf 2 0 ++ bytesOf 4 ((f.frames + 1) % 2 ^ 32) ++ bytesOf 4 0

/-- FRAMES, then WR, then the record, and the consumer is over (R88, R89). -/
def frameDone (s : State) (n ring : Nat) (f : VFrame) : State :=
  (loadWrite s f.cons.ctx (ring + 0x18) (bytesOf 4 ((f.frames + 1) % 2 ^ 32))).frame s n f fun s =>
    (loadWrite s f.cons.ctx (ring + 8) (bytesOf 8 f.next)).frame s n f fun s =>
      let s := setVenc s n { s.venc n with cur := none, stalled := false }
      let (s, k) := match portEdge s f.cons.ctx f.cons.img f.cons.node 0 with
        | some e => appendOn s videoUnit 0 f.cons 0 (recWords (recSize s f.cons.ctx f.cons.img e.dst) (frameRecord ring n f)) 0 none
        | none => (s, f.cons)
      (consumerDone s k).count videoUnit

/-- Write what has room; a frame that has more stalls its session, with vector 38 once for the stall (R88). -/
def frameWrite (s : State) (n ring : Nat) (f : VFrame) : State :=
  let room := f.size - (f.next + 2 ^ 64 - f.rd) % 2 ^ 64
  let now := f.left.take room
  (streamWrite s f.cons.ctx ring f.size f.next now).frame s n f fun s =>
    let f := { f with next := (f.next + now.length) % 2 ^ 64, left := f.left.drop room }
    if f.left = [] then frameDone s n ring f
    else
      let s := setVenc s n { s.venc n with cur := some f, stalled := true }
      { s with msix := s.msix ++ [38] }

/-- The sub-code of F_VIDEO_SESSION a record meets (R87).
DESIGN CHOICE, log 31, unsafe: of several, the lowest. -/
def frameErr (s : State) (c : Nat) (bs : List Byte) : Option Nat :=
  let num (o k : Nat) : Nat := fieldOf bs o k
  let n := num 0x0C 1
  let reg := (s.venc n).reg.toNat
  if 32 ≤ n ∨ bit reg 63 = false then some 1
  else if bits reg 58 5 ≠ c then some 2
  else if num 0x0D 1 / 2 ≠ 0 ∨ num 0x0E 2 ≠ 0 ∨ num 0x1C 4 ≠ 0 then some 3
  else if num 0x10 8 % 4096 ≠ 0 then some 4
  else none

/-- The header breaks R88. -/
def vheadBad (hd : List Byte) : Bool :=
  let size := fieldOf hd 0 8
  !((List.range 15).any (fun i => size == 2 ^ (16 + i))) || (hd.drop 0x1C).any (fun b => b != 0) ||
    decide (size < (fieldOf hd 8 8 + 2 ^ 64 - fieldOf hd 0x10 8) % 2 ^ 64)

/-- Read the rows of a surface. -/
def surfRows (c pitch len base : Nat) : Nat → Nat → State → List Byte → LRes (State × List Byte)
  | 0, _, s, out => .ok (s, out)
  | left + 1, y, s, out =>
    match loadRead s c (base + y * pitch) len with
    | .ok (s, bs) => surfRows c pitch len base left (y + 1) s (out ++ bs)
    | .walk f va => .walk f va
    | .dead f va => .dead f va
    | .hold => .hold

/-- The planes of a surface of w × h units of 16 (R87): base, pitch, bytes of a row, rows. FP16 RGBA is one plane; 4:2:0
YCbCr has a luma plane and two chroma planes of half its width and height.
DESIGN CHOICE, log 31, unsafe: the planes follow each other, the chroma rows at half the pitch, with `size` bytes a sample. -/
def surfPlanes (ycc : Bool) (size pitch base w h : Nat) : List (Nat × Nat × Nat × Nat) :=
  if ycc then
    [(base, pitch, 16 * w * size, 16 * h), (base + 16 * h * pitch, pitch / 2, 8 * w * size, 8 * h),
     (base + 16 * h * pitch + 8 * h * (pitch / 2), pitch / 2, 8 * w * size, 8 * h)]
  else [(base, pitch, 128 * w, 16 * h)]

/-- Read the planes of a surface. -/
def readPlanes (c : Nat) : List (Nat × Nat × Nat × Nat) → State → List Byte → LRes (State × List Byte)
  | [], s, out => .ok (s, out)
  | p :: ps, s, out =>
    match surfRows c p.2.1 p.2.2.1 p.1 p.2.2.2 0 s out with
    | .ok (s, out) => readPlanes c ps s out
    | .walk f va => .walk f va
    | .dead f va => .dead f va
    | .hold => .hold

/-- Start a frame: check the record, read the header and the surface, and encode (R87, R88).
DESIGN CHOICE, log 31, safe: the encoder is opaque, and which form a surface has, with the bytes of a YCbCr sample, is free. -/
def frameStart (s : State) (n : Nat) (f : VFrame) : State :=
  let bs := match f.cons.recs with | r :: _ => recBytes r.words | [] => []
  let num (o k : Nat) : Nat := fieldOf bs o k
  let c := f.cons.ctx
  let ring := num 0x10 8
  match frameErr s c bs with
  | some e => videoFault s n c fVideoSession e 0
  | none =>
    (loadRead s c ring 64).frame s n f fun p =>
      if vheadBad p.2 then videoFault p.1 n c fVideoSession 4 0
      else
        let reg := (s.venc n).reg.toNat
        let planes := surfPlanes (Config.freeBit s.free (0x80100 + n)) (1 + (Config.freeBit s.free (0x80200 + n)).toNat) (num 8 4)
          (num 0 8) (bits reg 36 9) (bits reg 27 9)
        (readPlanes c planes p.1 []).frame p.1 n f fun q =>
          let key := bit (num 0x0D 1) 0 || Config.freeBit q.1.free 0x80000
          let at_ := fieldOf p.2 8 8
          frameWrite q.1 n ring
            { f with begun := true, key := key, size := fieldOf p.2 0 8, start := at_, next := at_, frames := fieldOf p.2 0x18 4,
                     rd := fieldOf p.2 0x10 8, left := Config.videoEncode reg key (num 0x18 4) q.2 }

/-- The first waiting record of a session that can start. -/
def nextFrame (s : State) (v : Venc) : Option (Nat × Transit) :=
  match v.queue.zipIdx.find? (fun e => runnable s e.1.ctx) with
  | some (t, i) => if roomFor s t.ctx t.img t.node [t.rcd] then some (i, t) else none
  | none => none

/-- VIDEO_FRAME (R87-R89): session n takes its next record, or runs a replayed frame again. -/
def execVideoFrame (n : Nat) (s : State) : Host.Outcome State Fault Refusal :=
  let v := s.venc n
  match v.cur with
  | some f => if f.begun || v.park != .no || !ctxRuns s f.cons.ctx then .next s else .next (frameStart s n f)
  | none =>
    match nextFrame s v with
    | none => .next s
    | some (i, t) =>
      let s := setVenc s n { v with queue := v.queue.eraseIdx i }
      let (s, k) := takeCons s t.ctx t.img t.node t.rcd.tag [t.rcd]
      .next (frameStart s n { cons := k, begun := false, key := false, size := 0, start := 0, frames := 0, next := 0, rd := 0, left := [] })

def frameRing (f : VFrame) : Nat := match f.cons.recs with | r :: _ => fieldOf (recBytes r.words) 0x10 8 | [] => 0

/-- VIDEO_RD_POLL (R88): every stalled session reads RD again, and goes on once room exists; a budget that has run out stops
no frame (R144). -/
def execVideoRdPoll (s : State) : Host.Outcome State Fault Refusal :=
  .next ((List.range 32).foldl (fun s n =>
    let v := s.venc n
    match v.cur with
    | some f =>
      if !v.stalled || !ctxRuns s f.cons.ctx then s
      else
        let ring := frameRing f
        match loadRead s f.cons.ctx (ring + 0x10) 8 with
        | .hold => s
        | r => r.frame s n f fun p =>
          let f := { f with rd := natOfBytes p.2 }
          if f.size ≤ (f.next + 2 ^ 64 - f.rd) % 2 ^ 64 then setVenc p.1 n { v with cur := some f }
          else frameWrite (setVenc p.1 n { v with cur := some f, stalled := false }) n ring f
    | none => s) s)

end Sys2Proof.Machine
end

