-- ==== Sys2Proof/Machine/Preempt.lean ====
section
/-!
DEFINITION. Pre-emption, resumption, budgets and thermal migration (R143-R145, R173-R177, R180, R433).
-/

namespace Sys2Proof.Machine

/-! ### Throttling (R32, R63, R145) -/

/-- A core is throttled (R32): ACTIVE contexts that hold the clock lock and have a wave on it lose it (R63). -/
def throttle (s : State) (g r : Nat) : State :=
  let hit := ((coreWaves s g).map (fun w => w.2.ctx)).eraseDups.filter (fun c =>
    (s.ctx c).st == .active && decide ((s.ctx c).clklock ≠ 0))
  let s := { s with ratio := SMap.insert g r s.ratio }
  if hit = [] then s
  else (hit.foldl (fun s c => updCtx s c (fun x => { x with lockBroken := true })) s).err 7

/-- A migration waits: its core runs at 1/2, or slower if it does already (R145, R176); the action is reported (R49, R78). -/
def halfSpeed (s : State) (g : Nat) : State := if SMap.get 1 s.ratio g < 2 then (throttle s g 2).err 5 else s

/-! ### Saved state (R175, R176, R433) -/

/-- The save set of a wave (R175): the live v and w registers where every PC is an explicit safe point; else all. -/
def saveSet (im : Image) (wv : Wave) : Option (BitVec 256 × DWord) :=
  if wv.pcs.all (fun p => p.2.i == 0 && (SMap.find? im.safe p.2.h).isSome) then
    some (wv.pcs.foldl (fun (a : BitVec 256 × DWord) p => match SMap.find? im.safe p.2.h with
      | some x => (a.1 ||| x.1, a.2 ||| x.2)
      | none => a) (0, 0))
  else none

/-- The saved bytes of a wave: PC table, masks with arrival sets, x registers, tokens, safe-point count, region, window,
and the save set. -/
def waveBytes (im : Image) (nd : NodeInfo) (wv : Wave) : List Byte :=
  let set := (saveSet im wv).getD (BitVec.allOnes 256, BitVec.allOnes 64)
  let le (n : Nat) (xs : List Nat) : List Byte := xs.flatMap (bytesOf n)
  le 8 ((List.range 64).map (fun l => match SMap.find? wv.pcs l with
    | some p => p.h + 2 ^ 56 * p.i + (if p.wait.isSome then 2 ^ 63 else 0)
    | none => 0)) ++
  le 8 ((List.range 12).flatMap (fun m => [(SMap.get 0 wv.m m).toNat, (SMap.get 0 wv.arr m).toNat])) ++
  le 8 ((List.range 8).flatMap (fun i => [(SMap.get (0, 0) wv.x i).1, (SMap.get (0, 0) wv.x i).2])) ++
  le 1 ((List.range 6).map (wv.getTok ·)) ++ le 4 [wv.spcount, wv.np.getD 0, wv.qh, wv.qc] ++
  le 4 ((List.range (if wv.access then 64 else nd.vregs)).flatMap (fun r =>
    if set.1.getLsbD r then (List.range nd.width).map (fun l => (wv.getV r l).toNat) else [])) ++
  le 4 ((List.range nd.wregs).flatMap (fun r => if set.2.getLsbD r then [(SMap.get 0 wv.w r).toNat] else []))

/-- The saved bytes of a team: its waves, the threads arrived at each barrier, semaphores, cb0-cb3 and local memory.
DESIGN CHOICE, log 20, safe: the order of the parts; no context, host access or kernel can read them. -/
def teamBytes (s : State) (t : Team) (ws : List Wave) : List Byte :=
  match imageOf s t.cons.ctx t.cons.img, nodeOf s t.cons.ctx t.cons.img t.cons.node with
  | some im, some nd =>
    let at_ (b : Nat) : Nat := (ws.map (fun w => (w.pcs.filter (fun p => p.2.wait == some (.bar b))).length)).sum
    ws.flatMap (waveBytes im nd) ++ (List.range 16).flatMap (fun b => bytesOf 4 (at_ b)) ++
      (List.range 64).flatMap (fun i => bytesOf 2 (SMap.get 0 t.sems i)) ++
      (List.range 4).flatMap (fun j => bytesOf 8 (chunkBits t j).toNat) ++
      (List.range (regionSize nd)).map (fun a => SMap.get 0 t.mem a)
  | _, _ => []

/-- The saved bytes of a program: q registers, tiles and accumulator. -/
def progBytes (q : Seq) : List Byte :=
  (List.range 32).flatMap (fun i => bytesOf 8 (SMap.get 0 q.q i).toNat) ++
    (List.range 16).flatMap (fun t => (List.range 5120).map (fun o => SMap.get 0 q.tiles (tileKey t o))) ++
    (List.range 9216).flatMap (fun i => bytesOf 16 (SMap.get AccE.zero q.acc i).sum.toNat ++
      bytesOf 4 (SMap.get AccE.zero q.acc i).count ++
      bytesOf 1 ((SMap.get AccE.zero q.acc i).sat.toNat + 2 * (SMap.get AccE.zero q.acc i).nar.toNat))

/-- Bytes a program's saved state takes at most. -/
def progSize : Nat := 0x50000

/-- Bytes a team's saved state takes at most: its registers and its region (R175).
DEDUCED, log 20: an upper bound. -/
def saveSize (s : State) (t : Team) : Nat :=
  match nodeOf s t.cons.ctx t.cons.img t.cons.node with
  | some nd => (t.waves.length + t.saved.length) * (max (allocOf nd false) (allocOf nd true) + 4096) + regionSize nd
  | none => 0

/-- The parts of a stack's save region in use: offset and size. -/
def saveUsed (s : State) (st : Nat) : List (Nat × Nat) :=
  s.teams.filterMap (fun t => if stackOfCore t.2.core = st then t.2.place else none) ++
    s.savedSeqs.filterMap (fun q => if q.stack = st then q.place else none)

/-- The lowest free part of n bytes of a stack's save region (R176).
DESIGN CHOICE, log 20, safe: which part. -/
def savePlace (s : State) (st n : Nat) : Option (Nat × Nat) :=
  let used := saveUsed s st
  ((0 :: used.map (fun u => u.1 + u.2)).find? (fun o =>
    decide (o + n ≤ 0x80000000) && used.all (fun u => decide (o + n ≤ u.1 ∨ u.1 + u.2 ≤ o)))).map (fun o => (o, n))

/-- The state of a team fits in the free part of its stack's save region (R176). -/
def fitsSave (s : State) (t : Team) : Bool := (savePlace s (stackOfCore t.core) (saveSize s t)).isSome

/-- Write saved state to its place. -/
def saveAt (s : State) (st : Nat) (p : Option (Nat × Nat)) (bs : List Byte) : State :=
  match p with
  | some (o, _) => { s with mem := putBlock s.mem (saveBase st + o) bs }
  | none => s

/-! ### Asking consumers to stop -/

/-- A team is asked to stop (R173): its waves that stand at a safe point stop there. -/
def stopTeam (s : State) (t : Nat) (migrate : Bool) : State :=
  markStops { s with teams := SMap.modify t (fun x =>
    { x with st := if x.st = .running then .stopping else x.st, migrate := x.migrate || migrate }) s.teams } t

/-- A sequencer program stops at the boundary it stands at (R144, R404): its GETSR words in flight complete, its state is
saved, and what it queued runs again (R433).
DEDUCED, log 20: with no room in the save region its state is kept in place, apart from the sequencer it leaves. -/
def stopOne (s : State) (k : Nat) : State :=
  match SMap.find? s.seqs k with
  | none => s
  | some q =>
    let q := q.gets.foldl (fun (q : Seq) g => q.endGet s.free g) q
    let q := match q.run with
      | some cl => { q with h := cl.h, i := cl.i, run := none }
      | none => q
    let place := savePlace s q.stack progSize
    let s := saveAt s q.stack place (progBytes q)
    { s with seqs := SMap.erase k s.seqs, savedSeqs := s.savedSeqs ++ [{ q with haz := [], place := place }] }

/-- The sequencers of a program's group, or its own (R429). -/
def groupMates (s : State) (k : Nat) : List Nat :=
  match SMap.find? s.seqs k with
  | some q => match q.grp with
    | some g => (groupOf s q.cons.ctx g.key).map (·.1)
    | none => [k]
  | none => []

/-- A program stops, and with it every member of its group (R429). -/
def stopProg (s : State) (k : Nat) : State := (groupMates s k).foldl stopOne s

def stopKern (s : State) (m : Nat) : State := { s with kerns := SMap.modify m (fun k => { k with stop := true }) s.kerns }

/-! ### Victims (R144) -/

/-- A team is running: not every wave of it is parked (R143). -/
def teamRuns (s : State) (t : Team) : Bool :=
  t.waves.any (fun v => match SMap.find? s.waves v with | some w => w.park == .no | none => false)

/-- A running team may be a victim: its state fits in the save region (R144, R176). -/
def teamVictim (s : State) (t : Team) : Bool := t.st == .running && teamRuns s t && fitsSave s t

/-- A running kernel may be a victim: it is not immune, and a save slot of its DRAM stack is left for it (R144, R445). -/
def kernMay (s : State) (m : Nat) (kn : Kern) : Bool :=
  kn.park == .no && !kn.isImmune (s.mclkOf (m / 8)) &&
    decide ((s.savedKerns.filter (fun e => e.1 == m / 8)).length + (s.kerns.filter (fun k => k.1 / 8 == m / 8 && k.2.stop)).length < 4032)

/-- Order of victims: lowest PRIO, then the most recently started. -/
def victimKey (s : State) (k : Cons) : List Nat := [(s.ctx k.ctx).prio, 2 ^ 80 - k.start]

def sortBy {α : Type} (f : α → List Nat) (l : List α) : List α :=
  l.foldl (fun acc x => acc.takeWhile (fun y => !lexLt (f x) (f y)) ++ x :: acc.dropWhile (fun y => !lexLt (f x) (f y))) []

/-- Take victims in order until a place is free; none if no place would come free. -/
def victimsUntil (free_ : State → Bool) (less : State → Nat → State) : State → List Nat → List Nat → Option (List Nat)
  | s, [], took => if free_ s then some took else none
  | s, v :: vs, took => if free_ s then some took else victimsUntil free_ less (less s v) vs (took ++ [v])

/-- The teams to stop for a candidate team: those already on their way out of lower priority count as gone. -/
def teamVictims (s : State) (c : Cand) (sk : Nat) : List Nat :=
  let lower : List (Nat × Team) := s.teams.filter (fun t => decide ((s.ctx t.2.cons.ctx).prio < (s.ctx c.ctx).prio) &&
    (coresFor s c.ctx c.tag sk c.own).contains t.2.core)
  let leaving := lower.filter (fun t => t.2.st == .stopping || t.2.st == .stopped)
  let s' := leaving.foldl (fun s t => without s t.1) s
  let able := lower.filter (fun t => teamVictim s t.2)
  let order := (sortBy (fun (t : Nat × Team) => victimKey s t.2.cons) able).map (·.1)
  (victimsUntil (fun s => (placeFor s c sk).isSome) without s' order []).getD []

/-- The program to stop for a candidate program. -/
def progVictim (s : State) (c : Cand) (sk : Nat) : Option Nat :=
  match launchOf s c.ctx c.tag with
  | none => none
  | some l =>
    let lower := s.seqs.filter (fun q => (clusterSet s l sk).contains q.1 && q.2.park == .no && decide ((s.ctx q.2.cons.ctx).prio < (s.ctx c.ctx).prio))
    match sortBy (fun (q : Nat × Seq) => victimKey s q.2.cons) lower with
    | q :: _ => some q.1
    | [] => none

/-- The kernel to stop for a record, or a kernel to resume, that waits for a moraine core of DRAM stack d (R144, R445). -/
def kernVictim (s : State) (d : Nat) : Option Nat :=
  let starts := ((SMap.get [] s.mdisp d).filter (fun t => runnable s t.ctx && roomFor s t.ctx t.img t.node [t.rcd])).map (·.ctx)
  let backs := (s.savedKerns.filter (fun e => e.1 == d && runnable s e.2.2.cons.ctx)).map (fun e => e.2.2.cons.ctx)
  let waiting := starts ++ backs
  let here := s.kerns.filter (fun k => k.1 / 8 == d)
  let prio := waiting.foldl (fun a c => max a ((s.ctx c).prio + 1)) 0
  if waiting = [] ∨ here.length < 8 ∨ here.any (fun k => k.2.stop && k.2.park == .no && ctxRuns s k.2.cons.ctx) then none
  else
    let lower := here.filter (fun k => decide ((s.ctx k.2.cons.ctx).prio + 1 < prio) && ctxRuns s k.2.cons.ctx && !k.2.stop && kernMay s k.1 k.2)
    match sortBy (fun (k : Nat × Kern) => victimKey s k.2.cons) lower with
    | k :: _ => some k.1
    | [] => none

/-- Stop the work that a candidate's place needs; none where it needs nothing more. -/
def preemptFor (s : State) (c : Cand) (sk : Nat) : Option State :=
  if kindOf s c.ctx c.img c.node = 0 then
    match teamVictims s c sk with
    | [] => none
    | ts => some (ts.foldl (fun s t => stopTeam s t false) s)
  else (progVictim s c sk).map (stopProg s)

/-- PRIORITY_PREEMPTION (R144): the dispatcher of stack sk, and its moraine dispatchers, stop work of lower priority for
the first, in the order of R131, of those that wait for a place only and whose place needs a victim. -/
def execPriorityPreemption (sk : Nat) (s : State) : Host.Outcome State Fault Refusal :=
  let cs := sortBy (fun (c : Cand) => orderKey s c.ctx c.node c.recs) (wants s sk)
  let s := (cs.findSome? (fun c => preemptFor s c sk)).getD s
  .next ([2 * sk, 2 * sk + 1].foldl (fun s d => match kernVictim s d with
    | some m => stopKern s m
    | none => s) s)

/-! ### Teams that have stopped (R173, R174) -/

/-- Every wave has stopped, and nothing it issued but long operations is unfinished. -/
def allStopped (s : State) (t : Team) : Bool :=
  t.waves.all (fun v => match SMap.find? s.waves v with
    | some wv => wv.stopped && wv.run.isNone && wv.ops.all (fun o => match o.kind with | .long _ => true | _ => false)
    | none => true)

/-- A team is pre-empted: its long operations are captured (R174, R180), and no monitor of its waves is left, since what
would release them is not replayed (R177). A migration with no room to be written waits (R176). -/
def teamStopped (s : State) (t : Nat) (x : Team) : State :=
  let ls : List LongOp := s.longs.map (fun l => if l.team = t then { l with captured := true } else l)
  let s := { s.setTeam t { x with st := .stopped } with longs := ls, mons := s.mons.filter (fun m => !x.waves.contains m.wave) }
  if x.migrate ∧ !fitsSave s x then halfSpeed s x.core else s

/-- TEAM_STOP (R173). -/
def execTeamStop (s : State) : Host.Outcome State Fault Refusal :=
  .next (s.teams.foldl (fun s t =>
    let s := markStops s t.1
    match SMap.find? s.teams t.1 with
    | some x => if x.st = .stopping ∧ allStopped s x then teamStopped s t.1 x else s
    | none => s) s)

/-- A fence of DEVICE scope of a team's threads (R211): its releases complete, and its core's writes go home. -/
def fenceTeam (s : State) (x : Team) : State :=
  let s := x.waves.foldl (fun s v => match SMap.find? s.waves v with | some wv => settleFences s v wv | none => s) s
  releaseAs s x.core (reportOf x.cons.ctx (unitOfCore x.core) ((x.waves.headD 0) % 48) 0 (.of 0 0 0))

/-- A pre-empted team is written to the save region of its stack: its waves leave the core, and a throttle set for its
migration is lifted (R145). -/
def writeTeam (s : State) (t : Nat) (x : Team) : State :=
  let s := fenceTeam s x
  let saved := x.waves.filterMap (fun v => (SMap.find? s.waves v).map (fun w => (v, w)))
  let place := savePlace s (stackOfCore x.core) (saveSize s x)
  let s := saveAt s (stackOfCore x.core) place (teamBytes s x (saved.map (·.2)))
  let s := if x.migrate then liftThrottle s t x.core else s
  { s with waves := s.waves.filter (fun w => !x.waves.contains w.1) }.setTeam t
    { x with st := .written, waves := [], saved := saved, region := none, place := place }

/-- TEAM_WRITE_OUT (R176): the place of a pre-empted team is needed by a start of a higher priority, or it migrates. A
migration that finds no room waits, as does a team whose writes a retraining link holds up (R29). -/
def execTeamWriteOut (t : Nat) (s : State) : Host.Outcome State Fault Refusal :=
  match SMap.find? s.teams t with
  | none => .next s
  | some x =>
    if x.st ≠ .stopped ∨ !(x.migrate || needed s x) then .next s
    else if !fitsSave s x then .next (if x.migrate then halfSpeed s x.core else s)
    else if releaseWaits s x.core then .next s
    else .next (writeTeam s t x)

/-! ### Resumption (R175, R177) -/

/-- Registers outside the save set are zero after resumption; the window's entries are kept (R169, R175).
DEDUCED, log 20, unsafe: the rest reads 0. -/
def keepSaved (s : State) (wv : Wave) : Wave :=
  match imageOf s wv.ctx wv.img, nodeOf s wv.ctx wv.img wv.node with
  | some im, some nd =>
    match saveSet im wv with
    | none => wv
    | some (vl, wl) =>
      let window (r : Nat) : Bool := !wv.access && decide (nd.qbase ≤ r ∧ r < nd.qbase + nd.qlen)
      { wv with v := wv.v.filter (fun e => vl.getLsbD (e.1 / 64) || window (e.1 / 64))
                w := wv.w.filter (fun e => wl.getLsbD e.1) }
  | _, _ => wv

/-- A wave as it becomes ready again on core g (R151, R177), its slots renamed; threads that slept on a line are woken
(R318). -/
def wakeWave (s : State) (g : Nat) (ren : Nat → Nat) (res : Res) (wv : Wave) : Wave :=
  { keepSaved s wv with
    pcs := wv.pcs.map (fun p => match p.2.wait with
      | some (.line _ _) => (p.1, { p.2 with wait := none })
      | _ => p)
    pair := wv.pair.map ren, res := res, readySince := s.aclk, notReadySince := s.aclk, haz := [], cyc := coreEdges s g,
    begun := s.aclk, yieldTo := none, stopped := false, keySince := none }

/-- A team resumes (R177): in place, or in the lowest free slots of a core, where it begins with a fence of DEVICE scope
(R211). -/
def teamBack (s : State) (t g : Nat) (x : Team) (nd : NodeInfo) : State :=
  let olds : List (Nat × Wave) := if x.st = .written then x.saved else
    x.waves.filterMap (fun v => (SMap.find? s.waves v).map (fun w => (v, w)))
  let news := if x.st = .written then (freeSlots s g).take olds.length else olds.map (·.1)
  let table := (olds.map (·.1)).zip news
  let ren (v : Nat) : Nat := match List.find? (fun e => e.1 == v) table with | some e => e.2 | none => v
  let region := if x.st = .written then freeRegion s g nd.loc else x.region
  let s := if x.st = .written then l1Clear (setCarve s g nd.loc) g else s
  let semq := x.semq.map (fun q => (q.1, q.2.map (fun w => (w.1, ren w.2.1, w.2.2))))
  let x' : Team := { x with core := g, waves := news, semq := semq, region := region, st := .running, migrate := false, saved := [], place := none }
  let s := olds.foldl (fun s w =>
    let res := if x.st = .written then startRes s g nd w.2.access else w.2.res
    s.setWave (ren w.1) (wakeWave s g ren res w.2)) (s.setTeam t x')
  let ls : List LongOp := s.longs.map (fun l => if l.team = t then { l with captured := false, wave := ren l.wave } else l)
  let tr : List Transit := s.transit.map (fun r => if r.src ≥ 0x10000 ∧ r.src < 0x20000 ∧ r.ctx = x.cons.ctx ∧ x.st = .written
    then { r with src := 0x10000 + ren (r.src - 0x10000) } else r)
  { s with longs := ls, transit := tr }

/-- A program resumes on a free sequencer of its stack, and with it every member of its group (R429, R433). -/
def progBack (s : State) (i : Nat) : State :=
  match s.savedSeqs[i]? with
  | none => s
  | some q =>
    let mates := savedGroup s q
    match groupPlaces s mates [] with
    | none => s
    | some ks =>
      let s := { s with savedSeqs := (s.savedSeqs.zipIdx.filter (fun p => !mates.any (fun m => m.2 == p.2))).map (·.1) }
      (mates.zip ks).foldl (fun s m => s.setSeq m.2 { m.1.1 with cyc := s.aclk, place := none }) s

/-- CONSUMER_RESUME (R144, R177): the first of the moves of stack sk, where that is a resumption; a core whose writes a
retraining link holds up waits (R29). -/
def execConsumerResume (sk : Nat) (s : State) : Host.Outcome State Fault Refusal :=
  match bestMove (movesOf s sk) with
  | some (.teamBack t g) =>
    match SMap.find? s.teams t with
    | some x => match nodeOf s x.cons.ctx x.cons.img x.cons.node with
      | some nd => .next (if x.st = .written ∧ releaseWaits s g then s else teamBack s t g x nd)
      | none => .next s
    | none => .next s
  | some (.progBack i _) => .next (progBack s i)
  | _ => .next s

/-! ### Budgets (R143) -/

/-- A context has a budget with a limit (R60). -/
def Ctx.limited (x : Ctx) : Bool := decide (x.period ≠ 0 ∧ x.slice ≠ 0 ∧ x.slice < x.period)

/-- A consumer of the context is running: neither parked, pre-empted nor waiting to start (R143). -/
def running (s : State) (c : Nat) : Bool :=
  s.teams.any (fun t => t.2.cons.ctx == c && (t.2.st == .running || t.2.st == .stopping) &&
    teamRuns s t.2) ||
  s.seqs.any (fun q => q.2.cons.ctx == c && q.2.park == .no) ||
  s.kerns.any (fun k => k.2.cons.ctx == c && k.2.park == .no) ||
  s.engines.any (fun e => e.2.ready.any (fun r => r.1.ctx == c)) ||
  s.vencs.any (fun v => v.2.park == .no && (match v.2.cur with | some f => f.cons.ctx == c | none => false))

/-- Every running consumer of a context that may be a victim is pre-empted (R144, R176, R445). -/
def stopAll (s : State) (c : Nat) : State :=
  let s := (s.teams.filter (fun t => t.2.cons.ctx == c && teamVictim s t.2)).foldl (fun s t => stopTeam s t.1 false) s
  let s := (s.seqs.filter (fun q => q.2.cons.ctx == c && q.2.park == .no)).foldl (fun s q => stopProg s q.1) s
  (s.kerns.filter (fun k => k.2.cons.ctx == c && !k.2.stop)).foldl (fun s k => if kernMay s k.1 k.2 then stopKern s k.1 else s) s

/-- The intervals of 2,048 HCLK that have ended, from the one the charge stands at up to interval hi, in which a consumer
ran, when one has run (or not) ever since the last move. -/
def ranIn (x : Ctx) (r : Bool) (hi : Nat) : Nat :=
  if hi ≤ x.lastInt then 0 else (if x.ran || r then 1 else 0) + (if r then hi - x.lastInt - 1 else 0)

/-- The budget of one context up to now (R143): each interval that has ended with a consumer running in it is charged; a new
period restarts the count and clears BUDGET_EXHAUSTED; when the count reaches SLICE, it is set, and while it is the context's
consumers are pre-empted (R144). -/
def chargeCtx (s : State) (c : Nat) : State :=
  let x := s.ctx c
  let n := s.hclk / 2048
  let r := running s c
  if x.period = 0 then (if x.budgetOut then s.setCtx c { x with budgetOut := false } else s)
  else if n ≤ x.lastInt then
    let s := if x.limited && r && !x.ran then s.setCtx c { x with ran := true } else s
    if x.budgetOut then stopAll s c else s
  else
    let k := n / x.period * x.period
    let e := (x.lastInt / x.period + 1) * x.period
    let new := decide (x.lastInt < k)
    let old := x.charged + ranIn x r (min n e)
    let charged := if !x.limited then (if new then 0 else x.charged) else if new then (if r then n - k else 0) else old
    let spent := x.limited && (decide (x.slice ≤ old) || decide (x.slice ≤ charged) || (new && r && decide (e < k)))
    let out := (!new && x.budgetOut) || (x.limited && decide (x.slice ≤ charged))
    let s := s.setCtx c { x with ran := r, lastInt := n, charged := charged, budgetOut := out }
    if out || (spent && !x.budgetOut) then stopAll s c else s

/-- Every budget up to now. -/
def chargeAll (s : State) : State := s.ctxs.foldl (fun s c => chargeCtx s c.1) s

/-- BUDGET_CHARGE and BUDGET_PERIOD_START (R143).
DEDUCED, log 36: every step charges what time has passed, so that a budget is behind only in states no step reaches. -/
def execBudgetCharge (s : State) : Host.Outcome State Fault Refusal := .next (chargeAll s)
def execBudgetPeriodStart (s : State) : Host.Outcome State Fault Refusal := .next (chargeAll s)

/-! ### Thermal migration (R145) -/

/-- THERMAL_MIGRATION (R145): firmware takes the action (R78): a team is moved off its core. It stops at its next safe
point; while a region or a full save region holds it, the core runs at 1/2; a region's deferral is reported. -/
def execThermalMigration (t : Nat) (s : State) : Host.Outcome State Fault Refusal :=
  match SMap.find? s.teams t with
  | none => .next s
  | some x =>
    if (x.st ≠ .running ∧ x.st ≠ .stopping) ∨ x.migrate then .next s
    else
      let s' := (stopTeam s t true).err 5
      if teamInRegion s x then .next ((halfSpeed s' x.core).err 8)
      else if !fitsSave s x then .next (halfSpeed s' x.core) else .next s'

/-- QUARTER_THROTTLE (R145, R176): the die reaches 100 °C while a team of core g still waits, in a region or for room in the
save region. -/
def execQuarterThrottle (g : Nat) (s : State) : Host.Outcome State Fault Refusal :=
  if SMap.get 1 s.ratio g = 2 ∧ s.teams.any (fun t => t.2.core == g && t.2.migrate && (t.2.st == .stopping || t.2.st == .stopped)) then
    .next ((throttle s g 4).err 5)
  else .next s

end Sys2Proof.Machine
end

