-- ==== Sys2Proof/Machine/Sequencer.lean ====
section
/-!
DEFINITION. The scalar words of a matrix sequencer (R409, R410).
-/

namespace Sys2Proof.Machine

/-- A scalar word with two sources. -/
def sword2 (s : State) (w : VWord) (f : DWord → DWord → DWord) : Host.Outcome State Fault Refusal :=
  onSeq s fun x =>
    checkedSeq s x [(.q, true, w.d), (.val, false, w.a), (.val, false, w.b)] none
      (s.setSeq x.k (x.sq.putQ w.d.toNat (f (seqRead s x.k x.sq w.a) (seqRead s x.k x.sq w.b))))

def execSadd (w : VWord) (s : State) : Host.Outcome State Fault Refusal := sword2 s w (· + ·)
def execSsub (w : VWord) (s : State) : Host.Outcome State Fault Refusal := sword2 s w (· - ·)
def execSmul (w : VWord) (s : State) : Host.Outcome State Fault Refusal := sword2 s w (· * ·)
def execSand (w : VWord) (s : State) : Host.Outcome State Fault Refusal := sword2 s w (· &&& ·)
def execSor (w : VWord) (s : State) : Host.Outcome State Fault Refusal := sword2 s w (· ||| ·)
def execSxor (w : VWord) (s : State) : Host.Outcome State Fault Refusal := sword2 s w (· ^^^ ·)

/-- Shifts with the count taken whole: 0 from 64 on. -/
def sshl (a b : DWord) : DWord := if b.toNat < 64 then a <<< b.toNat else 0
def sshr (a b : DWord) : DWord := if b.toNat < 64 then a >>> b.toNat else 0

def execSshl (w : VWord) (s : State) : Host.Outcome State Fault Refusal := sword2 s w sshl
def execSshr (w : VWord) (s : State) : Host.Outcome State Fault Refusal := sword2 s w sshr

def execSmov (w : VWord) (s : State) : Host.Outcome State Fault Refusal :=
  onSeq s fun x =>
    checkedSeq s x [(.q, true, w.d), (.val, false, w.a)] none
      (s.setSeq x.k (x.sq.putQ w.d.toNat (seqRead s x.k x.sq w.a)))

def execSmovi (w : LWord) (s : State) : Host.Outcome State Fault Refusal :=
  onSeq s fun x =>
    checkedSeq s x [(.q, true, w.d)] none (s.setSeq x.k (x.sq.putQ w.d.toNat (w.imm.signExtend 64)))

def execScmp (cc : SCmp) (w : VWord) (s : State) : Host.Outcome State Fault Refusal :=
  sword2 s w (fun a b => if SCmp.holds cc a b then 1 else 0)

/-- SBR.Z and SBR.NZ (R409). -/
def sbr (nz : Bool) (w : CWord) (s : State) : Host.Outcome State Fault Refusal :=
  onSeq s fun x =>
    let q := seqRead s x.k x.sq w.d
    checkedSeq s x [(.q, false, w.d)] none
      (if (q ≠ 0) = (nz = true) then branchSeq s x (relTarget x.cl.h w.off) id else s)

def execSbrZ (w : CWord) (s : State) : Host.Outcome State Fault Refusal := sbr false w s
def execSbrNz (w : CWord) (s : State) : Host.Outcome State Fault Refusal := sbr true w s

/-- SEXIT (R410): waits for the queue and the tiles; the program exits, and its record retires (R138). -/
def execSexit (_ : VWord) (s : State) : Host.Outcome State Fault Refusal :=
  onSeq s fun x =>
    if x.sq.queue ≠ [] ∨ x.sq.tst.any (fun t => t.2 != .empty) then s.waitIssue
    else consumerDone { s with seqs := SMap.erase x.k s.seqs } x.sq.cons

end Sys2Proof.Machine
end

