-- ==== Sys2Proof/Machine/Vertical.lean ====
section
/-!
DEFINITION. Vertical submissions (R253, R255, R396-R399): TEX words enter the core's sampler FIFO with every operand value;
TRAV.RESUME appends traversal records.
-/

namespace Sys2Proof.Machine

/-- Room in a core's sampler FIFO; a core sends only while its die is in RUN (R45, R255). -/
def samplerRoom (s : State) (g : Nat) : Bool := (s.die (stackOfCore g)).st == .run && decide ((s.vq g).tex.length < 16)

/-- A TEX word (R398): form 0 SAMPLE.L, 1 SAMPLE.G, 2 LOAD, 3 GATHER; n coordinate registers. Its quad is in flight with
values that the sampler sets. -/
def texWord (form ch n : Nat) (w : VWord) (s : State) : Host.Outcome State Fault Refusal :=
  onWave s w.msel fun x =>
    let ops : List (OpKind2 × BitVec 9) :=
      [(.vDst 4 4, w.d), (.uniPair, w.a)] ++ (if form = 2 then [] else [(.uniPair, w.b)]) ++ [(.vSrc n, w.c)]
    checked s x ops 1000 none
      (if x.e = 0 then s
       else if tokenFull x.wv w.token ∨ !samplerRoom s (coreOfWave x.v) then s.waitIssue
       else
        let g := coreOfWave x.v
        let lanes := (lanesOf x.e).map (fun l => (l, (List.range n).map (fun j => readV s x.wv (w.c.toNat + j) l)))
        let ta := readUniPair s x.v x.wv w.a
        let sa := if form = 2 then 0 else readUniPair s x.v x.wv w.b
        let it := EItem.tex x.v s.nextId x.cl.h form ch ta sa (s.ctx x.wv.ctx).filter x.wv.ctx lanes w.d.toNat s.aclk
        let q := s.vq g
        let regs := (List.range 4).flatMap (fun j => regWrites (w.d + BitVec.ofNat 9 j) x.e (fun _ => 0))
        launchOp (setVq s g { q with tex := q.tex ++ [it] }) x.v w.token .tex regs)

/-- TEX.SAMPLE.L and TEX.SAMPLE.G (MOD selects the form, R396). -/
def execTexSample (w : VWord) (s : State) : Host.Outcome State Fault Refusal :=
  if w.mod0 then texWord 1 0 7 w s else texWord 0 0 4 w s

def execTexLoad (w : VWord) (s : State) : Host.Outcome State Fault Refusal := texWord 2 0 4 w s
def execTexGather (w : VWord) (s : State) : Host.Outcome State Fault Refusal := texWord 3 (w.mod.toNat % 4) 3 w s

/-- The checks of TRAV.RESUME (R399). -/
def resumeFault (s : State) (x : WCtx) (k : Cons) (port : Nat) : Option FaultInfo :=
  if x.e = 0 then none
  else match portEdge s k.ctx k.img k.node port with
  | none => some (.of fEmitOverrun port x.e)
  | some e =>
    if e.cont ∨ kindOf s k.ctx k.img e.dst ≠ 2 then some (.of fContPort port x.e)
    else if SMap.get 0 k.resv port < (lanesOf x.e).length then some (.of fEmitOverrun port x.e)
    else none

/-- A lane's 256-byte record with STATE set to RESUME. -/
def resumeWords (s : State) (x : WCtx) (a l : Nat) : List Word :=
  (List.range 64).map (fun j =>
    let v := readV s x.wv (a + j) l
    if j = 26 then (v &&& 0xFFFF00FF) ||| 0x200 else v)

/-- TRAV.RESUME (R399). -/
def execTravResume (w : VWord) (s : State) : Host.Outcome State Fault Refusal :=
  onAppend s w.msel fun x =>
    let port := w.b.toNat - 0x180
    match teamOf s x.wv with
    | none => s
    | some t =>
      checked s x [(.vSrc 64, w.a), (.codes ((List.range 16).map (· + 0x180)), w.b)] 1000 (resumeFault s x t.cons port)
        (if x.e = 0 then s
         else if tokenFull x.wv w.token then s.waitIssue
         else appendWord s x t.cons (laneAppends x port (resumeWords s x w.a.toNat)) (fun s => launchStore s x.v w.token))

end Sys2Proof.Machine
end

