-- ==== Sys2Proof/Machine/Dispatch.lean ====
section
/-!
DEFINITION. The meaning of every instruction: one arm for each constructor of Instr, one call of its meaning.
-/

namespace Sys2Proof.Machine

def exec (i : Instr) (s : State) : Host.Outcome State Fault Refusal :=
  match i with
  | .dieResetFoundation n => Sys2Proof.Machine.execDieResetFoundation n s
  | .dieResetCompute n => Sys2Proof.Machine.execDieResetCompute n s
  | .drainComplete d => Sys2Proof.Machine.execDrainComplete d s
  | .initComplete d => Sys2Proof.Machine.execInitComplete d s
  | .linkFlitRetry l exhausted => Sys2Proof.Machine.execLinkFlitRetry l exhausted s
  | .linkRetrainDone l => Sys2Proof.Machine.execLinkRetrainDone l s
  | .aclkPointChange p => Sys2Proof.Machine.execAclkPointChange p s
  | .thermalAction d => Sys2Proof.Machine.execThermalAction d s
  | .thermalTrip d => Sys2Proof.Machine.execThermalTrip d s
  | .attestationRequest t => Sys2Proof.Machine.execAttestationRequest t s
  | .registerWrite w => Sys2Proof.Machine.execRegisterWrite w s
  | .apertureRead o n => Sys2Proof.Machine.execApertureRead o n s
  | .apertureWrite o bs => Sys2Proof.Machine.execApertureWrite o bs s
  | .ringDoorbell w => Sys2Proof.Machine.execRingDoorbell w s
  | .clockLockAcquire c => Sys2Proof.Machine.execClockLockAcquire c s
  | .ctxEnable w => Sys2Proof.Machine.execCtxEnable w s
  | .ctxDisable w => Sys2Proof.Machine.execCtxDisable w s
  | .stop c => Sys2Proof.Machine.execStop c s
  | .abort c => Sys2Proof.Machine.execAbort c s
  | .replay c => Sys2Proof.Machine.execReplay c s
  | .tlbInvalidate w => Sys2Proof.Machine.execTlbInvalidate w s
  | .flogRdWrite w => Sys2Proof.Machine.execFlogRdWrite w s
  | .flogConfigWrite w => Sys2Proof.Machine.execFlogConfigWrite w s
  | .faultReport j => Sys2Proof.Machine.execFaultReport j s
  | .displayEnable w => Sys2Proof.Machine.execDisplayEnable w s
  | .displayDisable w => Sys2Proof.Machine.execDisplayDisable w s
  | .displayVblank h => Sys2Proof.Machine.execDisplayVblank h s
  | .displayScanoutFrame h => Sys2Proof.Machine.execDisplayScanoutFrame h s
  | .videoSessionEnable w => Sys2Proof.Machine.execVideoSessionEnable w s
  | .videoFrame n => Sys2Proof.Machine.execVideoFrame n s
  | .launchRead c => Sys2Proof.Machine.execLaunchRead c s
  | .graphUnload c tag => Sys2Proof.Machine.execGraphUnload c tag s
  | .graphRetire c tag => Sys2Proof.Machine.execGraphRetire c tag s
  | .entryFeedRecord c tag => Sys2Proof.Machine.execEntryFeedRecord c tag s
  | .recordArrival j => Sys2Proof.Machine.execRecordArrival j s
  | .halfMap q sk => Sys2Proof.Machine.execHalfMap q sk s
  | .halfMappingDone q sk => Sys2Proof.Machine.execHalfMappingDone q sk s
  | .halfEvictDone q sk => Sys2Proof.Machine.execHalfEvictDone q sk s
  | .farSegmentMoveIn q sk => Sys2Proof.Machine.execFarSegmentMoveIn q sk s
  | .teamStart sk => Sys2Proof.Machine.execTeamStart sk s
  | .batchSteal sk q => Sys2Proof.Machine.execBatchSteal sk q s
  | .conditionalDelivery c tag n => Sys2Proof.Machine.execConditionalDelivery c tag n s
  | .priorityPreemption sk => Sys2Proof.Machine.execPriorityPreemption sk s
  | .teamWriteOut t => Sys2Proof.Machine.execTeamWriteOut t s
  | .consumerResume sk => Sys2Proof.Machine.execConsumerResume sk s
  | .thermalMigration t => Sys2Proof.Machine.execThermalMigration t s
  | .clauseSelect g p => Sys2Proof.Machine.execClauseSelect g p s
  | .wavePark v => Sys2Proof.Machine.execWavePark v s
  | .waveRecall v => Sys2Proof.Machine.execWaveRecall v s
  | .pageWalk j => Sys2Proof.Machine.execPageWalk j s
  | .tokenComplete u j => Sys2Proof.Machine.execTokenComplete u j s
  | .qwinEntryReady v => Sys2Proof.Machine.execQwinEntryReady v s
  | .longOperationCommit j => Sys2Proof.Machine.execLongOperationCommit j s
  | .waitlineWake v l => Sys2Proof.Machine.execWaitlineWake v l s
  | .texOperation k => Sys2Proof.Machine.execTexOperation k s
  | .rasterTriangle k => Sys2Proof.Machine.execRasterTriangle k s
  | .traversalOperation k => Sys2Proof.Machine.execTraversalOperation k s
  | .sequencerProgramStart sk => Sys2Proof.Machine.execSequencerProgramStart sk s
  | .matrixOpCommit k => Sys2Proof.Machine.execMatrixOpCommit k s
  | .moraineKernelStart d => Sys2Proof.Machine.execMoraineKernelStart d s
  | .moraineSpanCommit m => Sys2Proof.Machine.execMoraineSpanCommit m s
  | .moraineKernelStop m => Sys2Proof.Machine.execMoraineKernelStop m s
  | .moraineKernelResume d => Sys2Proof.Machine.execMoraineKernelResume d s
  | .bra w => Sys2Proof.Machine.execBra w s
  | .call w => Sys2Proof.Machine.execCall w s
  | .brx w => Sys2Proof.Machine.execBrx w s
  | .ret w => Sys2Proof.Machine.execRet w s
  | .nop w => Sys2Proof.Machine.execNop w s
  | .yield w => Sys2Proof.Machine.execYield w s
  | .mset w => Sys2Proof.Machine.execMset w s
  | .mand w => Sys2Proof.Machine.execMand w s
  | .mor w => Sys2Proof.Machine.execMor w s
  | .mxor w => Sys2Proof.Machine.execMxor w s
  | .mnot w => Sys2Proof.Machine.execMnot w s
  | .mcpy w => Sys2Proof.Machine.execMcpy w s
  | .mbal w => Sys2Proof.Machine.execMbal w s
  | .join w => Sys2Proof.Machine.execJoin w s
  | .leave w => Sys2Proof.Machine.execLeave w s
  | .waitm w => Sys2Proof.Machine.execWaitm w s
  | .bar w => Sys2Proof.Machine.execBar w s
  | .semsig w => Sys2Proof.Machine.execSemsig w s
  | .semwait w => Sys2Proof.Machine.execSemwait w s
  | .waitline w => Sys2Proof.Machine.execWaitline w s
  | .npenter w => Sys2Proof.Machine.execNpenter w s
  | .npleave w => Sys2Proof.Machine.execNpleave w s
  | .qapp w => Sys2Proof.Machine.execQapp w s
  | .qrsv w => Sys2Proof.Machine.execQrsv w s
  | .recld w => Sys2Proof.Machine.execRecld w s
  | .qpop w => Sys2Proof.Machine.execQpop w s
  | .postr w => Sys2Proof.Machine.execPostr w s
  | .exitW w => Sys2Proof.Machine.execExitW w s
  | .exitC w => Sys2Proof.Machine.execExitC w s
  | .iadd w => Sys2Proof.Machine.execIadd w s
  | .isub w => Sys2Proof.Machine.execIsub w s
  | .imul w => Sys2Proof.Machine.execImul w s
  | .imulh w => Sys2Proof.Machine.execImulh w s
  | .imad w => Sys2Proof.Machine.execImad w s
  | .imin w => Sys2Proof.Machine.execImin w s
  | .imax w => Sys2Proof.Machine.execImax w s
  | .iabs w => Sys2Proof.Machine.execIabs w s
  | .shl w => Sys2Proof.Machine.execShl w s
  | .shr w => Sys2Proof.Machine.execShr w s
  | .sar w => Sys2Proof.Machine.execSar w s
  | .rot w => Sys2Proof.Machine.execRot w s
  | .andB w => Sys2Proof.Machine.execAndB w s
  | .orB w => Sys2Proof.Machine.execOrB w s
  | .xorB w => Sys2Proof.Machine.execXorB w s
  | .notB w => Sys2Proof.Machine.execNotB w s
  | .bfe w => Sys2Proof.Machine.execBfe w s
  | .bfi w => Sys2Proof.Machine.execBfi w s
  | .popc w => Sys2Proof.Machine.execPopc w s
  | .clz w => Sys2Proof.Machine.execClz w s
  | .brev w => Sys2Proof.Machine.execBrev w s
  | .icmp cc w => Sys2Proof.Machine.execIcmp cc w s
  | .sel w => Sys2Proof.Machine.execSel w s
  | .mov w => Sys2Proof.Machine.execMov w s
  | .movi w => Sys2Proof.Machine.execMovi w s
  | .aadd64 w => Sys2Proof.Machine.execAadd64 w s
  | .amad64 w => Sys2Proof.Machine.execAmad64 w s
  | .fadd w => Sys2Proof.Machine.execFadd w s
  | .fsub w => Sys2Proof.Machine.execFsub w s
  | .fmul w => Sys2Proof.Machine.execFmul w s
  | .ffma w => Sys2Proof.Machine.execFfma w s
  | .fmin w => Sys2Proof.Machine.execFmin w s
  | .fmax w => Sys2Proof.Machine.execFmax w s
  | .fcmp cc w => Sys2Proof.Machine.execFcmp cc w s
  | .frcp w => Sys2Proof.Machine.execFrcp w s
  | .frsq w => Sys2Proof.Machine.execFrsq w s
  | .fsqrt w => Sys2Proof.Machine.execFsqrt w s
  | .fexp2 w => Sys2Proof.Machine.execFexp2 w s
  | .flog2 w => Sys2Proof.Machine.execFlog2 w s
  | .fsin w => Sys2Proof.Machine.execFsin w s
  | .fcos w => Sys2Proof.Machine.execFcos w s
  | .ffrc w => Sys2Proof.Machine.execFfrc w s
  | .frnd w => Sys2Proof.Machine.execFrnd w s
  | .dadd w => Sys2Proof.Machine.execDadd w s
  | .dmul w => Sys2Proof.Machine.execDmul w s
  | .dfma w => Sys2Proof.Machine.execDfma w s
  | .cvt w => Sys2Proof.Machine.execCvt w s
  | .cvtlg w => Sys2Proof.Machine.execCvtlg w s
  | .cvtln w => Sys2Proof.Machine.execCvtln w s
  | .shflIdx w => Sys2Proof.Machine.execShflIdx w s
  | .shflUp w => Sys2Proof.Machine.execShflUp w s
  | .shflDown w => Sys2Proof.Machine.execShflDown w s
  | .shflXor w => Sys2Proof.Machine.execShflXor w s
  | .bcast w => Sys2Proof.Machine.execBcast w s
  | .redx op w => Sys2Proof.Machine.execRedx op w s
  | .scanx op w => Sys2Proof.Machine.execScanx op w s
  | .vldx w => Sys2Proof.Machine.execVldx w s
  | .vstx w => Sys2Proof.Machine.execVstx w s
  | .xset w => Sys2Proof.Machine.execXset w s
  | .ld z w => Sys2Proof.Machine.execLd z w s
  | .st z w => Sys2Proof.Machine.execSt z w s
  | .ldl z w => Sys2Proof.Machine.execLdl z w s
  | .stl z w => Sys2Proof.Machine.execStl z w s
  | .lda z w => Sys2Proof.Machine.execLda z w s
  | .strl z w => Sys2Proof.Machine.execStrl z w s
  | .atom op o w => Sys2Proof.Machine.execAtom op o w s
  | .red op w => Sys2Proof.Machine.execRed op w s
  | .fredC2 w => Sys2Proof.Machine.execFredC2 w s
  | .fence w => Sys2Proof.Machine.execFence w s
  | .fissue w => Sys2Proof.Machine.execFissue w s
  | .fwait w => Sys2Proof.Machine.execFwait w s
  | .falias w => Sys2Proof.Machine.execFalias w s
  | .fpath w => Sys2Proof.Machine.execFpath w s
  | .acopyGl w => Sys2Proof.Machine.execAcopyGl w s
  | .acopyLg w => Sys2Proof.Machine.execAcopyLg w s
  | .cwait w => Sys2Proof.Machine.execCwait w s
  | .cfence w => Sys2Proof.Machine.execCfence w s
  | .tcopy w => Sys2Proof.Machine.execTcopy w s
  | .rlockSrc w => Sys2Proof.Machine.execRlockSrc w s
  | .rlockDst w => Sys2Proof.Machine.execRlockDst w s
  | .runlock w => Sys2Proof.Machine.execRunlock w s
  | .pref w => Sys2Proof.Machine.execPref w s
  | .texSample w => Sys2Proof.Machine.execTexSample w s
  | .texLoad w => Sys2Proof.Machine.execTexLoad w s
  | .texGather w => Sys2Proof.Machine.execTexGather w s
  | .travResume w => Sys2Proof.Machine.execTravResume w s
  | .tfeed w => Sys2Proof.Machine.execTfeed w s
  | .ttake w => Sys2Proof.Machine.execTtake w s
  | .tld w => Sys2Proof.Machine.execTld w s
  | .tst w => Sys2Proof.Machine.execTst w s
  | .mma w => Sys2Proof.Machine.execMma w s
  | .mzero w => Sys2Proof.Machine.execMzero w s
  | .mscale w => Sys2Proof.Machine.execMscale w s
  | .mcoopJoin w => Sys2Proof.Machine.execMcoopJoin w s
  | .mcoopSync w => Sys2Proof.Machine.execMcoopSync w s
  | .mcoopLeave w => Sys2Proof.Machine.execMcoopLeave w s
  | .mdrain w => Sys2Proof.Machine.execMdrain w s
  | .mdrainLg w => Sys2Proof.Machine.execMdrainLg w s
  | .msync w => Sys2Proof.Machine.execMsync w s
  | .mwait w => Sys2Proof.Machine.execMwait w s
  | .sadd w => Sys2Proof.Machine.execSadd w s
  | .ssub w => Sys2Proof.Machine.execSsub w s
  | .smul w => Sys2Proof.Machine.execSmul w s
  | .sand w => Sys2Proof.Machine.execSand w s
  | .sor w => Sys2Proof.Machine.execSor w s
  | .sxor w => Sys2Proof.Machine.execSxor w s
  | .sshl w => Sys2Proof.Machine.execSshl w s
  | .sshr w => Sys2Proof.Machine.execSshr w s
  | .smov w => Sys2Proof.Machine.execSmov w s
  | .smovi w => Sys2Proof.Machine.execSmovi w s
  | .scmp cc w => Sys2Proof.Machine.execScmp cc w s
  | .sbrZ w => Sys2Proof.Machine.execSbrZ w s
  | .sbrNz w => Sys2Proof.Machine.execSbrNz w s
  | .sexit w => Sys2Proof.Machine.execSexit w s
  | .trap w => Sys2Proof.Machine.execTrap w s
  | .brk w => Sys2Proof.Machine.execBrk w s
  | .snapt w => Sys2Proof.Machine.execSnapt w s
  | .getsr w => Sys2Proof.Machine.execGetsr w s
  | .setsr w => Sys2Proof.Machine.execSetsr w s
  | .vldS w => Sys2Proof.Machine.execVldS w s
  | .vstS w => Sys2Proof.Machine.execVstS w s
  | .vldG w => Sys2Proof.Machine.execVldG w s
  | .vstG w => Sys2Proof.Machine.execVstG w s
  | .kld w => Sys2Proof.Machine.execKld w s
  | .kst w => Sys2Proof.Machine.execKst w s
  | .viadd w => Sys2Proof.Machine.execViadd w s
  | .visub w => Sys2Proof.Machine.execVisub w s
  | .vimul w => Sys2Proof.Machine.execVimul w s
  | .vfadd w => Sys2Proof.Machine.execVfadd w s
  | .vfmul w => Sys2Proof.Machine.execVfmul w s
  | .vfma w => Sys2Proof.Machine.execVfma w s
  | .vcmp w => Sys2Proof.Machine.execVcmp w s
  | .vred w => Sys2Proof.Machine.execVred w s
  | .vcvt w => Sys2Proof.Machine.execVcvt w s
  | .vmov w => Sys2Proof.Machine.execVmov w s
  | .vsplat w => Sys2Proof.Machine.execVsplat w s
  | .vsel w => Sys2Proof.Machine.execVsel w s
  | .vlogic w => Sys2Proof.Machine.execVlogic w s
  | .viota w => Sys2Proof.Machine.execViota w s
  | .plogic w => Sys2Proof.Machine.execPlogic w s
  | .kalu w => Sys2Proof.Machine.execKalu w s
  | .kaddi w => Sys2Proof.Machine.execKaddi w s
  | .kmovi w => Sys2Proof.Machine.execKmovi w s
  | .kget w => Sys2Proof.Machine.execKget w s
  | .br w => Sys2Proof.Machine.execBr w s
  | .bz w => Sys2Proof.Machine.execBz w s
  | .bnz w => Sys2Proof.Machine.execBnz w s
  | .bp w => Sys2Proof.Machine.execBp w s
  | .mqapp w => Sys2Proof.Machine.execMqapp w s
  | .splitFenceReleaseDone v j => Sys2Proof.Machine.execSplitFenceReleaseDone v j s
  | .copyChunkRelease v j k => Sys2Proof.Machine.execCopyChunkRelease v j k s
  | .quarterThrottle g => Sys2Proof.Machine.execQuarterThrottle g s
  | .pcieFundamentalReset => Sys2Proof.Machine.execPcieFundamentalReset s
  | .dieResetModule => Sys2Proof.Machine.execDieResetModule s
  | .quiesceComplete => Sys2Proof.Machine.execQuiesceComplete s
  | .quiesceTimeout => Sys2Proof.Machine.execQuiesceTimeout s
  | .drainTimeout => Sys2Proof.Machine.execDrainTimeout s
  | .heldExpiry => Sys2Proof.Machine.execHeldExpiry s
  | .linkRetrainTimeout => Sys2Proof.Machine.execLinkRetrainTimeout s
  | .aclkPointChangeDone => Sys2Proof.Machine.execAclkPointChangeDone s
  | .powerLimitExceeded => Sys2Proof.Machine.execPowerLimitExceeded s
  | .firmwareBoot => Sys2Proof.Machine.execFirmwareBoot s
  | .fwLoad => Sys2Proof.Machine.execFwLoad s
  | .raiseSvn => Sys2Proof.Machine.execRaiseSvn s
  | .abortReleaseDone => Sys2Proof.Machine.execAbortReleaseDone s
  | .tlbInvalidateDone => Sys2Proof.Machine.execTlbInvalidateDone s
  | .snapFire => Sys2Proof.Machine.execSnapFire s
  | .snapRearm => Sys2Proof.Machine.execSnapRearm s
  | .videoRdPoll => Sys2Proof.Machine.execVideoRdPoll s
  | .graphLoad => Sys2Proof.Machine.execGraphLoad s
  | .lingerExpiry => Sys2Proof.Machine.execLingerExpiry s
  | .graphStall => Sys2Proof.Machine.execGraphStall s
  | .budgetCharge => Sys2Proof.Machine.execBudgetCharge s
  | .budgetPeriodStart => Sys2Proof.Machine.execBudgetPeriodStart s
  | .teamStop => Sys2Proof.Machine.execTeamStop s
  | .safepointBound => Sys2Proof.Machine.execSafepointBound s
  | .npBound => Sys2Proof.Machine.execNpBound s
  | .firnTransferDone => Sys2Proof.Machine.execFirnTransferDone s
  | .waitlineTimeout => Sys2Proof.Machine.execWaitlineTimeout s
  | .tileKeyTimeout => Sys2Proof.Machine.execTileKeyTimeout s
  | .coopJoinTimeout => Sys2Proof.Machine.execCoopJoinTimeout s
  | .moraineYield => Sys2Proof.Machine.execMoraineYield s
  | .moraineExit => Sys2Proof.Machine.execMoraineExit s

end Sys2Proof.Machine
end

