-- ==== Sys2Proof/Machine/World.lean ====
section
/-!
DEFINITION. The moves of the schedule: host accesses to BAR 0 as the events they are (R52, R55), BAR 4 (R51), writes by the host to its
own memory (R54), memory errors (R25, R26), and the words of the units.
-/

namespace Sys2Proof.Machine

/-- The host writes its own memory, at bus addresses (R54). -/
def hostMemory (s : State) (a : Nat) (bs : List Byte) : State :=
  { s with sys := bs.zipIdx.foldl (fun m b => SMap.set 0 ((a + b.2) % 2 ^ 64) b.1 m) s.sys }

/-- The events of a permitted write to BAR 0, by the register it names, in the order in which they act (R40, R59, R62, R64,
R71-R73, R76, R82, R84, R86). -/
def writeRows (s : State) (w : HostWrite) (r : Reg) : List Instr :=
  let v := if isAction r then wValue w else wMerged w (regVal s r)
  let pick (l : List (Bool × Instr)) : List Instr := l.filterMap (fun p => if p.1 then some p.2 else none)
  match r with
  | .dieReset =>
    if bit v 4 then [Instr.dieResetModule]
    else pick [(bit v 3, .dieResetFoundation 1), (bit v 2, .dieResetFoundation 0), (bit v 1, .dieResetCompute 1),
               (bit v 0, .dieResetCompute 0)]
  | .ctx c .ctl =>
    if bit v 0 && (s.ctx c).st == .disabled then [.ctxEnable w]
    else if !bit v 0 && (s.ctx c).st != .disabled then [.ctxDisable w]
    else [.registerWrite w]
  | .ctx c .cmd => pick [(bit v 1, .stop c), (bit v 2, .abort c), (bit v 0, .replay c)]
  | .ctx _ .tail => [.ringDoorbell w]
  | .tlbInval => if bit v 63 then [.tlbInvalidate w] else [.registerWrite w]
  | .flogRd => [.flogRdWrite w]
  | .flogBase => [.flogConfigWrite w]
  | .flogCfg => [.flogConfigWrite w]
  | .snapCtl => Instr.registerWrite w :: pick [(bit v 1, .snapFire), (bit v 2, .snapRearm)]
  | .fwCtl => Instr.registerWrite w :: pick [(bit v 1, .raiseSvn), (bit v 0, .fwLoad)]
  | .disp h .ctl =>
    let on := bit (s.head h).ctl.toNat 0
    if bit v 0 && !on then [.displayEnable w] else if !bit v 0 && on then [.displayDisable w] else [.registerWrite w]
  | .venc n => if bit v 63 && !bit (s.venc n).reg.toNat 63 then [.videoSessionEnable w] else [.registerWrite w]
  | _ => [.registerWrite w]

/-- The events of a write to BAR 0; one that is discarded is a REGISTER_WRITE that reports it (R79).
DESIGN CHOICE, log 9, safe. -/
def hostRows (s : State) (w : HostWrite) : List Instr :=
  match writeErr s w, wReg w with
  | none, some r => writeRows s w r
  | _, _ => [.registerWrite w]

/-- Events that only a host write to BAR 0 brings about. -/
def hostRow (i : Instr) : Bool :=
  match i with
  | .dieResetModule => true
  | .dieResetFoundation _ => true
  | .dieResetCompute _ => true
  | .registerWrite _ => true
  | .ringDoorbell _ => true
  | .ctxEnable _ => true
  | .ctxDisable _ => true
  | .stop _ => true
  | .abort _ => true
  | .replay _ => true
  | .tlbInvalidate _ => true
  | .flogRdWrite _ => true
  | .flogConfigWrite _ => true
  | .snapFire => true
  | .snapRearm => true
  | .fwLoad => true
  | .raiseSvn => true
  | .displayEnable _ => true
  | .displayDisable _ => true
  | .videoSessionEnable _ => true
  | _ => false

/-- Events of the units on the clock tree: while it is stopped none of them happens (R31). -/
def treeRow (i : Instr) : Bool :=
  match i with
  | .clauseSelect _ _ => true
  | .tokenComplete _ _ => true
  | .qwinEntryReady _ => true
  | .longOperationCommit _ => true
  | .copyChunkRelease _ _ _ => true
  | .splitFenceReleaseDone _ _ => true
  | .safepointBound => true
  | .npBound => true
  | .wavePark _ => true
  | .waveRecall _ => true
  | .firnTransferDone => true
  | .waitlineWake _ _ => true
  | .waitlineTimeout => true
  | .texOperation _ => true
  | .rasterTriangle _ => true
  | .traversalOperation _ => true
  | .matrixOpCommit _ => true
  | .tileKeyTimeout => true
  | .coopJoinTimeout => true
  | .sequencerProgramStart _ => true
  | .teamStart _ => true
  | .teamStop => true
  | .teamWriteOut _ => true
  | .consumerResume _ => true
  | .priorityPreemption _ => true
  | .batchSteal _ _ => true
  | .lingerExpiry => true
  | .farSegmentMoveIn _ _ => true
  | .recordArrival _ => true
  | .pageWalk _ => true
  | .halfEvictDone _ _ => true
  | .halfMappingDone _ _ => true
  | .drainComplete _ => true
  | .drainTimeout => true
  | _ => false

/-- An event of the schedule may happen: a host write brings about those of its own, and the tree runs. -/
def mayHappen (s : State) (i : Instr) : Bool := i.kind == .event && !hostRow i && !(s.moving.isSome && treeRow i)

/-- The operations of a wave that have completed by now: the spec bounds how long they take (R352). -/
def completeDue (s : State) : State :=
  s.waves.foldl (fun s w =>
    (w.2.ops.filter (fun o => decide (o.latest ≠ 0 ∧ o.latest < coreEdges s (coreOfWave w.1)))).foldl (fun s o =>
      completeOp s w.1 o.id) s) s

/-- What the time before a move brings with it: interrupts go out (R51, R80); clock edges; since when the conditions of R123 and R140 hold; the tree
starts again (R31), words that have waited too long for a key fault (R405), operations complete, budgets are charged (R143), halves are mapped (R123) and batches become eligible (R126) by their bounds. -/
def elapse (s : State) (t : Tick) : State :=
  noteEligible (mapDue (chargeAll (completeDue (keyTimeouts (pointDue (advance (noteStalls (noteWants (deliverMsix s))) t))))))

/-- An uncorrectable error strikes a tile, or as 16 + m a sub-tile, of cluster k's program (R433): the next operation that
meets it finds it. -/
def tileStrike (s : State) (k part : Nat) : State :=
  { s with seqs := SMap.modify k (fun q => if q.bad.contains part then q else { q with bad := q.bad ++ [part] }) s.seqs }

/-- Run events one after another. -/
def execAll : List Instr → State → Host.Outcome State Fault Refusal
  | [], s => .next s
  | i :: is, s =>
    match exec i s with
    | .next t => execAll is t
    | .fault r => .fault r
    | .refused r => .refused r

/-- One word of a unit: fetch and check it, run it, and move the unit on. -/
def issueStep (u : Actor) (s : State) : Host.Outcome State Fault Refusal :=
  match prep s u with
  | .stop t => .next t
  | .run i t =>
    match exec i t with
    | .next r => .next (finishUnit t i u r)
    | .fault r => .fault r
    | .refused r => .refused r

/-- One move of a module that has power. -/
def liveStep (a : Act) (s : State) : Host.Outcome State Fault Refusal :=
  match a with
  | .event i => if mayHappen s i then exec i s else .next s
  | .issue u => issueStep u s
  | .hostWrite w => execAll (hostRows s w) s
  | .hostRead o wide => .next (hostReadReg s o wide)
  | .hostBad o n rd x relaxed => .next (hostBadAccess s o n rd x relaxed)
  | .barSize l => .next (resizeAperture s l)
  | .vecWrite o bs => .next (vecWrite s o bs)
  | .vecRead o n => .next (vecRead s o n)
  | .hostMem a bs => .next (hostMemory s a bs)
  | .ecc pa fixed => .next (eccStrike s pa fixed)
  | .eccTile k part => .next (tileStrike s k part)

/-- One move. Without power (R50) only a fundamental reset and the host's own memory do anything. -/
def actStep (a : Act) (s : State) : Host.Outcome State Fault Refusal :=
  if s.power then liveStep a s
  else match a with
    | .event .pcieFundamentalReset => exec .pcieFundamentalReset s
    | .hostMem a bs => .next (hostMemory s a bs)
    | _ => .next s

end Sys2Proof.Machine
end

