-- ==== Sys2Proof/Machine/Step.lean ====
section
/-!
DEFINITION. One step of the module: the next move of the schedule, after the clock edges that pass before it. A unit's
move runs the word at its program counter. With it, the state in which a given word is the one that runs next.
-/

namespace Sys2Proof.Machine

/-- One step. With nothing scheduled, one edge of each clock passes.
DESIGN CHOICE, logs 2 and 3: the schedule orders all units. -/
def step (s : State) : Host.Outcome State Fault Refusal :=
  match s.sched with
  | [] => .next (elapse s { a := 1, h := 1, m := [1, 1, 1, 1], act := .hostMem 0 [] })
  | t :: rest => actStep t.act (elapse { s with sched := rest } t)

/-! ### A word placed where it runs next

The module loads its programs itself (R111): a ring entry names a container, the loader places its code, an entry feed
brings records, and a dispatcher starts a consumer. `withFetchWord` stands for all of that: context 0 is ACTIVE with one
image of one node, a consumer of it stands at the word, and the schedule lets that unit issue. -/

/-- The node of the placed image: every register a wave may have. -/
def placedNode (kind : Nat) : NodeInfo :=
  { kind := kind, width := 64, fmt := 0, entry := 0, access := none, linger := 0, slots := [], result := false, vregs := 256,
    wregs := 64, loc := 4, team := 1, qbase := 0, qlen := 0, edge0 := 0, edges := 0, cedge0 := 0, cedges := 0, qcap := 0, spill := 0 }

def placedImage (kind : Nat) (code : List Word) : Image :=
  { addr := 0, size := 4096, seq := 1, st := .loaded, mmrev := 3, nodes := [placedNode kind], edges := [], cedges := [],
    fmts := [], spill := none, plan := [], qdir := [0], mcode := code, mbase := 0, safe := [], segs := [], indir := [], rets := [] }

def placedRec : Rec :=
  { words := List.replicate 8 0, tag := 0, depth := 0, parent := none, id := 0, entry := some 0, load := none, arr := 0,
    blk := none, page := none }

def placedCons : Cons := { ctx := 0, img := 0, node := 0, tag := 0, recs := [placedRec], resv := [], contd := 0, start := 0 }

/-- Context 0 ACTIVE with the image, and the unit next in the schedule. -/
def State.placed (s : State) (kind : Nat) (code : List Word) (u : Actor) : State :=
  { s.setCtx 0 { Ctx.reset with st := .active, images := [(0, placedImage kind code)] } with
    sched := [{ a := 1, h := 1, m := [1, 1, 1, 1], act := .issue u }], power := true, moving := none, dies := [], ratio := [], poison := [] }

/-- Where the placed word lies: word 1 of a clause whose header is at virtual and physical address 0x1000. -/
def placedHeader : Nat := 0x1000

def placedClause (cls : Nat) (run : Mask) : Clause :=
  { h := placedHeader, count := 31, cls := cls, i := 0, run := run, gone := [], waits := [], port := 0, yielded := false, sent := 0 }

def placedTlb : TlbE := { ctx := 0, va := 0, size := 0x200000, pa := 0, w := true, x := true }

/-- The bytes of a 64-bit word in memory (R10). -/
def placeWord (mem : List Host.Cell) (w : DWord) : List Host.Cell :=
  (bytesOf 8 w.toNat).zipIdx.foldl (fun m b => SMap.set 0 (placedHeader + 8 + b.2) b.1 m) mem

def placedWave (cls : Nat) : Wave :=
  { team := 0, ctx := 0, img := 0, node := 0, tag := 0, width := 64, n := 64, idx := 0, access := false, pair := none,
    recs := [placedRec], v := [], w := [], m := [], arr := [], x := [], tok := [],
    pcs := (List.range 64).map (fun l => (l, { h := placedHeader, i := 0, wait := none, ret := [] })), nstat := 0, spcount := 0,
    np := none, gen := 0, fences := [], qh := 0, qc := 0, qready := [], res := .resident, notReadySince := 0, readySince := 0,
    park := .no, ops := [], haz := [], cyc := 0, begun := 0, hint := false, yieldTo := none, stopped := false, keySince := none,
    run := some (placedClause cls (BitVec.allOnes 64)) }

def placedTeam : Team :=
  { cons := placedCons, core := 0, waves := [0], ended := 0, sems := [], semAt := [], semq := [], cin := [], cout := [], locks := [], mem := [],
    region := none, st := .running, migrate := false, saved := [], place := none }

def placedSeq (cls : Nat) : Seq :=
  { cons := placedCons, stack := 0, q := [], h := placedHeader, i := 0, run := some (placedClause cls 1), ret := [], tok := [], gets := [],
    tiles := [], tst := [], acc := [], subs := [], nstat := 0, mctl := false, bind := 0, tripos := 0, trival := 0, latch := none,
    grp := none, syncing := false, queue := [], rel := [], park := .no, haz := [], cyc := 0, done := false, bad := [], place := none }

def placedKern : Kern :=
  { cons := placedCons, regs := { z := [], k := [], p := [(0, BitVec.allOnes 64)], pc := 0, nstat := 0 },
    ckpt := { z := [], k := [], p := [(0, BitVec.allOnes 64)], pc := 0, nstat := 0 }, writes := [], recs := [], commits := 0,
    ending := 0, park := .no, stop := false, immune := none, recaddr := 0, pages := [] }

/-- A 32-bit word is the program of a kernel on moraine core 0. A 64-bit word stands in a clause of its class on wave 0 of
core 0, or on the sequencer of cluster 0 where its class is the sequencer's.
DESIGN CHOICE, log 8: it stands for the load, launch and dispatch of a program. -/
def State.withFetchWord (s : State) (nbits w : Nat) : State :=
  if nbits ≤ 32 then (s.placed 4 [BitVec.ofNat 32 (w % 2 ^ nbits)] (.mor 0)).setKern 0 placedKern
  else
    let cls := match decodeNative (BitVec.ofNat 64 w) with | .ok i => i.cls | .error _ => 0
    let mem := placeWord s.mem (BitVec.ofNat 64 w)
    if cls = 7 then { (s.placed 3 [] (.seq 0)).setSeq 0 (placedSeq cls) with mem := mem, tlb2 := SMap.insert 0 [placedTlb] s.tlb2 }
    else
      { (s.placed 0 [] (.wave 0)).setWave 0 (placedWave cls) with
        mem := mem, teams := [(0, placedTeam)], tlb1 := SMap.insert 0 [placedTlb] s.tlb1 }

end Sys2Proof.Machine
end

