-- ==== Sys2Proof/Safety.lean ====
section
/-!
DEFINITION. What counts as a safe run, and the terms in which statements are made: the canonical form of memory, what
survives a reset, the operands and results of the lane words as the spec's tables give them, and what a step of a unit may
change.
-/

namespace Sys2Proof.Machine

/-! ### Memory -/

/-- The canonical form of a memory: addresses strictly rising, no entry equal to what an unlisted address reads as. -/
def Memory.wf (m : List Host.Cell) : Bool := SMap.wf 0 m

/-- DRAM and host memory in canonical form. -/
def State.memWf (s : State) : Bool := Memory.wf s.mem && Memory.wf s.sys

/-- What only a firmware step may raise and nothing else changes: the harvest map, the keys and MIN_SVN (R37, R82). -/
def Fuses.keeps (f g : Fuses) : Prop :=
  g.fused = f.fused ∧ g.keyE = f.keyE ∧ g.keyL = f.keyL ∧ g.secret = f.secret ∧ g.certs = f.certs ∧ f.minSvn ≤ g.minSvn

/-- A step that stops safely or goes on: no fault and no refusal. -/
def goesOn (o : Host.Outcome State Fault Refusal) : Prop := ∃ t, o = .next t

/-! ### The tables of the lane words (R340-R347, R358, R363) -/

/-- The operand kinds and the latency of the integer, shift, bit-field, select and move words: 2 for F2, 4 for F4. -/
def intOperands : Instr → Option (VWord × List (OpKind2 × BitVec 9) × Nat)
  | .iadd w => some (w, [(.dst, w.d), (.src, w.a), (.src, w.b)], 2)
  | .isub w => some (w, [(.dst, w.d), (.src, w.a), (.src, w.b)], 2)
  | .imul w => some (w, [(.dst, w.d), (.src, w.a), (.src, w.b)], 4)
  | .imulh w => some (w, [(.dst, w.d), (.src, w.a), (.src, w.b)], 4)
  | .imad w => some (w, [(.dst, w.d), (.src, w.a), (.src, w.b), (.src, w.c)], 4)
  | .imin w => some (w, [(.dst, w.d), (.src, w.a), (.src, w.b)], 2)
  | .imax w => some (w, [(.dst, w.d), (.src, w.a), (.src, w.b)], 2)
  | .iabs w => some (w, [(.dst, w.d), (.src, w.a)], 2)
  | .shl w => some (w, [(.dst, w.d), (.src, w.a), (.src, w.b)], 2)
  | .shr w => some (w, [(.dst, w.d), (.src, w.a), (.src, w.b)], 2)
  | .sar w => some (w, [(.dst, w.d), (.src, w.a), (.src, w.b)], 2)
  | .rot w => some (w, [(.dst, w.d), (.src, w.a), (.src, w.b)], 2)
  | .andB w => some (w, [(.dst, w.d), (.src, w.a), (.src, w.b)], 2)
  | .orB w => some (w, [(.dst, w.d), (.src, w.a), (.src, w.b)], 2)
  | .xorB w => some (w, [(.dst, w.d), (.src, w.a), (.src, w.b)], 2)
  | .notB w => some (w, [(.dst, w.d), (.src, w.a)], 2)
  | .bfe w => some (w, [(.dst, w.d), (.src, w.a), (.src, w.b), (.src, w.c)], 2)
  | .bfi w => some (w, [(.dst, w.d), (.src, w.a), (.src, w.b), (.src, w.c)], 2)
  | .popc w => some (w, [(.dst, w.d), (.src, w.a)], 2)
  | .clz w => some (w, [(.dst, w.d), (.src, w.a)], 2)
  | .brev w => some (w, [(.dst, w.d), (.src, w.a)], 2)
  | .mov w => some (w, [(.dst, w.d), (.src, w.a)], 2)
  | _ => none

/-- A clamp to the signed 32-bit range (R338). -/
def clamp32 (y : Int) : Int := max (-(2 ^ 31)) (min y (2 ^ 31 - 1))

/-- Results of integers: Wrap of an integer, or Sat32 (R338). -/
def intResult (sat : Bool) (y : Int) : Word := BitVec.ofInt 32 (if sat then clamp32 y else y)

/-- The value of a signed or unsigned reading (R338). -/
def asInt (u : Bool) (a : Word) : Int := if u then (a.toNat : Int) else a.toInt

/-- The result of an integer word in a lane, from the lane's sources a, b and c, as R341 and R343 tabulate it. -/
def intTable (i : Instr) (a b c : Word) : Word :=
  match i with
  | .iadd w => intResult (w.mod.getLsbD 1) (a.toInt + b.toInt)
  | .isub w => intResult (w.mod.getLsbD 1) (a.toInt - b.toInt)
  | .imul _ => intResult false (a.toInt * b.toInt)
  | .imulh w => BitVec.ofInt 32 (asInt (w.mod.getLsbD 0) a * asInt (w.mod.getLsbD 0) b / 2 ^ 32)
  | .imad w => intResult (w.mod.getLsbD 1) (a.toInt * b.toInt + c.toInt)
  | .imin w => intResult false (min (asInt (w.mod.getLsbD 0) a) (asInt (w.mod.getLsbD 0) b))
  | .imax w => intResult false (max (asInt (w.mod.getLsbD 0) a) (asInt (w.mod.getLsbD 0) b))
  | .iabs _ => intResult false |a.toInt|
  | .shl _ => if b.toNat < 32 then BitVec.ofNat 32 (a.toNat * 2 ^ b.toNat) else 0
  | .shr _ => if b.toNat < 32 then BitVec.ofNat 32 (a.toNat / 2 ^ b.toNat) else 0
  | .sar _ => BitVec.ofInt 32 (a.toInt / 2 ^ min b.toNat 32)
  | .rot _ => BitVec.ofNat 32 (a.toNat * 2 ^ (b.toNat % 32)) ||| BitVec.ofNat 32 (a.toNat / 2 ^ (32 - b.toNat % 32))
  | .andB _ => a &&& b
  | .orB _ => a ||| b
  | .xorB _ => a ^^^ b
  | .notB _ => ~~~ a
  | .popc _ => BitVec.ofNat 32 (((List.range 32).map (fun k => (a.getLsbD k).toNat)).sum)
  | .clz _ => BitVec.ofNat 32 (((List.range 33).find? (fun n => decide (a.toNat < 2 ^ (32 - n) ∧ (n = 32 ∨ 2 ^ (31 - n) ≤ a.toNat)))).getD 0)
  | .mov _ => a
  | .bfe w =>
    let o := b.toNat % 256
    let n := min (c.toNat % 256) 32
    let f := (asInt (w.mod.getLsbD 0) a / 2 ^ o) % 2 ^ n
    if n = 0 then 0 else BitVec.ofInt 32 (if w.mod.getLsbD 0 ∨ f < 2 ^ (n - 1) then f else f - 2 ^ n)
  | .bfi _ =>
    let o := b.toNat % 256
    let n := min (b.toNat / 256 % 256) 32
    let m : Word := BitVec.ofNat 32 ((2 ^ n - 1) * 2 ^ o)
    (a &&& ~~~ m) ||| (BitVec.ofNat 32 (c.toNat * 2 ^ o) &&& m)
  | .brev _ => BitVec.ofNat 32 ((List.range 32).map (fun k => if a.getLsbD (31 - k) then 2 ^ k else 0)).sum
  | _ => 0

/-- The compares of ICMP on integers (R346). -/
def Cmp.onInts : Cmp → Int → Int → Bool
  | .eq, a, b => decide (a = b)
  | .ne, a, b => decide (a ≠ b)
  | .lt, a, b => decide (a < b)
  | .le, a, b => decide (a ≤ b)
  | .gt, a, b => decide (b < a)
  | .ge, a, b => decide (b ≤ a)

/-- The function words of major 0x1A (R352). -/
def fnRow : Instr → Option (VWord × Fn)
  | .frcp w => some (w, .rcp)
  | .frsq w => some (w, .rsq)
  | .fsqrt w => some (w, .sqrt)
  | .fexp2 w => some (w, .exp2)
  | .flog2 w => some (w, .log2)
  | .fsin w => some (w, .sin)
  | .fcos w => some (w, .cos)
  | _ => none

/-- The FP64 words, whether they read C, and what they compute under N4's rules in the word's mode (R354). -/
def fp64Row : Instr → Option (VWord × Bool × (Nat → Nat → Nat → Nat))
  | .dadd w => some (w, false, fun a b _ => fAdd fp64 (n4 fp64) (rmOf (w.mod.toNat % 4)) a b)
  | .dmul w => some (w, false, fun a b _ => fMul fp64 (n4 fp64) (rmOf (w.mod.toNat % 4)) a b)
  | .dfma w => some (w, true, fun a b c => fFma fp64 (n4 fp64) (rmOf (w.mod.toNat % 4)) a b c)
  | _ => none

/-- A wave with an operation of registers in flight on a token (R291), complete no earlier than one edge of its core and, where
the second is not 0, no later than it (R352). -/
def inFlight (s : State) (x : WCtx) (tok : BitVec 3) (lo hi : Nat) (rs : List RegWrite) (wv : Wave) : State :=
  { s.setWave x.v (wv.launch { id := s.nextId, tok := tokenOf tok, regs := rs, kind := .regs, earliest := lo, latest := hi }) with
    nextId := s.nextId + 1 }

/-- The conversion words, with their kind and latency (R355). -/
def cvtRow : Instr → Option (VWord × CvtKind × Nat)
  | .cvt w => some (w, .cvt, 4)
  | .cvtlg w => some (w, .lg, 6)
  | .cvtln w => some (w, .ln, 6)
  | _ => none

/-- The converted elements of one lane, each in its own rounding mode and with the NSTAT bits it sets (R357). -/
def cvtElems (k : CvtKind) (n : Nat) (se de : Elem) (mode : Nat → Rm) (sat : Bool) (σs σd : Int) (a : Word) : List (Nat × Nat) :=
  (List.range (32 / max se.width de.width)).map (fun j =>
    cvtElem k n se de (mode j) sat σs σd (a.toNat / 2 ^ (se.width * j) % 2 ^ se.width))

/-- Elements of a width packed from bit 0 on, zeros above. -/
def packed (wd : Nat) (es : List (Nat × Nat)) : Word :=
  BitVec.ofNat 32 ((es.zipIdx.map (fun e => (e.1.1 % 2 ^ wd) * 2 ^ (wd * e.2))).sum)

/-- Word n, from 0, of those a generator gives next (R426). -/
def randomWord (r : Rng) (n : Nat) : Nat := (r.st + BitVec.ofNat 64 (n + 1) * (r.inc ||| 1)).toNat / 2 ^ 48

/-- The source lane of the shuffles, from G, the subgroup's first lane, the lane and q (R360). -/
def shufTable : Instr → Option (VWord × (Nat → Nat → Nat → Nat → Option Nat))
  | .shflIdx w => some (w, fun g s0 _ q => if q < g then some (s0 + q) else none)
  | .shflUp w => some (w, fun _ s0 l q => if q ≤ l - s0 then some (l - q) else none)
  | .shflDown w => some (w, fun g s0 l q => if l - s0 + q < g then some (l + q) else none)
  | .shflXor w => some (w, fun g _ l q => if q < g then some (l ^^^ q) else none)
  | _ => none

/-- REDX and SCANX (R361). -/
def reduceRow : Instr → Option (VWord × XOp × Bool)
  | .redx op w => some (w, op, false)
  | .scanx op w => some (w, op, true)
  | _ => none

/-- The integer operators of R361. -/
def intCombine (op : XOp) (u : Bool) : Option (Word → Word → Word) :=
  match op with
  | .add => some (· + ·)
  | .min => some (fun a b => if asInt u b < asInt u a then b else a)
  | .max => some (fun a b => if asInt u a < asInt u b then b else a)
  | .and => some (· &&& ·)
  | .or => some (· ||| ·)
  | .xor => some (· ^^^ ·)
  | _ => none

/-- A NaN becomes the canonical FP32 NaN (R361). -/
def nanToCanonical (r : Word) : Word := if fDecode fp32 r.toNat = .nan then 0x7FC00000 else r

/-- F_INDEX_RANGE: the index in DETAIL bits 31:0, the base and the limit above it (R364); XSET reports base and limit (R365). -/
def indexReport (sub : Nat) (lanes : Mask) (low : Nat) (bl : Nat × Nat) : FaultInfo :=
  { cause := 0x13, sub := sub, va := 0, lanes := lanes, detail := low + bl.1 * 2 ^ 32 + bl.2 * 2 ^ 48 }

/-- The mask words: operands and the bit each lane of E receives, from the bits of mA and mB and the value of a (R313). -/
def maskTable : Instr → Option (VWord × List (OpKind2 × BitVec 9) × (Bool → Bool → Word → Bool))
  | .mset w => some (w, [(.maskDst, w.d), (.src, w.a)], fun _ _ a => decide (a ≠ 0))
  | .mand w => some (w, [(.maskDst, w.d), (.maskSrc, w.a), (.maskSrc, w.b)], fun p q _ => p && q)
  | .mor w => some (w, [(.maskDst, w.d), (.maskSrc, w.a), (.maskSrc, w.b)], fun p q _ => p || q)
  | .mxor w => some (w, [(.maskDst, w.d), (.maskSrc, w.a), (.maskSrc, w.b)], fun p q _ => p ^^ q)
  | .mnot w => some (w, [(.maskDst, w.d), (.maskSrc, w.a)], fun p _ _ => !p)
  | .mcpy w => some (w, [(.maskDst, w.d), (.maskSrc, w.a)], fun p _ _ => p)
  | _ => none

/-- A target of a branch holds a clause header that can be fetched (R294). -/
def headerAt (s : State) (x : WCtx) (t : Nat) : Prop :=
  t % 8 = 0 ∧ ∃ w, waveFetch s x.v x.wv t = .word w ∧ isHeader w = true

/-- Why a target is no place to branch to, where its word can be read: reason 1, no multiple of 8; reason 2, no clause header
(R308). -/
def targetReason (s : State) (x : WCtx) (t : Nat) : Option Nat :=
  if t % 8 ≠ 0 then some 1
  else match waveFetch s x.v x.wv t with
    | .word w => if isHeader w then none else some 2
    | _ => none

/-! ### Records (R116, R321, R327) -/

/-- A record a wave appends now: the j-th of its word. -/
def sentRecord (s : State) (words : List Word) (tag depth : Nat) (parent : Option Nat) (j : Nat) : Rec :=
  { words := words, tag := tag, depth := depth, parent := parent, id := s.nextId + j, entry := none, load := none,
    arr := s.aclk, blk := none, page := none }

/-- The words of a record of a size: the lane's registers from r on, as the wave reads them. -/
def laneWords (s : State) (x : WCtx) (r size l : Nat) : List Word :=
  (List.range (size / 4)).map (fun j => readV s x.wv (r + j) l)

/-! ### Memory as a coherent reader finds it (R189-R192) -/

/-- The byte of a physical address that no core could tell from another once every write has gone home: a core's dirty byte
where one holds the line in M, else the byte at its home. -/
def coherentByte (s : State) (a : Nat) : Byte :=
  match List.find? (fun e => l1Line e.1 == a / 128 && e.2.st == .m && e.2.dirty.getLsbD (a % 128)) s.l1 with
  | some e => e.2.data.extractLsb' (8 * (a % 128)) 8
  | none => homeByte s a

def coherentBytes (s : State) (pa n : Nat) : List Byte := (List.range n).map (fun j => coherentByte s (pa + j))

/-- A reduction that has not been combined yet covers an address (R191, R192). -/
def pendingPart (s : State) (a : Nat) : Prop :=
  ∃ e ∈ s.l1, e.2.st = .u ∧ ∃ p ∈ e.2.part, l1Line e.1 * 128 + p.1 ≤ a ∧ a < l1Line e.1 * 128 + p.1 + p.2.2.1

/-- No reduction pends on a line. -/
def noParts (s : State) (ln : Nat) : Prop := ∀ e ∈ s.l1, l1Line e.1 = ln → e.2.st ≠ .u

/-- A TLB entry maps whole pages to whole pages of the physical space (R23, R195, R198). -/
def TlbE.ok (e : TlbE) : Bool := e.va % 4096 == 0 && e.pa % 4096 == 0 && e.size % 4096 == 0 && decide (e.pa + e.size ≤ 2 ^ 48)

/-- The memory system in order: DRAM and host memory canonical, the L1 lines listed once, at most one core holding a line
in M, no dirty byte in S and every partial result within its line (R189, R191), and every TLB entry within the physical space. -/
def State.inOrder (s : State) : Bool :=
  s.memWf && SMap.sortedFrom 0 s.l1 &&
  s.l1.all (fun e => s.l1.all (fun f =>
    decide (e.1 = f.1) || e.2.st != .m || f.2.st != .m || decide (l1Line e.1 ≠ l1Line f.1))) &&
  s.l1.all (fun e => (e.2.st != .s || e.2.dirty == 0) && e.2.part.all (fun p => decide (p.1 + p.2.2.1 ≤ 128))) &&
  s.tlb1.all (fun c => c.2.all TlbE.ok) && s.tlb2.all (fun c => c.2.all TlbE.ok)

/-- The sparse maps of a wave list each key once, in order. -/
def Wave.canon (wv : Wave) : Bool :=
  SMap.sortedFrom 0 wv.v && SMap.sortedFrom 0 wv.w && SMap.sortedFrom 0 wv.m && SMap.sortedFrom 0 wv.tok

def Team.canon (t : Team) : Bool :=
  SMap.sortedFrom 0 t.mem && SMap.sortedFrom 0 t.cin && SMap.sortedFrom 0 t.cout && SMap.sortedFrom 0 t.cons.resv &&
  t.saved.all (fun w => w.2.canon)

def Seq.canon (q : Seq) : Bool :=
  SMap.sortedFrom 0 q.q && SMap.sortedFrom 0 q.tok && SMap.sortedFrom 0 q.tiles && SMap.sortedFrom 0 q.tst &&
  SMap.sortedFrom 0 q.acc && SMap.sortedFrom 0 q.subs && SMap.sortedFrom 0 q.cons.resv

def MRegs.canon (r : MRegs) : Bool := SMap.sortedFrom 0 r.z && SMap.sortedFrom 0 r.k && SMap.sortedFrom 0 r.p

def Kern.canon (k : Kern) : Bool :=
  k.regs.canon && k.ckpt.canon && SMap.sortedFrom 0 k.writes && SMap.sortedFrom 0 k.cons.resv

def Ctx.canon (x : Ctx) : Bool :=
  SMap.sortedFrom 0 x.images && SMap.sortedFrom 0 x.launches && x.launches.all (fun l => SMap.sortedFrom 0 l.2.tree)

/-- The sparse maps of the state list each key once, in order: what a read finds is what the last write left. -/
def State.canon (s : State) : Bool :=
  SMap.sortedFrom 0 s.mclk &&   SMap.sortedFrom 0 s.ctxs && s.ctxs.all (fun e => e.2.canon) &&
  SMap.sortedFrom 0 s.waves && s.waves.all (fun e => e.2.canon) &&
  SMap.sortedFrom 0 s.teams && s.teams.all (fun e => e.2.canon) &&
  SMap.sortedFrom 0 s.seqs && s.seqs.all (fun e => e.2.canon) && s.savedSeqs.all Seq.canon &&
  SMap.sortedFrom 0 s.kerns && s.kerns.all (fun e => e.2.canon) && s.savedKerns.all (fun e => e.2.2.canon) &&
  SMap.sortedFrom 0 s.dies && SMap.sortedFrom 0 s.links && SMap.sortedFrom 0 s.heads &&
  SMap.sortedFrom 0 s.vencs && s.vencs.all (fun e => e.2.cur.all (fun f => SMap.sortedFrom 0 f.cons.resv)) &&
  SMap.sortedFrom 0 s.vqs && SMap.sortedFrom 0 s.mdisp && SMap.sortedFrom 0 s.hub.staging &&
  SMap.sortedFrom 0 s.engines &&
  s.engines.all (fun e => (e.2.parkV ++ e.2.ready).all (fun r => SMap.sortedFrom 0 r.1.resv))

/-- Every home is in service, no sector holds an error and no link bars the way: what is sent home arrives, and nothing waits for a
link (R25, R26, R29, R46). -/
def State.homesUp (s : State) : Prop := s.poison = [] ∧ (∀ pa, offline s pa = false) ∧ ∀ l, linkBars s l = false

/-- A core's L1 has room for n more lines (R22, R185). -/
def l1Room (s : State) (g n : Nat) : Prop := (s.l1.filter (fun e => l1Core e.1 == g)).length + n ≤ l1Lines s g

/-- What a core's ordinary read of a line finds: its own copy, else what a coherent reader finds (R189). -/
def readBytes (s : State) (g pa n : Nat) : List Byte :=
  match SMap.find? s.l1 (l1Key g (pa / 128)) with
  | some x => if x.st = .u then coherentBytes s pa n else lineBytes x (pa % 128) n
  | none => coherentBytes s pa n

/-- A memory word passes R288 and R369, has a thread, room in its token and a translation for every lane (R199). -/
def Reaches (s : State) (w : VWord) (x : WCtx) (t : Team) (ops : List (OpKind2 × BitVec 9)) (accs : List LaneAcc)
    (pas : List Nat) : Prop :=
  waveOf s w.msel = some x ∧ SMap.find? s.teams x.wv.team = some t ∧ issueFault s x ops 1000 = none ∧
  addrFault t (regionSize x.nd) accs = none ∧ x.e ≠ 0 ∧ tokenFull x.wv w.token = false ∧
  waveGate s x ((accs.filter (·.glob)).map reqOf) = .go pas

/-- The operands and the accesses of the memory words (R368, R371, R374, R376, R378, R382); a load of an access wave with D
0xFF goes to the window and writes no register. -/
def memRow (s : State) (x : WCtx) : Instr → Option (VWord × List (OpKind2 × BitVec 9) × List LaneAcc)
  | .ld z w => some (w, (if x.wv.access && w.d == 0xFF then [] else [(dstKind z, w.d)]) ++ [(.srcN 2, w.a)] ++ offsetOps w,
      accOf true false (gAddr s x w (Size.bytes z)) (Size.bytes z) x.e)
  | .lda z w => some (w, (if x.wv.access && w.d == 0xFF then [] else [(dstKind z, w.d)]) ++ [(.srcN 2, w.a)] ++ offsetOps w,
      accOf true false (gAddr s x w (Size.bytes z)) (Size.bytes z) x.e)
  | .st z w => some (w, [(.srcN 2, w.a), (dataKind z, w.b)] ++ offsetOps w, accOf true true (gAddr s x w (Size.bytes z)) (Size.bytes z) x.e)
  | .strl z w => some (w, [(.srcN 2, w.a), (dataKind z, w.b)] ++ offsetOps w, accOf true true (gAddr s x w (Size.bytes z)) (Size.bytes z) x.e)
  | .ldl z w => some (w, [(dstKind z, w.d), (.src, w.a)] ++ offsetOps w, accOf false false (lAddr s x w (Size.bytes z)) (Size.bytes z) x.e)
  | .stl z w => some (w, [(.src, w.a), (dataKind z, w.b)] ++ offsetOps w, accOf false true (lAddr s x w (Size.bytes z)) (Size.bytes z) x.e)
  | .atom op _ w => some (w, [(if w.mod0 then .dstN 2 else .dst, w.d), (.srcN 2, w.a), (if w.mod0 then .srcN 2 else .src, w.b)] ++
      (if op = .cas then [(if w.mod0 then .srcN 2 else .src, w.c)] else []),
      rmwOf (AtomOp.overPcie op) (fun l => ((readPair s x.v x.wv w.a l).toNat : Int)) (if w.mod0 then 8 else 4) x.e)
  | .red _ w => some (w, [(.srcN 2, w.a), (if w.mod0 then .srcN 2 else .src, w.b)],
      rmwOf false (fun l => ((readPair s x.v x.wv w.a l).toNat : Int)) (if w.mod0 then 8 else 4) x.e)
  | .fredC2 w => some (w, [(.srcN 2, w.a), (if w.mod0 then .srcN 2 else .src, w.b)],
      rmwOf false (fun l => ((readPair s x.v x.wv w.a l).toNat : Int)) (if w.mod0 then 16 else 8) x.e)
  | .acopyGl w => some (w, acopyOps w, acopyAccs true s w x)
  | .acopyLg w => some (w, acopyOps w, acopyAccs false s w x)
  | _ => none

/-- A byte of a piece of a long operation: at its home in global memory, or in the team's region (R391, R414). -/
def pieceByte (s : State) (t : Team) (glob : Bool) (at_ j : Nat) : Byte :=
  if glob then homeByte s (at_ + j) else SMap.get 0 t.mem (at_ + j)

/-- A long operation that may commit (R179): listed, neither parked nor captured, its context and stack running; its wave
still has threads. -/
def LongReady (s : State) (i : Nat) (l : LongOp) (t : Team) (wv : Wave) : Prop :=
  s.longs.find? (fun l => l.id == i) = some l ∧ SMap.find? s.teams l.team = some t ∧ l.park = .no ∧ l.captured = false ∧
  ctxRuns s l.ctx = true ∧ stackRuns s (stackOfCore (coreOfWave l.wave)) = true ∧ SMap.find? s.waves l.wave = some wv ∧ wv.pcs ≠ []

/-- An access leaves the physical bytes [pa, pa + n) of the lanes it names alone. -/
def outside (pas : List Nat) (n a : Nat) : Prop := ∀ pa ∈ pas, a < pa ∨ pa + n ≤ a

/-- Lanes in order each read the word of n bytes at their address and leave there what `f` makes of it: the bytes as the lanes
after them find them, and what each lane read (R375, R377, R378). -/
def rmwLanes (n : Nat) (f : Nat → Nat → Nat) (see : Nat → Byte) (ps : List (Nat × Nat)) : (Nat → Byte) × List (Nat × Nat) :=
  ps.foldl (fun a p =>
    let old := natOfBytes ((List.range n).map (fun j => a.1 (p.2 + j)))
    (fun b => if p.2 ≤ b ∧ b < p.2 + n then (bytesOf n (f p.1 old)).getD (b - p.2) 0 else a.1 b, a.2 ++ [(p.1, old)])) (see, [])

/-- Every wave keeps its registers and NSTAT. -/
def registersKept (s r : State) : Prop :=
  ∀ v wv, SMap.find? s.waves v = some wv → ∃ u, SMap.find? r.waves v = some u ∧
    u.v = wv.v ∧ u.w = wv.w ∧ u.m = wv.m ∧ u.x = wv.x ∧ u.nstat = wv.nstat

/-- The scalar words of a sequencer with two sources, and what each makes of them (R409). -/
def seqTable : Instr → Option (VWord × (DWord → DWord → DWord))
  | .sadd w => some (w, fun a b => BitVec.ofNat 64 (a.toNat + b.toNat))
  | .ssub w => some (w, fun a b => BitVec.ofInt 64 (a.toNat - b.toNat))
  | .smul w => some (w, fun a b => BitVec.ofNat 64 (a.toNat * b.toNat))
  | .sand w => some (w, fun a b => a &&& b)
  | .sor w => some (w, fun a b => a ||| b)
  | .sxor w => some (w, fun a b => a ^^^ b)
  | .sshl w => some (w, fun a b => if b.toNat < 64 then BitVec.ofNat 64 (a.toNat * 2 ^ b.toNat) else 0)
  | .sshr w => some (w, fun a b => if b.toNat < 64 then BitVec.ofNat 64 (a.toNat / 2 ^ b.toNat) else 0)
  | .scmp .eq w => some (w, fun a b => if a = b then 1 else 0)
  | .scmp .ne w => some (w, fun a b => if a ≠ b then 1 else 0)
  | .scmp .lt w => some (w, fun a b => if a.toInt < b.toInt then 1 else 0)
  | .scmp .ge w => some (w, fun a b => if b.toInt ≤ a.toInt then 1 else 0)
  | _ => none

/-- The TEX words: form, channel and number of coordinate registers (R396, R398). -/
def texRow : Instr → Option (VWord × Nat × Nat × Nat)
  | .texSample w => some (w, if w.mod.getLsbD 0 then 1 else 0, 0, if w.mod.getLsbD 0 then 7 else 4)
  | .texLoad w => some (w, 2, 0, 4)
  | .texGather w => some (w, 3, w.mod.toNat % 4, 3)
  | _ => none

/-! ### Moraine words (R450-R454) -/

/-- The word moves on, and lane l of z[d] holds f l where `on` says so; no other register changes. -/
def MRegs.wrote (r r' : MRegs) (d : Nat) (on : Nat → Bool) (f : Nat → Word) : Prop :=
  r'.pc = r.pc + 1 ∧ r'.k = r.k ∧ r'.p = r.p ∧
  ∀ n l, l < 64 → r'.zr n l = (if n = d ∧ on l = true then f l else r.zr n l)

/-- The word moves on, and k[d] holds v; no other register changes. -/
def MRegs.wroteK (r r' : MRegs) (d : Nat) (v : DWord) : Prop :=
  r'.pc = r.pc + 1 ∧ r'.z = r.z ∧ r'.p = r.p ∧ r'.nstat = r.nstat ∧ ∀ n, r'.kr n = (if n = d then v else r.kr n)

/-- The word moves on, and p[d] holds v; no other register changes. -/
def MRegs.wroteP (r r' : MRegs) (d : Nat) (v : Mask) : Prop :=
  r'.pc = r.pc + 1 ∧ r'.z = r.z ∧ r'.k = r.k ∧ r'.nstat = r.nstat ∧ ∀ n, r'.pr n = (if n = d then v else r.pr n)

/-- The vector words and the value of an active lane: from a and b, the lane's elements of z[A] and z[B], its element of z[D],
and the scalars k[A] and k[B] (R451). Packed types act per 16-bit element, as R339 does; no numeric-behaviour version applies. -/
def morVecTable : Instr → Option (MR × (Word → Word → Word → DWord → DWord → Nat → Word))
  | .viadd w => some (w, fun a b _ _ _ _ => BitVec.ofInt 32 (a.toInt + b.toInt))
  | .visub w => some (w, fun a b _ _ _ _ => BitVec.ofInt 32 (a.toInt - b.toInt))
  | .vimul w => some (w, fun a b _ _ _ _ => BitVec.ofInt 32 (a.toInt * b.toInt))
  | .vfadd w => some (w, fun a b _ _ _ _ => perElem w.t.toNat
      (fun t a b _ => encVal t (n4 t) .ne (plusZero (sumExact .ne (fDecode t a) (fDecode t b)))) a b 0)
  | .vfmul w => some (w, fun a b _ _ _ _ => perElem w.t.toNat
      (fun t a b _ => encVal t (n4 t) .ne (plusZero (mulExact (fDecode t a) (fDecode t b)))) a b 0)
  | .vfma w => some (w, fun a b d _ _ _ => perElem w.t.toNat
      (fun t a b c => encVal t (n4 t) .ne (plusZero (sumExact .ne (mulExact (fDecode t a) (fDecode t b)) (fDecode t c)))) a b d)
  | .vmov w => some (w, fun a _ _ _ _ _ => a)
  | .vsplat w => some (w, fun _ _ _ ka _ _ => BitVec.ofNat 32 ka.toNat)
  | .viota w => some (w, fun _ _ _ ka kb l => BitVec.ofNat 32 (ka.toNat + l * kb.toNat))
  | .vlogic w => some (w, fun a b _ _ _ _ => match w.f.toNat with
    | 0 => a &&& b
    | 1 => a ||| b
    | 2 => a ^^^ b
    | 3 => if b.toNat < 32 then BitVec.ofNat 32 (a.toNat * 2 ^ b.toNat) else 0
    | 4 => if b.toNat < 32 then BitVec.ofNat 32 (a.toNat / 2 ^ b.toNat) else 0
    | _ => BitVec.ofInt 32 (a.toInt / 2 ^ min b.toNat 32))
  | _ => none

/-- The modes of VCVT: kind, source and destination format (R448, R453). -/
def vcvtTable (f : Nat) : Option (CvtKind × Elem × Elem) :=
  match f with
  | 0 => some (.lg, .flt fp32, .lg lg8)
  | 1 => some (.lg, .flt fp32, .lg lg16)
  | 2 => some (.ln, .lg lg8, .flt fp32)
  | 3 => some (.ln, .lg lg16, .flt fp32)
  | 4 => some (.cvt, .flt fp32, .flt bf16)
  | 5 => some (.cvt, .flt bf16, .flt fp32)
  | 6 => some (.cvt, .flt fp32, .flt fp16)
  | 7 => some (.cvt, .flt fp16, .flt fp32)
  | 8 => some (.cvt, .int 32, .flt fp32)
  | 9 => some (.cvt, .flt fp32, .int 32)
  | _ => none

/-- What KALU computes (R448, R454). -/
def kaluTable (f : Nat) (a b : DWord) : Option DWord :=
  let truth (p : Prop) [Decidable p] : Option DWord := some (if p then 1 else 0)
  match f with
  | 0 => some (BitVec.ofInt 64 (a.toInt + b.toInt))
  | 1 => some (BitVec.ofInt 64 (a.toInt - b.toInt))
  | 2 => some (BitVec.ofInt 64 (a.toInt * b.toInt))
  | 3 => some (a &&& b)
  | 4 => some (a ||| b)
  | 5 => some (a ^^^ b)
  | 6 => some (if b.toNat < 64 then BitVec.ofNat 64 (a.toNat * 2 ^ b.toNat) else 0)
  | 7 => some (if b.toNat < 64 then BitVec.ofNat 64 (a.toNat / 2 ^ b.toNat) else 0)
  | 8 => some (BitVec.ofInt 64 (a.toInt / 2 ^ min b.toNat 64))
  | 9 => some (BitVec.ofInt 64 (min a.toInt b.toInt))
  | 10 => some (BitVec.ofInt 64 (max a.toInt b.toInt))
  | 11 => some (BitVec.ofNat 64 (min a.toNat b.toNat))
  | 12 => some (BitVec.ofNat 64 (max a.toNat b.toNat))
  | 13 => truth (a = b)
  | 14 => truth (a ≠ b)
  | 15 => truth (a.toInt < b.toInt)
  | 16 => truth (a.toNat < b.toNat)
  | _ => none

/-- The integer operators of VRED, in the order of their codes (R448, R452). -/
def vredTable (f : Nat) : Option (Word → Word → Word) :=
  match f with
  | 0 => some (· + ·)
  | 1 => some (fun a b => if b.toInt < a.toInt then b else a)
  | 2 => some (fun a b => if a.toInt < b.toInt then b else a)
  | 3 => some (fun a b => if b.toNat < a.toNat then b else a)
  | 4 => some (fun a b => if a.toNat < b.toNat then b else a)
  | 5 => some (· &&& ·)
  | 6 => some (· ||| ·)
  | 7 => some (· ^^^ ·)
  | _ => none

/-- The kernel of a moraine core whose word runs. -/
def RunsKern (s : State) (m : Nat) (kn : Kern) : Prop := s.cur = some (.mor m) ∧ SMap.find? s.kerns m = some kn

/-- The accesses of a moraine memory word pass R442 and are on its own DRAM stack, at these physical addresses, and every byte that
it takes from its home can be had there (R443). -/
def MorReaches (s : State) (m : Nat) (kn : Kern) (as : List MAcc) (n : Nat) (acc : Acc) (pas : List Nat) : Prop :=
  morAddrFault as n = none ∧ pas.length = as.length ∧
  gateBy none (m / 16) kn.cons.ctx (askerOf s) (fun r => translate s none (m / 16) kn.cons.ctx r.va r.acc)
    (as.map (fun a => { lane := a.lane, va := a.addr, size := n, acc := acc })) = .go pas ∧
  (∀ pa ∈ pas, dramOf pa = some (m / 8)) ∧
  (acc = .read → ∀ pa ∈ pas, ∀ j, j < n → SMap.find? kn.writes (pa + j) = none → offline s pa = false ∧ poisoned s (pa + j) 1 = false)

/-- The accesses of the moraine memory words: every active lane's, or the scalar's, with their size and what they need (R450). -/
def morRow (r : MRegs) : Instr → Option (List MAcc × Nat × Acc)
  | .vldS w => some ((lanesOf (r.pr w.pred.toNat)).map (fun i => MAcc.mk i (wrapN 64 ((r.kr w.a.toNat).toNat + i * (r.kr w.b.toNat).toInt))), morSize w.t, .read)
  | .vstS w => some ((lanesOf (r.pr w.pred.toNat)).map (fun i => MAcc.mk i (wrapN 64 ((r.kr w.a.toNat).toNat + i * (r.kr w.b.toNat).toInt))), morSize w.t, .write)
  | .vldG w => some ((lanesOf (r.pr w.pred.toNat)).map (fun i => MAcc.mk i (wrapN 64 ((r.kr w.a.toNat).toNat +
      asInt (!w.f.getLsbD 2) (r.zr w.b.toNat i) * 2 ^ (w.f.toNat % 4)))), morSize w.t, .read)
  | .vstG w => some ((lanesOf (r.pr w.pred.toNat)).map (fun i => MAcc.mk i (wrapN 64 ((r.kr w.a.toNat).toNat +
      asInt (!w.f.getLsbD 2) (r.zr w.b.toNat i) * 2 ^ (w.f.toNat % 4)))), morSize w.t, .write)
  | .kld w => some ([MAcc.mk 0 (wrapN 64 ((r.kr w.a.toNat).toNat + w.imm.toInt * 8))], 8, .read)
  | .kst w => some ([MAcc.mk 0 (wrapN 64 ((r.kr w.a.toNat).toNat + w.imm.toInt * 8))], 8, .write)
  | _ => none

/-- What a moraine store writes of a lane (R450). -/
def morData (r : MRegs) : Instr → Nat → Nat
  | .vstS w, l => (r.zr w.d.toNat l).toNat
  | .vstG w, l => (r.zr w.d.toNat l).toNat
  | .kst w, _ => (r.kr w.d.toNat).toNat
  | _, _ => 0

/-- The branches of a moraine core and when they branch (R455). -/
def morBranchRow (r : MRegs) : Instr → Option (MJ × Bool)
  | .br w => some (w, true)
  | .bz w => some (w, decide (r.kr w.test.toNat = 0))
  | .bnz w => some (w, decide (r.kr w.test.toNat ≠ 0))
  | .bp w =>
    let p := r.pr (w.test.toNat % 8)
    some (w, if w.test.toNat / 8 = 0 then (List.range 64).any p.getLsbD
             else if w.test.toNat / 8 = 1 then !(List.range 64).any p.getLsbD else (List.range 64).all p.getLsbD)
  | _ => none

/-- What a kernel reads of a byte: its span's own write, else the home (R443). -/
def spanByte (s : State) (kn : Kern) (a : Nat) : Byte := (SMap.find? kn.writes a).getD (homeByte s a)

/-! ### Units that issue -/

/-- The state a move acts on: the schedule moved on, and what the time before it brings with it. -/
def afterEdges (s : State) (t : Tick) (rest : List Tick) : State := elapse { s with sched := rest } t

/-- The state in which a wave's word runs: the wave issues on a port, at the edge its core receives now (R32, R151). -/
def atWave (s : State) (v : Nat) (wv : Wave) (cl : Clause) (p : Nat) : State :=
  { s.setWave v { wv with cyc := coreEdges s (coreOfWave v), run := some { cl with port := p } } with cur := some (.wave v) }

/-- The state in which a sequencer's word runs. -/
def atSeq (s : State) (k : Nat) (sq : Seq) : State :=
  { s.setSeq k { sq with cyc := s.aclk } with cur := some (.seq k) }

end Sys2Proof.Machine
end

