-- ==== Sys2Proof/Certificates/Slice0/Obligations.lean ====
section
/-!
DEFINITION. The statements about the model: what its words decode to, what each instruction and event does where the spec
gives it an effect, what it leaves alone, and what every step keeps.
-/

open Sys2Proof Sys2Proof.Machine

/-- Decoding the 64-bit word of a well-formed wave or sequencer instruction, or the 32-bit word of a well-formed moraine
instruction, gives it back with every field; the three MCOOP rows are one word (R428, R447, R448). -/
def Obligations.NativeAndMoraineWordsDecodeToTheirInstruction : Prop :=
  (
    ∀ i : Instr, i.wf = true → i.kind = .native → decodeNative (encodeNative i) = .ok i.canon) ∧
  (
    ∀ i : Instr, i.wf = true → i.kind = .moraine → decodeMoraine (encodeMoraine i) = .ok i)

/-- A word that decodes is the encoding of what it decodes to, and that is well formed: no bit of a word is dropped
(R280, R297, R447). -/
def Obligations.DecodedWordsEncodeBack : Prop :=
  (∀ (x : DWord) (i : Instr), decodeNative x = .ok i → encodeNative i = x ∧ i.wf = true ∧ i.kind = .native) ∧
  (∀ (x : Word) (i : Instr), decodeMoraine x = .ok i → encodeMoraine i = x ∧ i.wf = true ∧ i.kind = .moraine)

/-- Words written out in the spec decode to the instructions the spec says they are. -/
def Obligations.WorkedWordsDecode : Prop :=
  decodeNative 0x3000E0B0560401E0 = .ok (.iadd { stall := 0, token := 7, d := 0x00B, a := 0x00A, b := 0x181, c := 0, msel := 15, reuse := false, mod := 0 }) ∧
  decodeNative 0x601BE0A0100C15E0 = .ok (.ffma { stall := 3, token := 7, d := 0x00A, a := 2, b := 3, c := 0x00A, msel := 15, reuse := false, mod := 0 }) ∧
  decodeNative 0xA0104080200009E1 = .ok (.ld .w { stall := 0, token := 2, d := 8, a := 4, b := 0, c := 4, msel := 15, reuse := false, mod := 1 }) ∧
  decodeNative 0x0000E001FFFFC040 = .ok (.bra { stall := 0, token := 7, d := 0, off := BitVec.ofInt 24 (-32), msel := 2 }) ∧
  decodeNative 0x4008E04012345040 = .ok (.movi { stall := 0, token := 7, d := 4, imm := 0x12345040 }) ∧
  decodeNative 0xDC00E0300E1401E0 = .ok (.sadd { stall := 0, token := 7, d := 3, a := 1, b := 0x185, c := 0, msel := 15, reuse := false, mod := 0 }) ∧
  decodeMoraine 0x5CA40004 = .ok (.kmovi { d := 5, sh := 0, z := true, imm := 4 }) ∧
  decodeMoraine 0x5863FFFF = .ok (.kaddi { d := 3, a := 3, imm := 0xFFFF }) ∧
  decodeMoraine 0x7C000000 = .ok .moraineExit

/-- A step that lets a wave issue runs the instruction its next code word decodes to, by exec, in the state in which that
wave is the one that issues; finishWave then moves the clause on (R149, R151, R278). It issues at the edge its core receives
now, no earlier than R290 permits, on its port (R32, R181), unless its region's timer has run out (R172). The word is the
eight little-endian bytes at the physical address that the core's TLB gives (R10, R196). -/
def Obligations.StepRunsTheWordOfAWave : Prop :=
  (∀ (s : State) (t : Tick) (rest : List Tick) (v p : Nat) (x : WCtx) (w : DWord) (i : Instr),
    let u := afterEdges s t rest
    let g := coreOfWave v
    s.sched = t :: rest → t.act = .issue (.wave v) →
    wctxOf u v (·.run) = some x → x.wv.stopped = false → x.wv.res = .resident → midClause u x.wv.ctx = true →
    stackRuns u (stackOfCore g) = true → edgeHere u g = true → npOver u v x.wv = false →
    x.cl.i < x.cl.count → x.wv.cyc ≤ coreEdges u g → portFor u v x.cl = some p → x.wv.spcount < 4096 →
    waveFetch u v x.wv (x.cl.h + 8 * (x.cl.i + 1)) = .word w →
    checkWord x.wv.access false x.cl (waveFetch u v x.wv) w = .ok i →
    decodeNative w = .ok i ∧
    step s = (match exec i (atWave u v x.wv x.cl p) with
      | .next r => .next (finishWave (atWave u v x.wv x.cl p) i v r)
      | .fault f => .fault f
      | .refused f => .refused f)) ∧
  (∀ (s : State) (g st c va pa : Nat), va < 2 ^ 52 →
    translate s (some g) st c va .fetch = .hit pa → offline s pa = false → poisoned s pa 8 = false →
    pathWaits s st (homeEnd pa) = false →
    fetchCode s (some g) st c va = .word (BitVec.ofNat 64 (natOfBytes (homeBytes s pa 8)))) ∧
  (∀ (s t : State) (i : Instr) (v : Nat) (wv wv0 : Wave) (cl cl0 : Clause), t.issue = .done →
    SMap.find? t.waves v = some wv → SMap.find? s.waves v = some wv0 → wv.run = some cl → wv0.run = some cl0 →
    cl.i + 1 < cl.count → cl.run ≠ 0 →
    ∃ wv', SMap.find? (finishWave s i v t).waves v = some wv' ∧ wv'.run = some { cl with i := cl.i + 1 } ∧
      wv'.spcount = wv.spcount + 1 ∧ wv'.pcs = wv.pcs ∧ wv'.v = wv.v ∧ wv'.w = wv.w ∧ wv'.m = wv.m)

/-- A step that lets a sequencer issue runs the instruction its next code word decodes to, and one that lets a moraine core
issue the instruction that the word at its pc in the moraine section decodes to (R402, R403, R437, R449). -/
def Obligations.StepRunsTheWordOfASequencerOrAMoraineCore : Prop :=
  (
    ∀ (s : State) (t : Tick) (rest : List Tick) (k : Nat) (sq : Seq) (cl : Clause) (w : DWord) (i : Instr),
      s.sched = t :: rest → t.act = .issue (.seq k) →
      SMap.find? (afterEdges s t rest).seqs k = some sq → seqRuns (afterEdges s t rest) k sq = true → sq.run = some cl →
      cl.i < cl.count → sq.cyc ≤ (afterEdges s t rest).aclk → seqFetch (afterEdges s t rest) k sq (cl.h + 8 * (cl.i + 1)) = .word w →
      checkWord false true cl (seqFetch (afterEdges s t rest) k sq) w = .ok i →
      decodeNative w = .ok i ∧
      step s = (match exec i (atSeq (afterEdges s t rest) k sq) with
        | .next r => .next (finishSeq i k r)
        | .fault f => .fault f
        | .refused f => .refused f)) ∧
  (
    ∀ (s : State) (t : Tick) (rest : List Tick) (m : Nat) (kn : Kern) (im : Image) (w : Word) (i : Instr),
      s.sched = t :: rest → t.act = .issue (.mor m) →
      SMap.find? (afterEdges s t rest).kerns m = some kn → moraineRuns (afterEdges s t rest) m kn = true →
      imageOf (afterEdges s t rest) kn.cons.ctx kn.cons.img = some im → im.mcode[kn.regs.pc]? = some w →
      decodeMoraine w = .ok i →
      step s = (match exec i { afterEdges s t rest with cur := some (.mor m) } with
        | .next r => .next { r with cur := none, issue := .done }
        | .fault f => .fault f
        | .refused f => .refused f))

/-- A step runs the event the schedule names; a host write to BAR 0 runs the events the register brings about, in order;
every event answers a next state; without power nothing but a fundamental reset and the host's own memory acts (R50); while the ACLK tree stands still the
events of the units on it do not happen (R31). The clock edges pass first, and are the ones the schedule names unless the
ACLK tree stands still; each base die counts its own MCLK edges (R5, R31, R34). -/
def Obligations.StepRunsTheEventOfTheSchedule : Prop :=
  (∀ (s : State) (i : Instr), i.kind = .event → ∃ t, exec i s = .next t) ∧
  (∀ (s : State) (t : Tick) (rest : List Tick) (i : Instr), s.sched = t :: rest → t.act = .event i →
    (afterEdges s t rest).power = true → i.kind = .event → hostRow i = false →
    (afterEdges s t rest).moving = none ∨ treeRow i = false → step s = exec i (afterEdges s t rest)) ∧
  (∀ (s : State) (t : Tick) (rest : List Tick) (i : Instr), s.sched = t :: rest → t.act = .event i →
    (afterEdges s t rest).power = true → (afterEdges s t rest).moving ≠ none → treeRow i = true →
    step s = .next (afterEdges s t rest)) ∧
  (∀ (s : State) (t : Tick) (rest : List Tick) (w : HostWrite), s.sched = t :: rest → t.act = .hostWrite w →
    (afterEdges s t rest).power = true → step s = execAll (hostRows (afterEdges s t rest) w) (afterEdges s t rest)) ∧
  (∀ (s : State) (t : Tick) (rest : List Tick), s.sched = t :: rest → (afterEdges s t rest).power = false →
    t.act ≠ .event .pcieFundamentalReset → (∀ a bs, t.act ≠ .hostMem a bs) → step s = .next (afterEdges s t rest)) ∧
  (∀ (s : State) (t : Tick) (rest : List Tick),
    (afterEdges s t rest).hclk = s.hclk + t.h ∧
    (SMap.sortedFrom 0 s.mclk = true → ∀ d, d < 4 → (afterEdges s t rest).mclkOf d = s.mclkOf d + t.m.getD d 0) ∧
    (afterEdges s t rest).aclk = s.aclk + (if s.moving.isSome then 0 else t.a) ∧ (afterEdges s t rest).sched = rest)

/-- After reset: every context DISABLED with nothing in its ring, CTX_NBV at N4, no launch in flight and 65,536 tokens; every
die in RUN; no wave, team, sequencer program or kernel; no TLB entry, no L1 line and no walk; the fault log empty; SNAP_CTL
armed; HUB_TIME zero; and the invariants of memory, of the memory system and of the sparse maps hold (R39, R59-R64, R72, R76,
R130). -/
def Obligations.ResetLeavesTheModuleIdle : Prop :=
  (
    (∀ c, (State.reset.ctx c).st = .disabled ∧ (State.reset.ctx c).nbv = 4 ∧ (State.reset.ctx c).launches = [] ∧
      (State.reset.ctx c).images = [] ∧ (State.reset.ctx c).tokens = 65536 ∧ (State.reset.ctx c).pageWait = false ∧
      (State.reset.ctx c).budgetOut = false) ∧
    (∀ d, (State.reset.die d).st = .run) ∧
    State.reset.waves = [] ∧ State.reset.teams = [] ∧ State.reset.seqs = [] ∧ State.reset.kerns = [] ∧
    State.reset.queues = [] ∧ State.reset.transit = [] ∧ State.reset.l1 = [] ∧ State.reset.tlb1 = [] ∧ State.reset.tlb2 = [] ∧
    State.reset.walks = [] ∧ State.reset.hclk = 0 ∧ State.reset.hub.flogWr = 0 ∧ State.reset.hub.flogRd = 0 ∧
    State.reset.hub.errStatus = 0 ∧ State.reset.hub.armed = true ∧ State.reset.hub.taken = false ∧ State.reset.msix = []) ∧
  (
    State.reset.memWf = true ∧ State.reset.inOrder = true ∧ State.reset.canon = true)

/-- Every step keeps DRAM and host memory in canonical form. -/
def Obligations.StepsKeepMemoryCanonical : Prop :=
  ∀ s t : State, s.memWf = true → step s = .next t → t.memWf = true

/-- No step changes the harvest map or a key that is programmed, and MIN_SVN never falls (R37, R82). -/
def Obligations.StepsKeepFuses : Prop :=
  ∀ s t : State, step s = .next t → s.fuses.keeps t.fuses

/-- Every step keeps the sparse maps of the state in order, each key listed once, so that a read finds what the last write left. -/
def Obligations.StepsKeepTheStateCanonical : Prop :=
  ∀ s t : State, s.canon = true → step s = .next t → t.canon = true

/-- Integer, shift, logic, bit-field and move words: when the checks of R288 pass, each active lane receives the result the
tables of R341, R343 and R344 give for its own sources, and nothing else of the state changes. -/
def Obligations.IntegerWordsWriteTheirTable : Prop :=
  ∀ (s : State) (x : WCtx) (i : Instr) (w : VWord) (ops : List (OpKind2 × BitVec 9)) (lat : Nat),
    intOperands i = some (w, ops, lat) → waveOf s w.msel = some x → issueFault s x ops lat = none →
    exec i s = .next (s.setWave x.v (x.wv.put s.free lat w.d x.e (fun l =>
      intTable i (readSrc s x.v x.wv .int w.a l) (readSrc s x.v x.wv .int w.b l) (readSrc s x.v x.wv .int w.c l))))

/-- ICMP, SEL, MOV, MOVI and their destinations (R346); AADD64 and AMAD64 add modulo 2^64 (R347). -/
def Obligations.ComparesSelectsAndAddressWords : Prop :=
  (
    (∀ (s : State) (x : WCtx) (cc : Cmp) (w : VWord), waveOf s w.msel = some x →
      issueFault s x [(.maskOrDst, w.d), (.src, w.a), (.src, w.b)] 2 = none →
      let out (l : Nat) : Bool := Cmp.onInts cc (asInt (w.mod.getLsbD 0 && cc.ordered) (readSrc s x.v x.wv .int w.a l))
        (asInt (w.mod.getLsbD 0 && cc.ordered) (readSrc s x.v x.wv .int w.b l))
      exec (.icmp cc w) s = .next (s.setWave x.v
        (if isM w.d.toNat then x.wv.putM s.free 2 (w.d.toNat - 0x140) x.e out
         else x.wv.put s.free 2 w.d x.e (fun l => if out l then 1 else 0)))) ∧
    (∀ (s : State) (x : WCtx) (w : VWord), waveOf s w.msel = some x →
      issueFault s x [(.dst, w.d), (.src, w.a), (.src, w.b), (.maskSrc, w.c)] 2 = none →
      exec (.sel w) s = .next (s.setWave x.v (x.wv.put s.free 2 w.d x.e (fun l =>
        readSrc s x.v x.wv .int (if (readM s x.wv (w.c.toNat - 0x140)).getLsbD l then w.a else w.b) l)))) ∧
    (∀ (s : State) (x : WCtx) (w : VWord), waveOf s w.msel = some x → issueFault s x [(.dst, w.d), (.src, w.a)] 2 = none →
      exec (.mov w) s = .next (s.setWave x.v (x.wv.put s.free 2 w.d x.e (readSrc s x.v x.wv .int w.a)))) ∧
    (∀ (s : State) (x : WCtx) (w : LWord), waveOf s 15 = some x → issueFault s x [(.dst, w.d)] 2 = none →
      exec (.movi w) s = .next (s.setWave x.v (x.wv.put s.free 2 w.d x.cl.run (fun _ => w.imm))))) ∧
  (
    (∀ (s : State) (x : WCtx) (w : VWord), waveOf s w.msel = some x →
      issueFault s x [(.dstN 2, w.d), (.srcN 2, w.a), (.src, w.b)] 2 = none →
      exec (.aadd64 w) s = .next (s.setWave x.v (x.wv.putPair s.free 2 w.d x.e (fun l =>
        BitVec.ofInt 64 (((readPair s x.v x.wv w.a l).toNat : Int) + (readSrc s x.v x.wv .int w.b l).toInt))))) ∧
    (∀ (s : State) (x : WCtx) (w : VWord), waveOf s w.msel = some x →
      issueFault s x [(.dstN 2, w.d), (.srcN 2, w.a), (.src, w.b), (.src, w.c)] 4 = none →
      exec (.amad64 w) s = .next (s.setWave x.v (x.wv.putPair s.free 4 w.d x.e (fun l =>
        BitVec.ofInt 64 (((readPair s x.v x.wv w.a l).toNat : Int) +
          (readSrc s x.v x.wv .int w.b l).toInt * ((readSrc s x.v x.wv .int w.c l).toNat : Int)))))))

/-- WriteOperand: a v destination receives, in each lane of E, that lane's result, and in no other lane and in no other
register anything changes; a w destination receives the result of the lowest lane of E, and nothing when E is empty; the bits
of a mask register change for the lanes of E alone (R287, R313, R337). Nothing else of the wave changes but the marks of what
is still on its way; a lane with an earlier write to the register still on its way may keep the old value (R293). -/
def Obligations.RegisterWritesStayInTheirLanes : Prop :=
  (∀ (free lat : Nat) (wv : Wave) (d : BitVec 9) (e : Mask) (f : Nat → Word) (r l : Nat),
    SMap.sortedFrom 0 wv.v = true → d.toNat < 0x100 → l < 64 →
    (r = d.toNat → e.getLsbD l = true →
      (wv.put free lat d e f).getV r l = f l ∨
      (wv.haz.any (fun h => h.key == vKey r l) = true ∧ (wv.put free lat d e f).getV r l = wv.getV r l)) ∧
    (r ≠ d.toNat ∨ e.getLsbD l = false → (wv.put free lat d e f).getV r l = wv.getV r l)) ∧
  (∀ (free lat : Nat) (wv : Wave) (d : BitVec 9) (e : Mask) (f : Nat → Word) (r : Nat),
    SMap.sortedFrom 0 wv.w = true → isW d.toNat = true →
    (r + 0x100 = d.toNat → e ≠ 0 →
      (wv.put free lat d e f).getW r = f (lowestLane e) ∨
      (wv.haz.any (fun h => h.key == wKey r) = true ∧ (wv.put free lat d e f).getW r = wv.getW r)) ∧
    (r + 0x100 ≠ d.toNat ∨ e = 0 → (wv.put free lat d e f).getW r = wv.getW r)) ∧
  (∀ (free lat : Nat) (wv : Wave) (n : Nat) (e : Mask) (f : Nat → Bool) (r l : Nat),
    SMap.sortedFrom 0 wv.m = true → l < 64 →
    (r = n → e.getLsbD l = true →
      ((wv.putM free lat n e f).getM r).getLsbD l = f l ∨
      (wv.haz.any (fun h => h.key == mKey r) = true ∧
        ((wv.putM free lat n e f).getM r).getLsbD l = (wv.getM r).getLsbD l)) ∧
    (r ≠ n ∨ e.getLsbD l = false → ((wv.putM free lat n e f).getM r).getLsbD l = (wv.getM r).getLsbD l)) ∧
  (∀ (free lat : Nat) (wv : Wave) (d : BitVec 9) (e : Mask) (f : Nat → Word),
    (wv.put free lat d e f) =
      { wv with v := (wv.put free lat d e f).v, w := (wv.put free lat d e f).w, haz := (wv.put free lat d e f).haz,
                ops := (wv.put free lat d e f).ops }) ∧
  (∀ (free lat : Nat) (wv : Wave) (d : BitVec 9) (e : Mask) (f : Nat → Word),
    (d.toNat < 0x100 → (wv.put free lat d e f).w = wv.w) ∧ (¬ d.toNat < 0x100 → (wv.put free lat d e f).v = wv.v)) ∧
  (∀ (free lat : Nat) (wv : Wave) (n : Nat) (e : Mask) (f : Nat → Bool),
    wv.putM free lat n e f = { wv with m := (wv.putM free lat n e f).m, haz := (wv.putM free lat n e f).haz,
                                       ops := (wv.putM free lat n e f).ops })

/-- The checks of R288 come before anything an integer word does: one whose operand codes, register range or scoreboard fail
has no effect but its fault, with the reason and the slot in SUBCODE (R279, R288, R337). Taking a fatal fault: the context is
FAULTED at once with its FATAL_CAUSE, the report goes to the hub, and the wave issues no further word; in a
context that is not ACTIVE the fault is only reported, which is the model's reading of R59 and R69 (log 28); in one that has
faulted already the entry is SECONDARY and the cause stays (R69). Registers, memory and every other context stay as they were. -/
def Obligations.ChecksComeFirstAndFatalFaultsStopTheContext : Prop :=
  (
    (∀ (s : State) (x : WCtx) (i : Instr) (w : VWord) (ops : List (OpKind2 × BitVec 9)) (lat : Nat) (f : FaultInfo),
      intOperands i = some (w, ops, lat) → waveOf s w.msel = some x → issueFault s x ops lat = some f →
      exec i s = .next (faultWave s x f)) ∧
    (∀ (s : State) (x : WCtx) (ops : List (OpKind2 × BitVec 9)) (lat r : Nat), operandsReason ops = some r →
      issueFault s x ops lat = some { cause := 0x11, sub := r + (x.cl.i + 1) * 256, va := 0, lanes := x.e, detail := 0 }) ∧
    (∀ (s : State) (x : WCtx) (ops : List (OpKind2 × BitVec 9)) (lat : Nat), operandsReason ops = none →
      (∃ o ∈ ops, operandInRange x.nd x.wv.access o = false) →
      issueFault s x ops lat = some { cause := 0x12, sub := 0, va := 0, lanes := x.e, detail := 0 }) ∧
    (∀ (s : State) (x : WCtx) (ops : List (OpKind2 × BitVec 9)) (lat : Nat), operandsReason ops = none →
      (∀ o ∈ ops, operandInRange x.nd x.wv.access o = true) → (s.ctx x.wv.ctx).dbgScb = false →
      issueFault s x ops lat = none)) ∧
  (
    (∀ (s : State) (x : WCtx) (f : FaultInfo), (s.ctx x.wv.ctx).st = .active →
      ((faultWave s x f).ctx x.wv.ctx).st = .faulted ∧ ((faultWave s x f).ctx x.wv.ctx).fatal = f.cause) ∧
    (∀ (s : State) (x : WCtx) (f : FaultInfo), (s.ctx x.wv.ctx).st ≠ .active →
      (faultWave s x f).ctxs = s.ctxs) ∧
    (∀ (s : State) (x : WCtx) (f : FaultInfo), ∃ r : Report,
      (faultWave s x f).hub.reports = s.hub.reports ++ [r] ∧ r.cause = f.cause ∧ r.ctx = x.wv.ctx ∧ r.sub = f.sub ∧
      r.lanes = f.lanes ∧ r.pc = x.cl.h ∧ r.unit = unitOfCore (coreOfWave x.v) ∧ r.wave = x.v % 48 ∧
      (r.flags / 4 % 2 = 1 ↔ (s.ctx x.wv.ctx).st = .faulted)) ∧
    (∀ (s : State) (x : WCtx) (f : FaultInfo), (faultWave s x f).waves = SMap.insert x.v { x.wv with stopped := true } s.waves ∧
      (faultWave s x f).mem = s.mem ∧ (faultWave s x f).sys = s.sys ∧ (faultWave s x f).l1 = s.l1 ∧
      (faultWave s x f).issue = .faulted ∧ (faultWave s x f).queues = s.queues ∧
      ∀ c, c ≠ x.wv.ctx → (faultWave s x f).ctx c = s.ctx c))

/-- FADD to FMAX, FCMP, FFRC and FRND: each active lane receives the result of the context's numeric-behaviour version, for
each element of its type (R339, R349-R351, R353). -/
def Obligations.FloatingWordsFollowTheVersion : Prop :=
  ∀ (s : State) (x : WCtx) (w : VWord), waveOf s w.msel = some x →
    let n := (s.ctx x.wv.ctx).nbv
    let rd (code : BitVec 9) (l : Nat) : Word := readSrc s x.v x.wv (constOfType (w.mod.toNat / 4)) code l
    let two := [(OpKind2.dst, w.d), (.src, w.a), (.src, w.b)]
    let res (lat : Nat) (f : Fmt → Nat → Nat → Nat → Nat) : State := s.setWave x.v (x.wv.put s.free lat w.d x.e (fun l =>
      perElem (w.mod.toNat / 4) f (rd w.a l) (rd w.b l) (rd w.c l)))
    let mode := rmOf (w.mod.toNat % 4)
    (issueFault s x two 4 = none →
      exec (.fadd w) s = .next (res 4 (fun t a b _ => fAdd t (rulesOf n t) mode a b)) ∧
      exec (.fsub w) s = .next (res 4 (fun t a b _ => fSub t (rulesOf n t) mode a b)) ∧
      exec (.fmul w) s = .next (res 4 (fun t a b _ => fMul t (rulesOf n t) mode a b)) ∧
      exec (.fmin w) s = .next (res 4 (fun t a b _ => fMinMax t (rulesOf n t) false a b)) ∧
      exec (.fmax w) s = .next (res 4 (fun t a b _ => fMinMax t (rulesOf n t) true a b))) ∧
    (issueFault s x (two ++ [(.src, w.c)]) 4 = none →
      exec (.ffma w) s = .next (res 4 (fun t a b c => fFma t (rulesOf n t) mode a b c))) ∧
    (issueFault s x [(.dst, w.d), (.src, w.a)] 6 = none →
      exec (.ffrc w) s = .next (res 6 (fun t a _ _ => fFrc n t a)) ∧
      exec (.frnd w) s = .next (res 6 (fun t a _ _ => fRnd n t mode a))) ∧
    (∀ cc, issueFault s x [(.maskOrDst, w.d), (.src, w.a), (.src, w.b)] 4 = none → isM w.d.toNat = false →
      exec (.fcmp cc w) s = .next (res 4 (fun t a b _ => if fCmp t (rulesOf n t) (FCmp.num cc) a b then 1 else 0))) ∧
    (∀ cc, issueFault s x [(.maskOrDst, w.d), (.src, w.a), (.src, w.b)] 4 = none → isM w.d.toNat = true →
      exec (.fcmp cc w) s = .next (s.setWave x.v (x.wv.putM s.free 4 (w.d.toNat - 0x140) x.e (fun l =>
        (perElem (w.mod.toNat / 4) (fun t a b _ => if fCmp t (rulesOf n t) (FCmp.num cc) a b then 1 else 0)
          (rd w.a l) (rd w.b l) 0).getLsbD 0))))

/-- The words of group VAR that write registers, FRCP to FCOS and the FP64 words, leave their registers as they are when they
issue and put an operation in flight, whose results the token's completion writes; they count their token up, and at 63 they
wait (R289, R291, R352, R354). FRCP to FLOG2 complete 8 to 32 ACLK after their last issue cycle, FSIN and FCOS 8 to 64 (R352). -/
def Obligations.VariableLatencyWordsGoInFlight : Prop :=
  (∀ (s : State) (x : WCtx) (w : VWord) (i : Instr) (f : Fn), fnRow i = some (w, f) → waveOf s w.msel = some x →
    issueFault s x [(.dst, w.d), (.src, w.a)] 1000 = none → x.e ≠ 0 → tokenFull x.wv w.token = false →
    exec i s = .next (inFlight s x w.token (lastCycle x.wv x.e + 8)
      (lastCycle x.wv x.e + (if f = .sin ∨ f = .cos then 64 else 32)) (regWrites w.d x.e (fun l =>
      perElem (w.mod.toNat / 4) (fun t a _ _ => fFn f (s.ctx x.wv.ctx).nbv t a)
        (readSrc s x.v x.wv (constOfType (w.mod.toNat / 4)) w.a l) 0 0)) x.wv)) ∧
  (∀ (s : State) (x : WCtx) (w : VWord) (i : Instr) (three : Bool) (f : Nat → Nat → Nat → Nat),
    fp64Row i = some (w, three, f) → waveOf s w.msel = some x →
    issueFault s x ([(.dstN 2, w.d), (.srcN 2, w.a), (.srcN 2, w.b)] ++ (if three then [(.srcN 2, w.c)] else [])) 1000 = none →
    x.e ≠ 0 → tokenFull x.wv w.token = false →
    let rd (code : BitVec 9) (l : Nat) : Nat := (readPair s x.v x.wv code l).toNat
    let val (l : Nat) : DWord := BitVec.ofNat 64 (f (rd w.a l) (rd w.b l) (if three then rd w.c l else 0))
    exec i s = .next (inFlight s x w.token 0 0
      (regWrites w.d x.e (fun l => (val l).setWidth 32) ++ regWrites (w.d + 1) x.e (fun l => (val l).extractLsb' 32 32))
      { x.wv with cyc := x.wv.cyc + 31 * (lastCycle x.wv x.e - x.wv.cyc + 1) })) ∧
  (∀ (s : State) (x : WCtx) (w : VWord) (i : Instr) (f : Fn), fnRow i = some (w, f) → waveOf s w.msel = some x →
    issueFault s x [(.dst, w.d), (.src, w.a)] 1000 = none → x.e ≠ 0 → tokenFull x.wv w.token = true →
    exec i s = .next s.waitIssue) ∧
  (∀ (s : State) (x : WCtx) (tok : BitVec 3) (lo hi : Nat) (rs : List RegWrite) (k : Nat), tokenOf tok = some k →
    SMap.sortedFrom 0 x.wv.tok = true →
    ∃ wv, SMap.find? (inFlight s x tok lo hi rs x.wv).waves x.v = some wv ∧ wv.getTok k = x.wv.getTok k + 1 ∧ wv.v = x.wv.v ∧
      wv.w = x.wv.w)

/-- CVT, CVTLG and CVTLN convert k = floor(32 / max(ws, wd)) elements of each active lane by the slots of the node, write them
packed with zeros above, and set NSTAT as the conversions state; an inline constant is read in the source slot's format; the
slots must suit the word, the scale word must be one, and without a block scale B must be 0 (R355-R357). Stochastic rounding
alone takes random words: element i of the active lane at position j takes word j * k + i of the cluster's generator, which
bits [63:48] of the state after that many increments are; a request out of the order of R426 waits at issue. -/
def Obligations.ConversionsConvertEachElement : Prop :=
  (∀ (s : State) (x : WCtx) (w : VWord) (i : Instr) (k : CvtKind) (lat : Nat), cvtRow i = some (w, k, lat) →
    waveOf s w.msel = some x →
    let sr := x.nd.slots.getD w.slotA 0
    let ds := x.nd.slots.getD w.slotB 0
    let scaled : Bool := slotBlock sr == 1 || slotBlock ds == 1
    let ops : List (OpKind2 × BitVec 9) := [(.dst, w.d), (.src, w.a)] ++ (if scaled then [(.src, w.b)] else [])
    (scaled = false → w.b ≠ 0 → exec i s = .next (faultWave s x (.of 0x10 (2 + (x.cl.i + 1) * 256) x.e))) ∧
    (scaled = true ∨ w.b = 0 → issueFault s x ops lat = none → x.e ≠ 0 → slotsSuit k sr ds = false →
      exec i s = .next (faultWave s x (.of 0x61 (16 * w.slotA + w.slotB) x.e))) ∧
    (scaled = true → issueFault s x ops lat = none → x.e ≠ 0 → slotsSuit k sr ds = true →
      (lanesOf x.e).filter (fun l => readSrc s x.v x.wv .int w.b l >>> 24 != 0) ≠ [] →
      exec i s = .next (faultWave s x (.of 0x60 0
        (maskOf ((lanesOf x.e).filter (fun l => readSrc s x.v x.wv .int w.b l >>> 24 != 0)))))) ∧
    (∀ (se de : Elem), elemOf (slotElem sr) = some se → elemOf (slotElem ds) = some de →
      scaled = true ∨ w.b = 0 → issueFault s x ops lat = none → x.e ≠ 0 → slotsSuit k sr ds = true →
      (scaled = true → ∀ l ∈ lanesOf x.e, readSrc s x.v x.wv .int w.b l >>> 24 = 0) →
      let ne := 32 / max se.width de.width
      let cl := clusterOfCore (coreOfWave x.v)
      let stoch : Bool := !w.mod.getLsbD 2 && slotRound ds == 1
      let pos (l : Nat) : Nat := ((lanesOf x.e).filter (fun h => decide (h < l))).length
      let rnd (l j : Nat) : Nat := if stoch then randomWord (s.rng cl) (pos l * ne + j) else 0
      let mode (l j : Nat) : Rm := cvtMode (s.ctx x.wv.ctx).nbv se de
        (if w.mod.getLsbD 2 then some (w.mod.toNat % 4) else none) (slotRound ds) (rnd l j)
      let a (l : Nat) : Word :=
        if isConst w.a.toNat then cvtConst (slotElem sr) ne w.a.toNat else readSrc s x.v x.wv .int w.a l
      let sigma (block l : Nat) : Int := if block = 1 then sext 24 (readSrc s x.v x.wv .int w.b l).toNat else 0
      let el (l : Nat) := cvtElems k (s.ctx x.wv.ctx).nbv se de (mode l) (slotSat ds) (sigma (slotBlock sr) l)
        (sigma (slotBlock ds) l) (a l)
      let wv := (x.wv.put s.free lat w.d x.e (fun l => packed de.width (el l))).flag
        (((lanesOf x.e).flatMap el).foldl (fun f r => f ||| r.2) 0)
      (stoch = false → exec i s = .next (s.setWave x.v wv)) ∧
      (stoch = true → rngTurn s cl (rngPlace x.v) = true →
        exec i s = .next ((serveRng s cl (rngPlace x.v) ((lanesOf x.e).length * ne)).setWave x.v wv)) ∧
      (stoch = true → rngTurn s cl (rngPlace x.v) = false → exec i s = .next s.waitIssue))) ∧
  (∀ (s : State) (k place n : Nat), serveRng s k place n = { s with rngs := (serveRng s k place n).rngs } ∧
    (SMap.sortedFrom 0 s.rngs = true →
      (serveRng s k place n).rng k = { st := (s.rng k).st + BitVec.ofNat 64 n * ((s.rng k).inc ||| 1), inc := (s.rng k).inc,
                                       served := (s.aclk, place) })) ∧
  (∀ (s : State) (k place : Nat), rngTurn s k place = false ↔ (s.rng k).served.1 = s.aclk ∧ place < (s.rng k).served.2) ∧
  (∀ (v u : Nat), v / 48 / 4 = u / 48 / 4 → (rngPlace v < rngPlace u ↔ v < u)) ∧ (∀ v, 0 < rngPlace v)

/-- SHFL takes a from the source lane the table of R360 gives when it is valid, and the fill otherwise; BCAST takes the lowest
lane of E in the subgroup (R359, R360). -/
def Obligations.ShufflesTakeTheirSourceLane : Prop :=
  (∀ (s : State) (x : WCtx) (w : VWord) (i : Instr) (f : Nat → Nat → Nat → Nat → Option Nat), shufTable i = some (w, f) →
    waveOf s w.msel = some x → issueFault s x [(.dst, w.d), (.src, w.a), (.src, w.b), (.src, w.c)] 6 = none →
    let G := 2 ^ (w.mod.toNat % 8)
    exec i s = .next (s.setWave x.v (x.wv.put s.free 6 w.d x.e (fun l =>
      let q := (readSrc s x.v x.wv .int w.b l).toNat
      match f G (l / G * G) l q with
      | some k =>
        if k / G = l / G ∧ x.e.getLsbD k = true ∧ k < x.wv.width then readSrc s x.v x.wv .int w.a k
        else readSrc s x.v x.wv .int w.c l
      | none => readSrc s x.v x.wv .int w.c l)))) ∧
  (∀ (s : State) (x : WCtx) (w : VWord), waveOf s w.msel = some x → issueFault s x [(.dst, w.d), (.src, w.a)] 6 = none →
    let G := 2 ^ (w.mod.toNat % 8)
    exec (.bcast w) s = .next (s.setWave x.v (x.wv.put s.free 6 w.d x.e (fun l =>
      readSrc s x.v x.wv .int w.a (((lanesOf x.e).find? (fun k => k / G == l / G)).getD l)))))

/-- REDX and SCANX reduce a over the lanes of E in the subgroup, for SCANX those up to the lane's own: the integer operators
give the sum, the least or greatest, or the bitwise combination, in any order; FADD, FMIN and FMAX go by the fixed tree of R361
under N4's rules. -/
def Obligations.ReductionsCombineTheirSubgroup : Prop :=
  ∀ (s : State) (x : WCtx) (w : VWord) (i : Instr) (op : XOp) (scan : Bool), reduceRow i = some (w, op, scan) →
    waveOf s w.msel = some x → issueFault s x [(.dst, w.d), (.src, w.a)] 6 = none → w.mod.toNat % 8 < 7 →
    let G := 2 ^ (w.mod.toNat % 8)
    let counted (l k : Nat) : Bool := k / G == l / G && (!scan || decide (k ≤ l))
    let vals (l : Nat) : List Word := ((lanesOf x.e).filter (counted l)).map (readSrc s x.v x.wv .int w.a)
    (∀ f, intCombine op (w.mod.getLsbD 3) = some f →
      exec i s = .next (s.setWave x.v (x.wv.put s.free 6 w.d x.e (fun l => match vals l with
        | [] => 0
        | v :: vs => vs.foldl f v)))) ∧
    (intCombine op (w.mod.getLsbD 3) = none →
      exec i s = .next (s.setWave x.v (x.wv.put s.free 6 w.d x.e (fun l =>
        nanToCanonical ((tree op false (w.mod.toNat % 8) ((List.range G).map (fun j =>
          if x.e.getLsbD (l / G * G + j) && (!scan || decide (l / G * G + j ≤ l)) then
            some (readSrc s x.v x.wv .int w.a (l / G * G + j)) else none))).getD 0)))))

/-- VLDX and VSTX reach v[base + U(b)] of their own lane through an x register; an index that reaches the limit is
F_INDEX_RANGE, a register past VREGS or in the window F_REG_RANGE, and then no lane reads or writes; XSET sets base and limit
within 255 and 256 (R363-R365). -/
def Obligations.IndexedWordsReachTheirRegisters : Prop :=
  (∀ (s : State) (x : WCtx) (w : VWord), waveOf s w.msel = some x → (s.ctx x.wv.ctx).dbgScb = false →
    let bl (l : Nat) := readX s x.wv (w.a.toNat - 0x150) l
    let ix (l : Nat) : Nat := (readSrc s x.v x.wv .int w.b l).toNat
    let past := (lanesOf x.e).filter (fun l => decide ((bl l).2 ≤ (bl l).1 + ix l))
    let out := (lanesOf x.e).filter (fun l => !vInRange x.nd x.wv.access ((bl l).1 + ix l))
    (issueFault s x [(.vDst 1 1, w.d), (.idxSrc, w.a), (.src, w.b)] 4 = none →
      (past = [] → out = [] → exec (.vldx w) s = .next (s.setWave x.v (x.wv.put s.free 4 w.d x.e (fun l =>
        readV s x.wv ((bl l).1 + ix l) l)))) ∧
      (∀ l ls, past = l :: ls → exec (.vldx w) s =
        .next (faultWave s x (indexReport (w.a.toNat - 0x150) (maskOf past) (ix l) (bl l)))) ∧
      (past = [] → out ≠ [] → exec (.vldx w) s = .next (faultWave s x (.of 0x12 0 (maskOf out))))) ∧
    (issueFault s x [(.idxSrc, w.a), (.src, w.b), (.src, w.c)] 0 = none →
      (past = [] → out = [] → exec (.vstx w) s = .next (s.setWave x.v ((lanesOf x.e).foldl (fun u l =>
        u.writeV s.free x.wv.cyc ((bl l).1 + ix l) l (readSrc s x.v x.wv .int w.c l)) x.wv))) ∧
      (∀ l ls, past = l :: ls → exec (.vstx w) s =
        .next (faultWave s x (indexReport (w.a.toNat - 0x150) (maskOf past) (ix l) (bl l)))))) ∧
  (∀ (s : State) (x : WCtx) (w : VWord), waveOf s w.msel = some x →
    issueFault s x [(.idxDst, w.d), (.uni, w.a), (.uni, w.b)] 2 = none → x.e ≠ 0 →
    let base := (readUni s x.v x.wv w.a).toNat
    let limit := (readUni s x.v x.wv w.b).toNat
    (base ≤ 255 → limit ≤ 256 →
      exec (.xset w) s = .next (s.setWave x.v (x.wv.putX s.free 2 (w.d.toNat - 0x150) x.e (base, limit))) ∧
      (x.wv.haz.any (fun h => h.key == xKey (w.d.toNat - 0x150)) = false →
        (x.wv.putX s.free 2 (w.d.toNat - 0x150) x.e (base, limit)).x = SMap.set (0, 0) (w.d.toNat - 0x150) (base, limit) x.wv.x)) ∧
    (255 < base ∨ 256 < limit → exec (.xset w) s =
      .next (faultWave s x (indexReport (0x100 + (w.d.toNat - 0x150)) x.e base (limit, 0)))))

/-- MSET to MCPY set the bits of their mask register for the lanes of E; a mask with an arrival set is busy; MBAL writes the
mask as a 64-bit number with the bits at and above W cleared (R313, R314). -/
def Obligations.MaskWordsWriteTheirLanes : Prop :=
  (∀ (s : State) (x : WCtx) (w : VWord) (i : Instr) (ops : List (OpKind2 × BitVec 9)) (f : Bool → Bool → Word → Bool),
    maskTable i = some (w, ops, f) → waveOf s w.msel = some x → issueFault s x ops 2 = none → x.e ≠ 0 →
    (SMap.get 0 x.wv.arr (w.d.toNat - 0x140) = 0 →
      exec i s = .next (s.setWave x.v (x.wv.putM s.free 2 (w.d.toNat - 0x140) x.e (fun l =>
        f ((readM s x.wv (w.a.toNat - 0x140)).getLsbD l) ((readM s x.wv (w.b.toNat - 0x140)).getLsbD l)
          (readSrc s x.v x.wv .int w.a l))))) ∧
    (SMap.get 0 x.wv.arr (w.d.toNat - 0x140) ≠ 0 →
      exec i s = .next (faultWave s x (.of 0x52 (w.d.toNat - 0x140) x.e)))) ∧
  (∀ (s : State) (x : WCtx) (w : VWord), waveOf s w.msel = some x → issueFault s x [(.dstN 2, w.d), (.maskSrc, w.a)] 2 = none →
    exec (.mbal w) s = .next (s.setWave x.v (x.wv.putPair s.free 2 w.d x.e (fun _ =>
      readM s x.wv (w.a.toNat - 0x140) &&& BitVec.ofNat 64 (2 ^ x.wv.width - 1)))))

/-- JOIN and LEAVE set and clear the bits of E in the mask, and the release check follows; WAITM adds E to the arrival set:
its threads wait while a thread of the mask has not arrived, and else the set is released and the threads that waited go on
(R153, R314). The check empties each arrival set that holds every thread of its mask, and makes exactly its threads ready. -/
def Obligations.ConvergenceWordsFollowTheMask : Prop :=
  (∀ (s : State) (x : WCtx) (w : VWord), waveOf s w.msel = some x → issueFault s x [(.maskJoin, w.d)] 0 = none → x.e ≠ 0 →
    let n := w.d.toNat - 0x140
    exec (.join w) s = .next (s.setWave x.v ((x.wv.setM n (x.wv.getM n ||| x.e)).releaseMasks s.aclk)) ∧
    exec (.leave w) s = .next (s.setWave x.v ((x.wv.setM n (x.wv.getM n &&& ~~~ x.e)).releaseMasks s.aclk)) ∧
    (x.wv.getM n &&& ~~~ (SMap.get 0 x.wv.arr n ||| x.e) ≠ 0 →
      exec (.waitm w) s = .next (s.setWave x.v (({ x.wv.waitLanes x.cl x.e (fun _ => .mask n) with
        arr := SMap.set 0 n (SMap.get 0 x.wv.arr n ||| x.e) x.wv.arr }).releaseMasks s.aclk))) ∧
    (x.wv.getM n &&& ~~~ (SMap.get 0 x.wv.arr n ||| x.e) = 0 →
      exec (.waitm w) s = .next (s.setWave x.v (({ x.wv.wakeLanes s.aclk (SMap.get 0 x.wv.arr n) with
        arr := SMap.erase n x.wv.arr }).releaseMasks s.aclk)))) ∧
  (∀ (now : Nat) (wv : Wave), (∀ n, n < 12 → SMap.get 0 wv.arr n = 0 ∨ wv.getM n &&& ~~~ (SMap.get 0 wv.arr n) ≠ 0) →
    wv.releaseMasks now = wv) ∧
  (∀ (now : Nat) (wv : Wave), SMap.sortedFrom 0 wv.arr = true →
    let done (n : Nat) : Prop := n < 12 ∧ SMap.get 0 wv.arr n ≠ 0 ∧ wv.getM n &&& ~~~ (SMap.get 0 wv.arr n) = 0
    let r := wv.releaseMasks now
    r = { wv with pcs := r.pcs, arr := r.arr, readySince := r.readySince } ∧
    (∀ n, done n → SMap.get 0 r.arr n = 0) ∧
    (∀ n, ¬ done n → SMap.get 0 r.arr n = SMap.get 0 wv.arr n) ∧
    (∀ l, SMap.find? wv.pcs l = none → SMap.find? r.pcs l = none) ∧
    (∀ l p, SMap.find? wv.pcs l = some p →
      ((∃ n, done n ∧ (SMap.get 0 wv.arr n).getLsbD l = true) → SMap.find? r.pcs l = some { p with wait := none }) ∧
      ((∀ n, done n → (SMap.get 0 wv.arr n).getLsbD l = false) → SMap.find? r.pcs l = some p)))

/-- BRA, CALL, BRX and RET: each active thread leaves the run for its target, and the other threads of the run go on with the
next word. A target must be a multiple of 8 that holds a clause header: else the word faults with reason 1 or 2, as the target
of the lowest lane that fails decides, for the lanes of that target; a translated SEGEND.INDIRECT goes to the header of the
listed segment, or faults with reason 4. CALL pushes the header after the clause, for a translated SEGEND.CALL that of
its return segment, and faults at 16 entries, RET pops the top and faults when there is none (R149, R294, R308, R309). -/
def Obligations.BranchesSendTheirThreads : Prop :=
  (∀ (s : State) (x : WCtx) (w : CWord), waveOf s w.msel = some x → x.e ≠ 0 →
    let T := (((x.cl.h : Int) + 8 * w.off.toInt) % 2 ^ 64).toNat
    headerAt s x T →
    exec (.bra w) s = .next (s.setWave x.v (x.wv.branch x.cl ((lanesOf x.e).map (fun l => (l, T))))) ∧
    ((∀ l ∈ lanesOf x.e, (retOf x.wv l).length < 16) →
      exec (.call w) s = .next (s.setWave x.v (setRet (fun r => returnOf s x.wv.ctx x.wv.img x.cl :: r) x.e
        (x.wv.branch x.cl ((lanesOf x.e).map (fun l => (l, T)))))))) ∧
  (∀ (s : State) (x : WCtx) (w : CWord), waveOf s w.msel = some x →
    (lanesOf x.e).filter (fun l => decide ((retOf x.wv l).length ≥ 16)) ≠ [] →
    exec (.call w) s = .next (faultWave s x (.of 0x53 1 (maskOf ((lanesOf x.e).filter (fun l => decide ((retOf x.wv l).length ≥ 16))))))) ∧
  (∀ (s : State) (x : WCtx) (w : VWord), waveOf s w.msel = some x → x.e ≠ 0 →
    (indirectOf s x.wv.ctx x.wv.img (x.cl.h + 8 * (x.cl.i + 1)) = none → issueFault s x [(.regPair, w.a)] 0 = none →
      (∀ l ∈ lanesOf x.e, headerAt s x (readPair s x.v x.wv w.a l).toNat) →
      exec (.brx w) s = .next (s.setWave x.v (x.wv.branch x.cl ((lanesOf x.e).map (fun l =>
        (l, (readPair s x.v x.wv w.a l).toNat)))))) ∧
    ((∀ l ∈ lanesOf x.e, ∃ T r, retOf x.wv l = T :: r ∧ headerAt s x T) →
      exec (.ret w) s = .next (s.setWave x.v (setRet List.tail x.e
        (x.wv.branch x.cl ((lanesOf x.e).map (fun l => (l, (retOf x.wv l).headD 0)))))))) ∧
  (∀ (s : State) (x : WCtx) (w : VWord), waveOf s w.msel = some x →
    (lanesOf x.e).filter (fun l => (retOf x.wv l).isEmpty) ≠ [] →
    exec (.ret w) s = .next (faultWave s x (.of 0x53 2 (maskOf ((lanesOf x.e).filter (fun l => (retOf x.wv l).isEmpty)))))) ∧
  (∀ (s : State) (c img : Nat) (cl : Clause), (∀ im, imageOf s c img = some im → SMap.find? im.rets cl.h = none) →
    returnOf s c img cl = cl.h + 8 * (cl.count + 1)) ∧
  (∀ (s : State) (c img : Nat) (cl : Clause) (im : Image) (r : Nat), imageOf s c img = some im →
    SMap.find? im.rets cl.h = some r → returnOf s c img cl = r) ∧
  (∀ (wv : Wave) (cl : Clause) (ts : List (Nat × Nat)) (l T : Nat), l < 64 → (ts.map (·.1)).Nodup → (l, T) ∈ ts →
    ∃ c, (wv.branch cl ts).run = some c ∧ c.run.getLsbD l = false ∧ SMap.find? c.gone l = some T ∧ c.h = cl.h ∧ c.i = cl.i) ∧
  (∀ (wv : Wave) (cl : Clause) (ts : List (Nat × Nat)) (l : Nat), l < 64 → (∀ t ∈ ts, t.1 ≠ l) →
    ∃ c, (wv.branch cl ts).run = some c ∧ c.run.getLsbD l = cl.run.getLsbD l ∧ SMap.find? c.gone l = SMap.find? cl.gone l ∧
      (wv.branch cl ts).pcs = wv.pcs) ∧
  (∀ (s : State) (x : WCtx) (w : CWord) (r : Nat), waveOf s w.msel = some x → x.e ≠ 0 →
    targetReason s x (((x.cl.h : Int) + 8 * w.off.toInt) % 2 ^ 64).toNat = some r →
    exec (.bra w) s = .next (faultWave s x (.of 0x14 (r + (x.cl.i + 1) * 256) x.e)) ∧
    ((∀ l ∈ lanesOf x.e, (retOf x.wv l).length < 16) →
      exec (.call w) s = .next (faultWave s x (.of 0x14 (r + (x.cl.i + 1) * 256) x.e)))) ∧
  (∀ (s : State) (x : WCtx) (w : VWord) (tgt : Nat → Nat) (l r : Nat), waveOf s w.msel = some x →
    (∀ j ∈ lanesOf x.e, tgt j % 8 = 0 → ∀ ws, waveFetch s x.v x.wv (tgt j) ≠ .wait ws) →
    (lanesOf x.e).find? (fun j => (targetReason s x (tgt j)).isSome) = some l → targetReason s x (tgt l) = some r →
    let out := faultWave s x (.of 0x14 (r + (x.cl.i + 1) * 256) (maskOf ((lanesOf x.e).filter (fun j => tgt j == tgt l))))
    (indirectOf s x.wv.ctx x.wv.img (x.cl.h + 8 * (x.cl.i + 1)) = none → issueFault s x [(.regPair, w.a)] 0 = none →
      (∀ j ∈ lanesOf x.e, tgt j = (readPair s x.v x.wv w.a j).toNat) → exec (.brx w) s = .next out) ∧
    ((∀ j ∈ lanesOf x.e, ∃ rs, retOf x.wv j = tgt j :: rs) → exec (.ret w) s = .next out)) ∧
  (∀ (s : State) (x : WCtx) (w : VWord) (segs : SMap Nat), waveOf s w.msel = some x → x.e ≠ 0 →
    indirectOf s x.wv.ctx x.wv.img (x.cl.h + 8 * (x.cl.i + 1)) = some segs → issueFault s x [(.src, w.a)] 0 = none →
    let key (l : Nat) : Nat := (if x.wv.access then 2 ^ 32 else 0) + (readSrc s x.v x.wv .int w.a l).toNat
    (∀ tgt : Nat → Nat, (∀ l ∈ lanesOf x.e, SMap.find? segs (key l) = some (tgt l) ∧ headerAt s x (tgt l)) →
      exec (.brx w) s = .next (s.setWave x.v (x.wv.branch x.cl ((lanesOf x.e).map (fun l => (l, tgt l)))))) ∧
    (∀ l, (lanesOf x.e).find? (fun j => (SMap.find? segs (key j)).isNone) = some l →
      exec (.brx w) s = .next (faultWave s x (.of 0x14 (4 + (x.cl.i + 1) * 256)
        (maskOf ((lanesOf x.e).filter (fun j => readSrc s x.v x.wv .int w.a j == readSrc s x.v x.wv .int w.a l)))))))

/-- NOP does nothing; YIELD marks its clause, and NPENTER and NPLEAVE open and close a non-preemptible region of the whole
wave, F_NP_STATE where they may not (R172, R311, R319). -/
def Obligations.RegionsAndYield : Prop :=
  (∀ (s : State) (x : WCtx) (w : VWord), waveOf s w.msel = some x →
    exec (.nop w) s = .next s ∧
    (x.e ≠ 0 → exec (.yield w) s = .next (s.setWave x.v { x.wv with run := some { x.cl with yielded := true } })) ∧
    (x.e ≠ 0 → x.cl.run = x.wv.live → x.wv.np = none →
      (∀ t, SMap.find? s.teams x.wv.team = some t → t.st ≠ .stopping) →
      exec (.npenter w) s = .next (s.setWave x.v { x.wv with np := some (coreEdges s (coreOfWave x.v)) })) ∧
    (x.e ≠ 0 → x.cl.run = x.wv.live → x.wv.np ≠ none →
      exec (.npleave w) s = .next (s.setWave x.v { x.wv with np := none })) ∧
    (x.e ≠ 0 → x.cl.run ≠ x.wv.live ∨ x.wv.np ≠ none → exec (.npenter w) s = .next (faultWave s x (.of 0x54 0 x.e))) ∧
    (x.e ≠ 0 → x.cl.run ≠ x.wv.live ∨ x.wv.np = none → exec (.npleave w) s = .next (faultWave s x (.of 0x54 0 x.e)))) ∧
  (∀ (s : State) (x : SCtx) (w : VWord), seqOf s = some x → exec (.nop w) s = .next s ∧ exec (.yield w) s = .next s)

/-- BAR, SEMSIG, SEMWAIT and WAITLINE. At a barrier every active thread waits, unless every thread of every compute wave of
the team is then there: the barrier completes, the threads that waited go on, and the core's writes go home and its copies go (a
cross-path completion as log 12 reads it); a second barrier is F_BAR_STATE. SEMSIG adds to a semaphore and serves its queue:
heads are satisfied in order while the count covers them, and their threads go on. SEMWAIT takes from the count or waits behind
the others. In one ACLK the signals act before the waits, each in slot order. WAITLINE waits where the word read equals b
(R157, R209, R218, R315-R318). -/
def Obligations.SynchronisationWords : Prop :=
  (∀ (s : State) (x : WCtx) (w : VWord) (t : Team), waveOf s w.msel = some x → SMap.find? s.teams x.wv.team = some t →
    x.e ≠ 0 →
    let a := (readUni s x.v x.wv w.a).toNat
    let b := (readUni s x.v x.wv w.b).toNat
    let waiting := s.setWave x.v (x.wv.waitLanes x.cl x.e (fun _ => .bar a))
    (issueFault s x [(.uni, w.a)] 0 = none → a ≤ 15 → waitingBar x.wv = none ∨ waitingBar x.wv = some a →
      (barReady waiting t a = true → exec (.bar w) s = .next (barRelease s t a)) ∧
      (barReady waiting t a = false → exec (.bar w) s = .next waiting)) ∧
    (∀ c, issueFault s x [(.uni, w.a)] 0 = none → a ≤ 15 → waitingBar x.wv = some c → c ≠ a →
      exec (.bar w) s = .next (faultWave s x (.of 0x50 a x.e))) ∧
    (issueFault s x [(.uni, w.a)] 0 = none → 15 < a → exec (.bar w) s = .next (faultWave s x (.of 0x50 a x.e))) ∧
    (issueFault s x [(.uni, w.a), (.uni, w.b)] 0 = none → a ≤ 63 → b ≤ 65535 →
      (∀ took, semTurn s x t a (x.v % 48) = some took →
        (SMap.get 0 t.sems a + took + b ≤ 65535 → exec (.semsig w) s =
          .next (semCheck (s.setTeam x.wv.team ({ t with sems := SMap.set 0 a (SMap.get 0 t.sems a + b) t.sems }.semMark s x a
            (x.v % 48) took)) x.wv.team a)) ∧
        (65535 < SMap.get 0 t.sems a + took + b → exec (.semsig w) s = .next (faultWave s x (.of 0x51 a x.e)))) ∧
      (∀ took, semTurn s x t a (48 + x.v % 48) = some took →
        (SMap.get [] t.semq a = [] → b ≤ SMap.get 0 t.sems a → exec (.semwait w) s =
          .next (s.setTeam x.wv.team { t.semMark s x a (48 + x.v % 48) took with
            sems := SMap.set 0 a (SMap.get 0 t.sems a - b) t.sems })) ∧
        (SMap.get [] t.semq a ≠ [] ∨ SMap.get 0 t.sems a < b → exec (.semwait w) s =
          .next ((s.setWave x.v (x.wv.waitLanes x.cl x.e (fun _ => .sem a))).setTeam x.wv.team
            { t.semMark s x a (48 + x.v % 48) took with
              semq := SMap.set [] a (SMap.get [] t.semq a ++ [(b, x.v, x.e)]) t.semq }))) ∧
      (semTurn s x t a (x.v % 48) = none → exec (.semsig w) s = .next s.waitIssue) ∧
      (semTurn s x t a (48 + x.v % 48) = none → exec (.semwait w) s = .next s.waitIssue)) ∧
    (∀ rank,
      ((∀ m, SMap.find? t.semAt a = some m → m.1 ≠ coreEdges s (coreOfWave x.v)) → semTurn s x t a rank = some 0) ∧
      (∀ m, SMap.find? t.semAt a = some m → m.1 = coreEdges s (coreOfWave x.v) →
        semTurn s x t a rank = if m.2.1 < rank then some m.2.2 else none) ∧
      (∀ took, t.semMark s x a rank took = { t with semAt := (t.semMark s x a rank took).semAt } ∧
        SMap.find? (t.semMark s x a rank took).semAt a = some (coreEdges s (coreOfWave x.v), rank, took))) ∧
    (issueFault s x [(.uni, w.a), (.uni, w.b)] 0 = none → 63 < a ∨ 65535 < b →
      exec (.semsig w) s = .next (faultWave s x (.of 0x51 a x.e)) ∧ exec (.semwait w) s = .next (faultWave s x (.of 0x51 a x.e)))) ∧
  (∀ (wv : Wave), waitingBar wv = none ↔ ∀ p ∈ wv.pcs, ∀ b, p.2.wait ≠ some (.bar b)) ∧
  (∀ (s : State) (team b : Nat) (t : Team), SMap.find? s.teams team = some t →
    let ws := t.waves.filterMap (fun v => match SMap.find? s.waves v with
      | some wv => if wv.access then none else some (v, wv)
      | none => none)
    (barReady s t b = true ↔ (∃ w ∈ ws, w.2.pcs ≠ []) ∧ (∀ w ∈ ws, w.2.live &&& ~~~ w.2.atBar b = 0) ∧
      releaseWaits s t.core = false) ∧
    barRelease s t b = ws.foldl (fun s w => s.setWave w.1 (w.2.wakeLanes s.aclk (w.2.atBar b))) (crossPath s t.core t.cons.ctx) ∧
    (∀ e ∈ (crossPath s t.core t.cons.ctx).l1, l1Core e.1 ≠ t.core) ∧
    barCheck s team b = if barReady s t b then barRelease s t b else s) ∧
  (∀ (s : State) (team i k : Nat) (t : Team), SMap.find? s.teams team = some t →
    SMap.sortedFrom 0 t.sems = true → SMap.sortedFrom 0 t.semq = true →
    let q := SMap.get [] t.semq i
    let taken := ((q.take k).map (fun h => h.1)).sum
    k ≤ q.length → taken ≤ SMap.get 0 t.sems i → (∀ h, q[k]? = some h → SMap.get 0 t.sems i < taken + h.1) →
    ∃ t', SMap.find? (semCheck s team i).teams team = some t' ∧
      t' = { t with sems := t'.sems, semq := t'.semq, semAt := t'.semAt } ∧
      SMap.get 0 t'.sems i = SMap.get 0 t.sems i - taken ∧ SMap.get [] t'.semq i = q.drop k ∧
      (∀ j, j ≠ i → SMap.get 0 t'.sems j = SMap.get 0 t.sems j ∧ SMap.get [] t'.semq j = SMap.get [] t.semq j) ∧
      SMap.find? t'.semAt i = (SMap.find? t.semAt i).map (fun a => (a.1, a.2.1, a.2.2 + taken)) ∧
      semCheck s team i = { s with teams := (semCheck s team i).teams, waves := (semCheck s team i).waves } ∧
      ∀ v wv l p, SMap.find? s.waves v = some wv → SMap.find? wv.pcs l = some p → l < 64 →
        ∃ wv', SMap.find? (semCheck s team i).waves v = some wv' ∧
          ((∃ h ∈ q.take k, h.2.1 = v ∧ h.2.2.getLsbD l = true) → SMap.find? wv'.pcs l = some { p with wait := none }) ∧
          ((∀ h ∈ q.take k, h.2.1 = v → h.2.2.getLsbD l = false) → SMap.find? wv'.pcs l = some p)) ∧
  (∀ (s : State) (x : WCtx) (w : VWord) (t : Team), waveOf s w.msel = some x → SMap.find? s.teams x.wv.team = some t →
    issueFault s x [(.srcN 2, w.a), (.src, w.b)] 0 = none → ∀ (l pa : Nat), lanesOf x.e = [l] →
    let va := (readPair s x.v x.wv w.a l).toNat
    va < 2 ^ 52 → va % 4 = 0 → (∀ lk ∈ t.locks, lk.2.glob = true → lk.2.dst = true → (va + 4 ≤ lk.2.lo ∨ lk.2.hi ≤ va)) →
    xlate s (some (coreOfWave x.v)) (stackOfCore (coreOfWave x.v)) x.wv.ctx { lane := l, va := va, size := 4, acc := .read } = .hit pa →
    let r := coreRead s (coreOfWave x.v) pa 4
    (isSys pa = true ∨ natOfBytes r.2 ≠ (readSrc s x.v x.wv .int w.b l).toNat → exec (.waitline w) s = .next r.1) ∧
    (isSys pa = false → natOfBytes r.2 = (readSrc s x.v x.wv .int w.b l).toNat →
      ∃ u m, exec (.waitline w) s = .next u ∧ m ∈ u.mons ∧ m.wave = x.v ∧ m.lane = l ∧ m.line = pa / 128))

/-- QAPP appends one record per active lane in ascending lane order, each with the lane's SIZE bytes from v[A] on, the wave's
launch tag, depth 0 and no parent; the reservation falls by as many. Into a vertical FIFO with room the same records go. The
checks of its table come first, and a full FIFO makes the word wait; a word with more records than the FIFO has entries issues
on an empty one, its reservation falls and its records stand in line, and it holds its port and the FIFO until the last of them
has its place (R253, R321). -/
def Obligations.AppendsSendOneRecordPerLane : Prop :=
  (∀ (s : State) (x : WCtx) (w : VWord) (tm : Team) (e : Edge), waveOf s w.msel = some x →
    SMap.find? s.teams x.wv.team = some tm → x.e ≠ 0 → x.cl.sent = 0 →
    issueFault s x [(.vBlock (portWords s tm.cons w.mod.toNat), w.a)] 0 = none →
    let k := tm.cons
    let port := w.mod.toNat
    let n := (lanesOf x.e).length
    let size := recSize s k.ctx k.img e.dst
    let kind := kindOf s k.ctx k.img e.dst
    let recs := (lanesOf x.e).zipIdx.map (fun p => sentRecord s (laneWords s x w.a.toNat size p.1) x.wv.tag 0 none p.2)
    (portEdge s k.ctx k.img k.node port = none → exec (.qapp w) s = .next (faultWave s x (.of 0x40 port x.e))) ∧
    (portEdge s k.ctx k.img k.node port = some e →
      (dataInRange x w.a.toNat (size / 4) = false → exec (.qapp w) s = .next (faultWave s x (.of 0x12 0 x.e))) ∧
      (dataInRange x w.a.toNat (size / 4) = true → e.cont = true →
        exec (.qapp w) s = .next (faultWave s x (.of 0x42 port x.e))) ∧
      (dataInRange x w.a.toNat (size / 4) = true → e.cont = false → SMap.get 0 k.resv port < n →
        exec (.qapp w) s = .next (faultWave s x (.of 0x40 port x.e))) ∧
      (dataInRange x w.a.toNat (size / 4) = true → e.cont = false → n ≤ SMap.get 0 k.resv port →
        SMap.sortedFrom 0 k.resv = true → SMap.sortedFrom 0 s.vqs = true →
        (kind ≠ 1 → kind ≠ 2 → ∃ t tm', exec (.qapp w) s = .next t ∧
          t.transit = s.transit ++ recs.map (fun r => Transit.mk (0x10000 + x.v) (stackOfCore (coreOfWave x.v)) k.ctx k.img e.dst r .no) ∧
          SMap.find? t.teams x.wv.team = some tm' ∧
          tm' = { tm with cons := { k with resv := tm'.cons.resv } } ∧ SMap.get 0 tm'.cons.resv port = SMap.get 0 k.resv port - n ∧
          t.waves = s.waves ∧ t.mem = s.mem ∧ t.sys = s.sys ∧ t.l1 = s.l1 ∧ t.vqs = s.vqs) ∧
        (kind = 1 ∨ kind = 2 → n ≤ fifoDepth kind → fifoRoom s (coreOfWave x.v) kind n = true → ∃ t tm', exec (.qapp w) s = .next t ∧
          fifoOf (t.vq (coreOfWave x.v)) kind = fifoOf (s.vq (coreOfWave x.v)) kind ++ recs.map (EItem.item k.ctx k.img e.dst) ∧
          SMap.find? t.teams x.wv.team = some tm' ∧ SMap.get 0 tm'.cons.resv port = SMap.get 0 k.resv port - n ∧
          t.waves = s.waves ∧ t.mem = s.mem ∧ t.sys = s.sys ∧ t.l1 = s.l1 ∧ t.transit = s.transit) ∧
        (kind = 1 ∨ kind = 2 → fifoDepth kind < n → fifoRoom s (coreOfWave x.v) kind n = true → ∃ t tm' wv', exec (.qapp w) s = .next t ∧
          fifoOf (t.vq (coreOfWave x.v)) kind = recs.map (EItem.item k.ctx k.img e.dst) ∧
          SMap.find? t.teams x.wv.team = some tm' ∧ SMap.get 0 tm'.cons.resv port = SMap.get 0 k.resv port - n ∧
          SMap.find? (t.vq (coreOfWave x.v)).hold kind = some x.v ∧ t.issue = .hold ∧
          SMap.find? t.waves x.v = some wv' ∧ wv' = { x.wv with run := some { x.cl with sent := 1 } }) ∧
        (kind = 1 ∨ kind = 2 → fifoRoom s (coreOfWave x.v) kind n = false → exec (.qapp w) s = .next s.waitIssue)))) ∧
  (∀ (s : State) (x : WCtx) (w : VWord), waveOf s w.msel = some x → x.cl.sent ≠ 0 → SMap.sortedFrom 0 s.vqs = true →
    let g := coreOfWave x.v
    let mine (kind : Nat) : Prop := (kind = 1 ∨ kind = 2) ∧ SMap.find? (s.vq g).hold kind = some x.v
    ((∃ kind, mine kind ∧ fifoDepth kind < (fifoOf (s.vq g) kind).length) → exec (.qapp w) s = .next s.holdIssue) ∧
    ((∀ kind, mine kind → (fifoOf (s.vq g) kind).length ≤ fifoDepth kind) → ∃ t, exec (.qapp w) s = .next t ∧
      SMap.find? t.waves x.v = some { x.wv with run := some { x.cl with sent := 0 } } ∧
      (∀ kind, fifoOf (t.vq g) kind = fifoOf (s.vq g) kind) ∧
      (SMap.sortedFrom 0 (s.vq g).hold = true → ∀ kind, mine kind → SMap.find? (t.vq g).hold kind = none)))

/-- QRSV lowers the reservation by min(n, remaining) and Rv of the destination with it, and does nothing on a port with no
edge; POSTR ORs the active lanes' values into the node's result word, and faults in a node without one (R322, R325). RECLD
reads k words of the lane's own record and writes them when its token completes; an offset that is misaligned or leaves the
record is F_RECORD_RANGE, and no lane writes. QPOP takes the head entry of the window for the whole wave and gives it to the
lanes of E, waits while it is not ready, and faults where none can come (R167, R323, R324). -/
def Obligations.ReservationsResultsRecordReadsAndPops : Prop :=
  (
    (∀ (s : State) (x : WCtx) (w : VWord) (tm : Team), waveOf s w.msel = some x → SMap.find? s.teams x.wv.team = some tm →
      issueFault s x [(.uni, w.a)] 0 = none →
      let k := tm.cons
      let n := min (readUni s x.v x.wv w.a).toNat (SMap.get 0 k.resv w.mod.toNat)
      let lower : Cons := { k with resv := SMap.set 0 w.mod.toNat (SMap.get 0 k.resv w.mod.toNat - n) k.resv }
      (∀ e, portEdge s k.ctx k.img k.node w.mod.toNat = some e →
        exec (.qrsv w) s = .next { s with
          queues := SMap.modify (qidOf s k.ctx k.img e.dst) (fun q => { q with rv := q.rv - n }) s.queues
          teams := SMap.modify x.wv.team (fun t => { t with cons := lower }) s.teams }) ∧
      (portEdge s k.ctx k.img k.node w.mod.toNat = none → exec (.qrsv w) s = .next s)) ∧
    (∀ (s : State) (x : WCtx) (w : VWord), waveOf s w.msel = some x → issueFault s x [(.src, w.a)] 0 = none →
      let posted (old : Word) : Word := (lanesOf x.e).foldl (fun a k => a ||| readSrc s x.v x.wv .int w.a k) old
      let post (l : Launch) : Launch :=
        { l with results := SMap.set 0 x.wv.node (posted (SMap.get 0 l.results x.wv.node)) l.results }
      (x.nd.result = true → exec (.postr w) s = .next (s.setCtx x.wv.ctx { s.ctx x.wv.ctx with
        launches := SMap.modify x.wv.tag post (s.ctx x.wv.ctx).launches })) ∧
      (x.nd.result = false → x.e ≠ 0 → exec (.postr w) s = .next (faultWave s x (.of 0x44 0 x.e))))) ∧
  (
    (∀ (s : State) (x : WCtx) (w : VWord), waveOf s w.msel = some x →
      let k := w.c.toNat - 0x180
      issueFault s x [(.vDst k 1, w.d), (.src, w.a), (.only ((List.range 16).map (· + 0x181)), w.c)] 1000 = none → x.e ≠ 0 →
      let off (l : Nat) : Nat := (readSrc s x.v x.wv .int w.a l).toNat
      let bad := (lanesOf x.e).filter (fun l => off l % 4 != 0 || decide (off l + 4 * k > recSize s x.wv.ctx x.wv.img x.wv.node))
      (bad = [] → tokenFull x.wv w.token = false →
        exec (.recld w) s = .next (inFlight s x w.token 0 0 ((List.range k).flatMap (fun j =>
          regWrites (w.d + BitVec.ofNat 9 j) x.e (fun l =>
            ((x.wv.recs[l]?).map (fun r => r.words.getD (off l / 4 + j) 0)).getD 0))) x.wv)) ∧
      (∀ l ls, bad = l :: ls → exec (.recld w) s = .next (faultWave s x (.of 0x43 (off l) (maskOf bad))))) ∧
    (∀ (s : State) (x : WCtx) (w : VWord), waveOf s w.msel = some x → issueFault s x [(.vDst 1 1, w.d)] 2 = none → x.e ≠ 0 →
      (0 < x.wv.qc → SMap.get 0 x.wv.qready x.wv.qh = 1 → pendingPops x.wv = [] →
        ∃ u, exec (.qpop w) s = .next (s.setWave x.v u) ∧ u.qc = x.wv.qc - 1 ∧ u.qh = (x.wv.qh + 1) % x.nd.qlen ∧
          u = { x.wv with v := u.v, haz := u.haz, ops := u.ops, qc := u.qc, qh := u.qh, qready := SMap.erase x.wv.qh x.wv.qready } ∧
          (SMap.sortedFrom 0 x.wv.v = true → ∀ r l, l < 64 →
            (r = w.d.toNat → x.e.getLsbD l = true → x.wv.haz.any (fun h => h.key == vKey r l) = false →
              u.getV r l = x.wv.getV (x.nd.qbase + x.wv.qh) l) ∧
            (r ≠ w.d.toNat ∨ x.e.getLsbD l = false → u.getV r l = x.wv.getV r l))) ∧
      (x.wv.qc = 0 → accessAlive s x.wv = false → exec (.qpop w) s = .next (faultWave s x (.of 0x45 0 x.e))) ∧
      ((0 < x.wv.qc ∨ accessAlive s x.wv = true) →
        (x.wv.qc = 0 ∨ SMap.get 0 x.wv.qready x.wv.qh ≠ 1 ∨ pendingPops x.wv ≠ []) →
        ∃ n, exec (.qpop w) s = .next (s.setWave x.v (x.wv.waitLanes x.cl x.e (fun _ => .pop (n * 256 + w.d.toNat)))))))

/-- EXIT ends the threads of E: they leave the PC table and their bits leave every mask register and arrival set; in a compute
wave their records retire, in an access wave nothing does (R138, R152, R326). A record retires when it has exited and no child
is left. EXIT.C appends, by lane and within a lane by port, one record per port with depth d + 1 and the parent token of the
lane's record, and then the threads of E leave; its checks come first, in the order of R327, and then nothing is appended;
it waits while a vertical FIFO has no room for its records (R253), and of more of them than the FIFO has entries all stand in line
and the threads leave at once. -/
def Obligations.ExitsEndThreadsAndAppendByLaneAndPort : Prop :=
  (
    (∀ (s : State) (x : WCtx) (w : VWord), waveOf s w.msel = some x → x.e ≠ 0 →
      let s1 := s.setWave x.v (x.wv.exitLanes s.aclk x.cl x.e)
      (x.wv.access = true → exec (.exitW w) s = .next s1) ∧
      (x.wv.access = false → exec (.exitW w) s = .next (barChecks ((lanesOf x.e).foldl (fun s l =>
        match laneRec x.wv l with
        | some r => recDone s x.wv.ctx x.wv.tag r.id 0
        | none => s) s1) x.wv.team))) ∧
    (∀ (now : Nat) (wv : Wave) (cl : Clause) (e : Mask) (l : Nat), l < 64 → e.getLsbD l = true →
      SMap.find? (wv.exitLanes now cl e).pcs l = none ∧ (wv.exitLanes now cl e).live = wv.live &&& ~~~ e ∧
      (∀ n, ((wv.exitLanes now cl e).getM n).getLsbD l = false ∧ (SMap.get 0 (wv.exitLanes now cl e).arr n).getLsbD l = false) ∧
      (wv.exitLanes now cl e).v = wv.v ∧ (wv.exitLanes now cl e).w = wv.w ∧ (wv.exitLanes now cl e).nstat = wv.nstat ∧
      (SMap.sortedFrom 0 wv.m = true → ∀ n l', e.getLsbD l' = false → ((wv.exitLanes now cl e).getM n).getLsbD l' = (wv.getM n).getLsbD l')) ∧
    (∀ (s : State) (c tag id kids : Nat) (l : Launch) (par : Option Nat) (n nd : Nat) (b : Bool),
      SMap.sortedFrom 0 s.ctxs = true → launchOf s c tag = some l → SMap.sortedFrom 0 l.tree = true →
      SMap.find? l.tree id = some (par, n, nd, b) →
      ∃ l', launchOf (recDone s c tag id kids) c tag = some l' ∧
        (0 < n + kids → SMap.find? l'.tree id = some (par, n + kids, nd, true) ∧ l'.unret = l.unret) ∧
        (n + kids = 0 → SMap.find? l'.tree id = none))) ∧
  (
    ∀ (s : State) (x : WCtx) (w : VWord) (tm : Team), waveOf s w.msel = some x → SMap.find? s.teams x.wv.team = some tm →
      x.e ≠ 0 → x.cl.sent = 0 →
      let k := tm.cons
      let ports := (List.range w.nPorts).map w.exitPort
      issueFault s x [(.vBlock ((ports.map (portWords s k)).foldl max 1), w.a)] 0 = none →
      let edge (p : Nat) := portEdge s k.ctx k.img k.node p
      let size (p : Nat) : Nat := match edge p with | some e => recSize s k.ctx k.img e.dst | none => 0
      let cont (p : Nat) : Bool := match edge p with | some e => e.cont | none => false
      let deep := (lanesOf x.e).filter (fun l => match laneRec x.wv l with | some r => decide (10 ≤ r.depth) | none => false)
      let need (kind : Nat) : Nat := (lanesOf x.e).length *
        (ports.filter (fun p => match edge p with | some e => kindOf s k.ctx k.img e.dst == kind | none => false)).length
      let g := coreOfWave x.v
      let inRange : Prop := ∀ p ∈ ports, dataInRange x w.a.toNat (size p / 4) = true
      (∀ p, ¬ ports.Nodup → (ports.zipIdx.find? (fun p => (ports.take p.2).contains p.1)).map (·.1) = some p →
        exec (.exitC w) s = .next (faultWave s x (.of 0x42 p x.e))) ∧
      (∀ p, ports.Nodup → ports.find? (fun p => !cont p) = some p → exec (.exitC w) s = .next (faultWave s x (.of 0x42 p x.e))) ∧
      (ports.Nodup → (∀ p ∈ ports, cont p = true) →
        (¬ inRange → exec (.exitC w) s = .next (faultWave s x (.of 0x12 0 x.e))) ∧
        (inRange → deep ≠ [] → exec (.exitC w) s = .next (faultWave s x (.of 0x41 0 (maskOf deep)))) ∧
        (∀ p, inRange → deep = [] → ports.find? (fun p => decide (SMap.get 0 k.resv p < (lanesOf x.e).length)) = some p →
          exec (.exitC w) s = .next (faultWave s x (.of 0x40 p x.e))) ∧
        (inRange → deep = [] → (∀ p ∈ ports, (lanesOf x.e).length ≤ SMap.get 0 k.resv p) →
          (∀ p ∈ ports, ∀ e, edge p = some e → kindOf s k.ctx k.img e.dst ≠ 1 ∧ kindOf s k.ctx k.img e.dst ≠ 2) →
          ∃ t, exec (.exitC w) s = .next t ∧
            t.transit = s.transit ++ ((lanesOf x.e).flatMap (fun l => ports.map (fun p => (l, p)))).zipIdx.map (fun q =>
              { src := 0x10000 + x.v, stack := stackOfCore (coreOfWave x.v), ctx := k.ctx, img := k.img,
                node := ((edge q.1.2).map (·.dst)).getD 0,
                rcd := sentRecord s (laneWords s x w.a.toNat (size q.1.2) q.1.1) x.wv.tag
                  (((laneRec x.wv q.1.1).map (·.depth)).getD 0 + 1) ((laneRec x.wv q.1.1).map (·.id)) q.2, park := .no : Transit }) ∧
            ∃ u, SMap.find? t.waves x.v = some u ∧ u.live = x.wv.live &&& ~~~ x.e) ∧
        (inRange → deep = [] → (∀ p ∈ ports, (lanesOf x.e).length ≤ SMap.get 0 k.resv p) →
          (∀ kind, kind = 1 ∨ kind = 2 → 0 < need kind → fifoRoom s g kind (need kind) = true) →
          ∃ t u, exec (.exitC w) s = .next t ∧ SMap.find? t.waves x.v = some u ∧ u.live = x.wv.live &&& ~~~ x.e) ∧
        (∀ kind, kind = 1 ∨ kind = 2 → inRange → deep = [] → (∀ p ∈ ports, (lanesOf x.e).length ≤ SMap.get 0 k.resv p) →
          0 < need kind → fifoRoom s g kind (need kind) = false → exec (.exitC w) s = .next s.waitIssue)))

/-- TRAP raises F_TRAP with IMM16 and the lowest active lane's value; BRK parks its unit, sets PAGE_WAIT and logs F_BREAK;
SNAPT reports F_SNAPT_MARK and changes nothing else (R330-R332). -/
def Obligations.TrapsBreaksAndMarks : Prop :=
  (∀ (s : State) (x : WCtx) (w : VWord), waveOf s w.msel = some x →
    (issueFault s x [(.src, w.a)] 0 = none → x.e ≠ 0 → exec (.trap w) s = .next (faultWave s x
      { cause := 0x80, sub := w.imm16, va := 0, lanes := x.e, detail := (readSrc s x.v x.wv .int w.a (lowestLane x.e)).toNat })) ∧
    (∃ t r, exec (.brk w) s = .next t ∧ t.hub.reports = s.hub.reports ++ [r] ∧ r.cause = 0x81 ∧ r.sub = w.imm16 ∧
      r.flags = (if (s.ctx x.wv.ctx).st = .faulted then 5 else 1) ∧ r.lanes = x.e ∧ r.pc = x.cl.h ∧ r.ctx = x.wv.ctx ∧ (t.ctx x.wv.ctx).pageWait = true ∧
      SMap.find? t.waves x.v = some { x.wv with park := .brk, notReadySince := s.aclk } ∧ t.issue = .parked) ∧
    (∃ r, exec (.snapt w) s = .next { s with hub := { s.hub with reports := s.hub.reports ++ [r] } } ∧ r.cause = 0x82 ∧
      r.sub = w.imm16 ∧ r.flags = 0 ∧ r.ctx = x.wv.ctx ∧ r.lanes = x.e ∧ r.pc = x.cl.h)) ∧
  (∀ (s : State) (x : SCtx) (w : VWord), seqOf s = some x →
    (seqFault x [(.val, false, w.a)] = none → (s.ctx x.sq.cons.ctx).dbgScb = false → exec (.trap w) s = .next (faultSeq s x
      { cause := 0x80, sub := w.imm16, va := 0, lanes := 0, detail := (seqRead s x.k x.sq w.a).toNat % 2 ^ 32 })) ∧
    (∃ t r, exec (.brk w) s = .next t ∧ t.hub.reports = s.hub.reports ++ [r] ∧ r.cause = 0x81 ∧ r.sub = w.imm16 ∧
      SMap.find? t.seqs x.k = some { x.sq with park := .brk } ∧ (t.ctx x.sq.cons.ctx).pageWait = true) ∧
    (∃ r, exec (.snapt w) s = .next { s with hub := { s.hub with reports := s.hub.reports ++ [r] } } ∧ r.cause = 0x82))

/-- GETSR gives each active lane the register of R334 when its token completes; SETSR writes NSTAT [5:0]; the numbers R334
does not assign, writes of the registers that are read-only, reserved bits, and an odd pair are F_SYSREG (R333, R334). In a
sequencer GETSR writes a q register when its token completes, and SETSR writes what is writable with the limits of R434, MCTL only where every
sub-tile is CLEAR once the operations issued before have committed (the model's reading, log 15), and BIND only with a key no
other program of the context holds (R403, R405, R424, R434). -/
def Obligations.SystemRegistersOfWavesAndSequencers : Prop :=
  (
    (∀ (s : State) (x : WCtx) (w : VWord) (tm : Team), waveOf s w.msel = some x → SMap.find? s.teams x.wv.team = some tm →
      x.e ≠ 0 → tokenFull x.wv w.token = false →
      let n := w.imm16
      let gives (f : Nat → Word) : Prop := issueFault s x [(.dst, w.d)] 1000 = none →
        exec (.getsr w) s = .next (inFlight s x w.token 0 0 (regWrites w.d x.e f) x.wv)
      (n = 0 → gives (fun _ => x.wv.nstat)) ∧
      (n = 1 → gives (fun _ => BitVec.ofNat 32 x.wv.spcount)) ∧
      (n = 2 → x.wv.np = none → gives (fun _ => 0)) ∧
      (∀ t, n = 2 → x.wv.np = some t →
        gives (fun _ => BitVec.ofNat 32 (2 ^ 31 + (coreEdges s (coreOfWave x.v) - t) % 2 ^ 17))) ∧
      (n = 3 → gives (fun l => BitVec.ofNat 32 (retOf x.wv l).length)) ∧
      (0x10 ≤ n → n ≤ 0x1F → gives (fun _ => BitVec.ofNat 32 (SMap.get 0 tm.cons.resv (n - 0x10)))) ∧
      (0x30 ≤ n → n ≤ 0x33 → w.d.toNat % 2 = 0 → issueFault s x [(.dst, w.d), (.dst, w.d + 1)] 1000 = none →
        exec (.getsr w) s = .next (inFlight s x w.token 0 0
          (regWrites w.d x.e (fun _ => (chunkBits tm (n - 0x30)).setWidth 32) ++
            regWrites (w.d + 1) x.e (fun _ => (chunkBits tm (n - 0x30)).extractLsb' 32 32)) x.wv)) ∧
      (0x30 ≤ n → n ≤ 0x33 → w.d.toNat % 2 = 1 →
        issueFault s x ([(.dst, w.d)] ++ (if w.d ≠ 0x0FF ∧ w.d ≠ 0x13F then [(OpKind2.dst, w.d + 1)] else [])) 1000 = none →
        exec (.getsr w) s = .next (faultWave s x (.of 0x16 4 x.e))) ∧
      (waveSr n = none → issueFault s x [(.dst, w.d)] 1000 = none → exec (.getsr w) s = .next (faultWave s x (.of 0x16 1 x.e)))) ∧
    (∀ (s : State) (x : WCtx) (w : VWord), waveOf s w.msel = some x → issueFault s x [(.uni, w.a)] 0 = none →
      let v := readUni s x.v x.wv w.a
      (w.imm16 = 0 → v.toNat < 64 → exec (.setsr w) s = .next (s.setWave x.v { x.wv with nstat := v })) ∧
      (w.imm16 = 0 → 64 ≤ v.toNat → exec (.setsr w) s = .next (faultWave s x (.of 0x16 3 x.e))) ∧
      (w.imm16 ≠ 0 → (waveSr w.imm16).isSome = true → exec (.setsr w) s = .next (faultWave s x (.of 0x16 2 x.e))) ∧
      (waveSr w.imm16 = none → exec (.setsr w) s = .next (faultWave s x (.of 0x16 1 x.e)))) ∧
    (∀ n, waveSr n = none ↔ ¬ (n ≤ 3 ∨ (0x10 ≤ n ∧ n ≤ 0x1F) ∨ (0x30 ≤ n ∧ n ≤ 0x33))) ∧
    (∀ (t : Team) (j i : Nat), i < 64 → ((chunkBits t j).getLsbD i = true ↔
      SMap.get 0 t.cin (64 * j + i) = 0 ∧ SMap.get 0 t.cout (64 * j + i) = 0))) ∧
  (
    ∀ (s : State) (x : SCtx) (w : VWord), seqOf s = some x →
      (∀ tk, (seqSr w.imm16).isSome = true → seqFault x [(.q, true, w.d)] = none → (s.ctx x.sq.cons.ctx).dbgScb = false →
        tokenOf w.token = some tk →
        let g : QGet := { id := s.nextId, tok := tk, q := w.d.toNat, val := readSeqSr s x w.imm16, contested := false }
        (SMap.get 0 x.sq.tok tk < 63 → ∃ sq', exec (.getsr w) s = .next { s.setSeq x.k sq' with nextId := s.nextId + 1 } ∧
          sq' = { x.sq with tok := SMap.set 0 tk (SMap.get 0 x.sq.tok tk + 1) x.sq.tok, gets := sq'.gets } ∧ g ∈ sq'.gets) ∧
        (63 ≤ SMap.get 0 x.sq.tok tk → exec (.getsr w) s = .next s.waitIssue) ∧
        (∀ free, SMap.sortedFrom 0 x.sq.tok = true →
          (x.sq.endGet free g).q = SMap.set 0 w.d.toNat (readSeqSr s x w.imm16) x.sq.q ∧
          SMap.get 0 (x.sq.endGet free g).tok tk = SMap.get 0 x.sq.tok tk - 1)) ∧
      (seqSr w.imm16 = none → seqFault x [(.q, true, w.d)] = none → (s.ctx x.sq.cons.ctx).dbgScb = false →
        exec (.getsr w) s = .next (faultSeq s x (.of 0x16 1 0))) ∧
      (seqFault x [(.val, false, w.a)] = none → (s.ctx x.sq.cons.ctx).dbgScb = false →
        let v := seqRead s x.k x.sq w.a
        (w.imm16 = 0 → v.toNat < 64 → exec (.setsr w) s = .next (s.setSeq x.k { x.sq with nstat := v.setWidth 32 })) ∧
        (w.imm16 = 0x40 → v.toNat < 2 → allClear x.sq = true →
          exec (.setsr w) s = .next (s.setSeq x.k { x.sq with mctl := v.getLsbD 0 })) ∧
        (w.imm16 = 0x40 → v.toNat < 2 → allClear x.sq = false →
          exec (.setsr w) s = .next (faultSeq s x { cause := 0x62, sub := 5, va := 0, lanes := 0, detail := v.toNat }) ) ∧
        (w.imm16 = 0x41 → v.toNat < 2 ^ 32 → v = 0 ∨ keyHeld s x.sq.cons.ctx x.k (v.setWidth 32) = false →
          exec (.setsr w) s = .next (s.setSeq x.k { x.sq with bind := v.setWidth 32 })) ∧
        (w.imm16 = 0x42 → v.toNat < 2 ^ 48 → exec (.setsr w) s = .next (s.setSeq x.k { x.sq with tripos := v })) ∧
        (w.imm16 = 0x43 → exec (.setsr w) s = .next (s.setSeq x.k { x.sq with trival := v })) ∧
        (w.imm16 = 0x44 → exec (.setsr w) s = .next { s with rngs := SMap.set Rng.reset x.k { s.rng x.k with st := v } s.rngs }) ∧
        (w.imm16 = 0x45 → exec (.setsr w) s = .next { s with rngs := SMap.set Rng.reset x.k { s.rng x.k with inc := v ||| 1 } s.rngs }) ∧
        (w.imm16 = 0x46 ∨ w.imm16 = 0x47 → exec (.setsr w) s = .next (faultSeq s x (.of 0x16 2 0))) ∧
        (seqSr w.imm16 = none → exec (.setsr w) s = .next (faultSeq s x (.of 0x16 1 0)))) ∧
      (readSeqSr s x 0 = x.sq.nstat.setWidth 64 ∧ readSeqSr s x 0x40 = (if x.sq.mctl then 1 else 0) ∧
        readSeqSr s x 0x41 = x.sq.bind.setWidth 64 ∧ readSeqSr s x 0x42 = x.sq.tripos ∧ readSeqSr s x 0x43 = x.sq.trival ∧
        readSeqSr s x 0x44 = (s.rng x.k).st ∧ readSeqSr s x 0x45 = (s.rng x.k).inc ||| 1 ∧
        readSeqSr s x 0x47 = BitVec.ofNat 64 x.sq.queue.length))

/-- The memory words: with no active lane nothing happens; a lane that fails a check of R369 is a fatal fault of the whole word;
a full token makes it wait; while a lane's translation is unknown it waits for the walk, a translation fault parks the wave and
any other is fatal (R199, R367-R369). -/
def Obligations.MemoryWordsCheckEveryLaneFirst : Prop :=
  (∀ (s : State) (x : WCtx) (i : Instr) (w : VWord) (t : Team) (ops : List (OpKind2 × BitVec 9)) (accs : List LaneAcc),
    memRow s x i = some (w, ops, accs) → waveOf s w.msel = some x → SMap.find? s.teams x.wv.team = some t →
    issueFault s x ops 1000 = none →
    (x.e = 0 → exec i s = .next s) ∧
    (x.e ≠ 0 → (∀ f, addrFault t (regionSize x.nd) accs = some f → exec i s = .next (faultWave s x f)) ∧
      (addrFault t (regionSize x.nd) accs = none →
        (tokenFull x.wv w.token = true → exec i s = .next s.waitIssue) ∧
        (tokenFull x.wv w.token = false →
          (∀ ws, waveGate s x ((accs.filter (·.glob)).map reqOf) = .wait ws → exec i s = .next (ws.foldl askWalk s).waitIssue) ∧
          (∀ ps, waveGate s x ((accs.filter (·.glob)).map reqOf) = .park ps → exec i s = .next (parkWave s x ps)) ∧
          (∀ f, waveGate s x ((accs.filter (·.glob)).map reqOf) = .fatal f → exec i s = .next (faultWave s x f)))))) ∧
  (∀ (t : Team) (region : Nat) (a : LaneAcc),
    let hit : Prop := ∃ lk ∈ t.locks, lk.2.glob = a.glob ∧ (lk.2.dst = true ∨ a.write = true) ∧ a.addr < lk.2.hi ∧ (lk.2.lo : Int) < a.addr + a.size
    let bad : Prop := (a.glob = true ∧ 2 ^ 52 ≤ a.addr) ∨ (a.glob = false ∧ (a.addr < 0 ∨ (region : Int) < a.addr + a.size))
    let crooked : Prop := a.align ≠ 0 ∧ a.addr % (a.align : Int) ≠ 0
    (a.glob = true → 2 ^ 52 ≤ a.addr → ∃ f, addrFault t region [a] = some f ∧ f.cause = 0x20) ∧
    (a.glob = false → a.addr < 0 ∨ (region : Int) < a.addr + a.size → ∃ f, addrFault t region [a] = some f ∧ f.cause = 0x21) ∧
    (¬ bad → crooked → ∃ f, addrFault t region [a] = some f ∧ f.cause = 0x22) ∧
    (¬ bad → ¬ crooked → hit → ∃ f, addrFault t region [a] = some f ∧ f.cause = 0x26 ∧ f.sub = 1) ∧
    (¬ bad → ¬ crooked → ¬ hit → addrFault t region [a] = none)) ∧
  (∀ (s : State) (x : WCtx) (w : VWord) (n l : Nat),
    gAddr s x w n l = (((readPair s x.v x.wv w.a l).toNat : Int) +
      (if w.mod.getLsbD 0 then w.c.toInt * n else (readSrc s x.v x.wv .int w.c l).toInt)) % 2 ^ 64 ∧
    lAddr s x w n l = ((readSrc s x.v x.wv .int w.a l).toNat : Int) +
      (if w.mod.getLsbD 0 then w.c.toInt * n else (readSrc s x.v x.wv .int w.c l).toInt))

/-- LD, LDA and LDL read, for each active lane, the bytes at its address, low bytes zero-extended into a register, and put the
results in flight on the token; an acquire wider than CORE reads past the core's own copies. No byte of memory changes, and no
register until the token completes (R189, R206, R371, R372). What a lane reads is said where no line of the L1 is evicted while the
word runs; that the value is taken at issue, and that such an acquire drops the core's copies, is the model's reading (log 12). -/
def Obligations.LoadsReadEachLane : Prop :=
  (∀ (s : State) (x : WCtx) (w : VWord) (t : Team) (z : Size) (acq : Bool) (ops : List (OpKind2 × BitVec 9)) (accs : List LaneAcc)
    (pas : List Nat), memRow s x (if acq then .lda z w else .ld z w) = some (w, ops, accs) → Reaches s w x t ops accs pas →
    (x.wv.access && w.d == 0xFF) = false → s.inOrder = true → s.homesUp → (∀ pa ∈ pas, noParts s (pa / 128)) →
    let bytes (pa : Nat) : List Byte :=
      if acq && wide w.scope then coherentBytes s pa (Size.bytes z) else readBytes s (coreOfWave x.v) pa (Size.bytes z)
    ∃ r res, exec (if acq then .lda z w else .ld z w) s = .next r ∧
      SMap.find? r.waves x.v = some (x.wv.launch { id := s.nextId, tok := tokenOf w.token, regs := loadRegs w.d x.e (Size.regs z) res,
                                                   kind := .regs, earliest := 0, latest := 0 }) ∧
      (l1Room s (coreOfWave x.v) 64 →
        res = ((lanesOf x.e).zip pas).map (fun p => (p.1, wordsOf (bytes p.2) (Size.regs z)))) ∧
      (∀ v, v ≠ x.v → SMap.find? r.waves v = SMap.find? s.waves v) ∧
      (∀ a, ¬ pendingPart s a → coherentByte r a = coherentByte s a) ∧ r.teams = s.teams ∧ r.ctxs = s.ctxs) ∧
  (∀ (s : State) (x : WCtx) (w : VWord) (t : Team) (z : Size) (ops : List (OpKind2 × BitVec 9)) (accs : List LaneAcc),
    memRow s x (.ldl z w) = some (w, ops, accs) → Reaches s w x t ops accs [] →
    let at_ (l : Nat) : Nat := (lAddr s x w (Size.bytes z) l).toNat
    (∀ l ∈ lanesOf x.e, ∀ b ∈ inflightIn s t, b.1 < at_ l ∨ at_ l + (Size.bytes z) ≤ b.1) →
    let res := (lanesOf x.e).map (fun l => (l, wordsOf ((List.range (Size.bytes z)).map (fun j => SMap.get 0 t.mem (at_ l + j))) (Size.regs z)))
    exec (.ldl z w) s = .next { s with
      waves := SMap.modify x.v (fun wv => wv.launch { id := s.nextId, tok := tokenOf w.token, regs := loadRegs w.d x.e (Size.regs z) res,
                                                      kind := .regs, earliest := 0, latest := 0 }) s.waves
      nextId := s.nextId + 1 }) ∧
  (∀ (s : State) (x : WCtx) (w : VWord) (t : Team) (z : Size) (acq : Bool) (ops : List (OpKind2 × BitVec 9)) (accs : List LaneAcc)
    (pas : List Nat) (p : Nat) (cw : Wave), memRow s x (if acq then .lda z w else .ld z w) = some (w, ops, accs) →
    Reaches s w x t ops accs pas → x.wv.access = true → w.d = 0xFF → x.wv.pair = some p → SMap.find? s.waves p = some cw → p ≠ x.v → s.homesUp →
    (x.nd.qlen < cw.qc + (Size.regs z) → exec (if acq then .lda z w else .ld z w) s = .next s.waitIssue) ∧
    (cw.qc + (Size.regs z) ≤ x.nd.qlen → ∃ r u, exec (if acq then .lda z w else .ld z w) s = .next r ∧
      SMap.find? r.waves p = some { cw with qc := cw.qc + (Size.regs z) } ∧ SMap.find? r.waves x.v = some u ∧
      ∃ op, u.ops = x.wv.ops ++ [op] ∧ op.kind = .push ((List.range (Size.regs z)).map (fun j => (cw.qh + cw.qc + j) % x.nd.qlen))))

/-- ST and STRL write each active lane's data at its address, in ascending lane order, and STL at its address of the team's
region; every other byte stays as it was, and so does every register (R188, R190, R371, R372). That a coherent reader finds the
bytes once the word has issued is the model's reading (log 12); stores to system addresses (R188) are not spoken of here. -/
def Obligations.StoresWriteTheirBytesOnly : Prop :=
  (∀ (s : State) (x : WCtx) (w : VWord) (t : Team) (z : Size) (rel : Bool) (ops : List (OpKind2 × BitVec 9)) (accs : List LaneAcc)
    (pas : List Nat), memRow s x (if rel then .strl z w else .st z w) = some (w, ops, accs) → Reaches s w x t ops accs pas →
    s.inOrder = true → s.homesUp → (∀ pa ∈ pas, isSys pa = false) →
    ∃ r, exec (if rel then .strl z w else .st z w) s = .next r ∧
      (∀ (k l pa j : Nat), (lanesOf x.e)[k]? = some l → pas[k]? = some pa → j < (Size.bytes z) →
        outside (pas.drop (k + 1)) (Size.bytes z) (pa + j) →
        coherentByte r (pa + j) = (storeBytes s x z w.b l).getD j 0) ∧
      (∀ a, outside pas (Size.bytes z) a → ¬ pendingPart s a → coherentByte r a = coherentByte s a) ∧
      (∀ v wv, SMap.find? s.waves v = some wv → ∃ u, SMap.find? r.waves v = some u ∧
        u.v = wv.v ∧ u.w = wv.w ∧ u.m = wv.m ∧ u.x = wv.x ∧ u.nstat = wv.nstat) ∧ r.teams = s.teams ∧ r.ctxs = s.ctxs) ∧
  (∀ (s : State) (x : WCtx) (w : VWord) (t : Team) (z : Size) (ops : List (OpKind2 × BitVec 9)) (accs : List LaneAcc),
    memRow s x (.stl z w) = some (w, ops, accs) → Reaches s w x t ops accs [] → SMap.sortedFrom 0 t.mem = true →
    let at_ (l : Nat) : Nat := (lAddr s x w (Size.bytes z) l).toNat
    ∃ r t', exec (.stl z w) s = .next r ∧ SMap.find? r.teams x.wv.team = some t' ∧ t' = { t with mem := t'.mem } ∧
      (∀ (k l j : Nat), (lanesOf x.e)[k]? = some l → j < (Size.bytes z) →
        outside (((lanesOf x.e).drop (k + 1)).map at_) (Size.bytes z) (at_ l + j) →
        SMap.get 0 t'.mem (at_ l + j) = (storeBytes s x z w.b l).getD j 0) ∧
      (∀ a, outside ((lanesOf x.e).map at_) (Size.bytes z) a → SMap.get 0 t'.mem a = SMap.get 0 t.mem a) ∧
      r.mem = s.mem ∧ r.sys = s.sys ∧ r.l1 = s.l1) ∧
  (∀ (s : State) (x : WCtx) (b : BitVec 9) (l : Nat),
    storeBytes s x .b b l = bytesOf 1 (readSrc s x.v x.wv .int b l).toNat ∧
    storeBytes s x .h b l = bytesOf 2 (readSrc s x.v x.wv .int b l).toNat ∧
    storeBytes s x .w b l = bytesOf 4 (readSrc s x.v x.wv .int b l).toNat ∧
    storeBytes s x .d b l = bytesOf 8 (readPair s x.v x.wv b l).toNat)

/-- ATOM gives each active lane the value its word held and leaves there what the operation makes of it; RED and FRED.C2 do so
without a result. Several lanes act in ascending order, each on what the ones before it left. No other byte changes, and no
register but the results of ATOM, when its token completes. At a system address only ADD, XCHG and CAS act, the others are
F_SYS_ATOMIC (R188, R191, R252, R374-R378). What a lane reads is said of one lane, of an acquire, and otherwise where no line of
the L1 is evicted while the word runs; an acquire drops the core's copies first (log 12). -/
def Obligations.AtomicsReadModifyWrite : Prop :=
  (∀ (s : State) (x : WCtx) (w : VWord) (t : Team) (op : AtomOp) (o : Ord4) (ops : List (OpKind2 × BitVec 9))
    (accs : List LaneAcc) (pas : List Nat), memRow s x (.atom op o w) = some (w, ops, accs) → Reaches s w x t ops accs pas →
    s.inOrder = true → s.homesUp → (∀ pa ∈ pas, isSys pa = false → noParts s (pa / 128)) →
    (∀ pa ∈ pas, isSys pa = true → ∀ e ∈ s.l1, l1Line e.1 ≠ pa / 128) →
    let g := coreOfWave x.v
    let n := if w.mod.getLsbD 0 then 8 else 4
    let val (code : BitVec 9) (l : Nat) : Nat :=
      if w.mod.getLsbD 0 then (readPair s x.v x.wv code l).toNat else (readSrc s x.v x.wv .int code l).toNat
    let acq : Bool := (o == .none && strengthened s x.wv.ctx) || ((o == .acq || o == .acqrel) && wide w.scope)
    let see (a : Nat) : Byte := if isSys a || acq then coherentByte s a else (readBytes s g a 1).headD 0
    let res := rmwLanes n (fun l old => AtomOp.calc op n old (val w.b l) (if op = .cas then val w.c l else 0)) see
      ((lanesOf x.e).zip pas)
    ((∃ pa ∈ pas, isSys pa = true) → op = .add ∨ op = .xchg ∨ op = .cas) ∧
    ∃ r u q, exec (.atom op o w) s = .next r ∧ SMap.find? r.waves x.v = some u ∧ u.ops = x.wv.ops ++ [q] ∧
      q.tok = tokenOf w.token ∧ registersKept s r ∧ r.teams = s.teams ∧ r.ctxs = s.ctxs ∧
      (∀ a, outside pas n a → ¬ pendingPart s a → coherentByte r a = coherentByte s a) ∧
      (acq = true ∨ l1Room s g 64 ∨ pas.length = 1 →
        q.regs = loadRegs w.d x.e (n / 4) (res.2.map (fun p => (p.1, wordsOf (bytesOf n p.2) (n / 4)))) ∧
        ∀ a, ¬ outside pas n a → coherentByte r a = res.1 a)) ∧
  (∀ (s : State) (x : WCtx) (w : VWord) (t : Team) (i : Instr) (ops : List (OpKind2 × BitVec 9)) (accs : List LaneAcc) (a : LaneAcc),
    (∃ op, i = .red op w) ∨ i = .fredC2 w ∨ (∃ op o, i = .atom op o w ∧
      (op = .min ∨ op = .max ∨ op = .and ∨ op = .or ∨ op = .xor ∨ op = .minu ∨ op = .maxu)) →
    memRow s x i = some (w, ops, accs) → waveOf s w.msel = some x → SMap.find? s.teams x.wv.team = some t →
    issueFault s x ops 1000 = none → addrFault t (regionSize x.nd) accs = none → x.e ≠ 0 → tokenFull x.wv w.token = false →
    s.homesUp →
    let tr (a : LaneAcc) := translate s (some (coreOfWave x.v)) (stackOfCore (coreOfWave x.v)) x.wv.ctx a.addr.toNat .write
    let atSys (a : LaneAcc) : Bool := match tr a with | .hit pa => isSys pa | _ => false
    (∀ a ∈ accs, ∃ pa, tr a = .hit pa) → accs.find? atSys = some a →
    exec i s = .next (faultWave s x
      { cause := 0x23, sub := 0, va := a.addr.toNat, detail := a.lane, lanes := maskOf ((accs.filter atSys).map (·.lane)) })) ∧
  (∀ (s : State) (x : WCtx) (w : VWord) (t : Team) (op : RedOp) (ops : List (OpKind2 × BitVec 9)) (accs : List LaneAcc)
    (pas : List Nat), memRow s x (.red op w) = some (w, ops, accs) → Reaches s w x t ops accs pas → s.inOrder = true → s.homesUp →
    (∀ pa ∈ pas, noParts s (pa / 128)) →
    let g := coreOfWave x.v
    let n := if w.mod.getLsbD 0 then 8 else 4
    let fmt := if w.mod.getLsbD 0 then fp64 else fp32
    let val (l : Nat) : Nat := if w.mod.getLsbD 0 then (readPair s x.v x.wv w.b l).toNat else (readSrc s x.v x.wv .int w.b l).toNat
    let see (a : Nat) : Byte :=
      if op = .fadd ∨ ownM s g (a / 128) = true then (readBytes s g a 1).headD 0 else coherentByte s a
    let res := rmwLanes n (fun l old => if op = .fadd then fAdd fmt (n4 fmt) .ne old (val l)
      else reduceInt (RedOp.num op) n old (val l)) see ((lanesOf x.e).zip pas)
    ∃ r, exec (.red op w) s = .next r ∧ registersKept s r ∧ r.teams = s.teams ∧ r.ctxs = s.ctxs ∧
      (∀ a, outside pas n a → ¬ pendingPart s a → coherentByte r a = coherentByte s a) ∧
      (l1Room s g 64 ∨ pas.length = 1 →
        (op = .fadd → ∀ a, ¬ outside pas n a → coherentByte r a = res.1 a) ∧
        (op ≠ .fadd → ∀ pa ∈ pas, (homeRead r true pa n).2 = (List.range n).map (fun j => res.1 (pa + j))))) ∧
  (∀ (s : State) (x : WCtx) (w : VWord) (t : Team) (ops : List (OpKind2 × BitVec 9)) (accs : List LaneAcc) (pas : List Nat),
    memRow s x (.fredC2 w) = some (w, ops, accs) → Reaches s w x t ops accs pas → s.inOrder = true → s.homesUp →
    (∀ pa ∈ pas, noParts s (pa / 128)) →
    let g := coreOfWave x.v
    let n := if w.mod.getLsbD 0 then 16 else 8
    let fmt := if w.mod.getLsbD 0 then fp64 else fp32
    let val (l : Nat) : Nat := if w.mod.getLsbD 0 then (readPair s x.v x.wv w.b l).toNat else (readSrc s x.v x.wv .int w.b l).toNat
    let res := rmwLanes n (fun l old =>
      let p := twoSum fmt (old % 2 ^ (4 * n)) (old / 2 ^ (4 * n)) (val l)
      p.1 + p.2 * 2 ^ (4 * n)) (fun a => (readBytes s g a 1).headD 0) ((lanesOf x.e).zip pas)
    ∃ r, exec (.fredC2 w) s = .next r ∧ registersKept s r ∧ r.teams = s.teams ∧ r.ctxs = s.ctxs ∧
      (∀ a, outside pas n a → ¬ pendingPart s a → coherentByte r a = coherentByte s a) ∧
      (l1Room s g 64 ∨ pas.length = 1 → ∀ a, ¬ outside pas n a → coherentByte r a = res.1 a)) ∧
  (∀ (old b c : Nat), old < 2 ^ 32 → b < 2 ^ 32 →
    AtomOp.calc .add 4 old b c = (old + b) % 2 ^ 32 ∧ AtomOp.calc .xchg 4 old b c = b ∧
    AtomOp.calc .cas 4 old b c = (if old = c then b else old) ∧ AtomOp.calc .minu 4 old b c = min old b ∧
    AtomOp.calc .maxu 4 old b c = max old b ∧
    sext 32 (AtomOp.calc .min 4 old b c) = min (sext 32 old) (sext 32 b) ∧
    sext 32 (AtomOp.calc .max 4 old b c) = max (sext 32 old) (sext 32 b) ∧
    AtomOp.calc .and 4 old b c = old &&& b ∧ AtomOp.calc .or 4 old b c = old ||| b ∧ AtomOp.calc .xor 4 old b c = old ^^^ b)

/-- Every step keeps the memory system in order: canonical memories, L1 lines listed once with at most one core in M, and TLB
entries within the physical space (R23, R189). -/
def Obligations.StepsKeepTheMemorySystemInOrder : Prop :=
  ∀ s t : State, s.inOrder = true → step s = .next t → t.inOrder = true

/-- FENCE and FPATH send the core's writes home and, the first at scopes wider than CORE, drop its copies; FALIAS changes no
copy. FISSUE takes the lowest free slot and writes its token, FWAIT faults on a token it does not know, waits for the release
and then retires the slot, and the release of a slot leaves the core nothing dirty (R205, R206, R212-R214, R379-R381). A release
waits while a link on the way retrains (R29), and an error at a home that it meets faults the context (R401). That a fence at a
scope wider than CORE and FPATH drop every line of the core, and that FALIAS changes no copy, is the model's reading (log 12). -/
def Obligations.FencesReleaseAndAcquire : Prop :=
  (∀ (s : State) (x : WCtx) (w : VWord), waveOf s w.msel = some x → x.e ≠ 0 → tokenFull x.wv w.token = false →
    let g := coreOfWave x.v
    (issueFault s x [] 1000 = none →
      (releaseWaits s g = false → releaseLoss s g = none →
        (wide w.scope = true ∨ strengthened s x.wv.ctx = true → exec (.fence w) s = .next (launchStore (l1Flush s g) x.v w.token)) ∧
        exec (.fpath w) s = .next (launchStore (l1Flush s g) x.v w.token)) ∧
      (releaseWaits s g = true → exec (.fpath w) s = .next s.waitIssue ∧
        (wide w.scope = true ∨ strengthened s x.wv.ctx = true → exec (.fence w) s = .next s.waitIssue)) ∧
      (∀ c, releaseWaits s g = false → releaseLoss s g = some c →
        exec (.fpath w) s = .next (faultWave (l1Release s g) x (.of c 0 x.e)) ∧
        (wide w.scope = true ∨ strengthened s x.wv.ctx = true →
          exec (.fence w) s = .next (faultWave (l1Release s g) x (.of c 0 x.e)))) ∧
      (wide w.scope = false → strengthened s x.wv.ctx = false → exec (.fence w) s = .next (launchStore s x.v w.token)) ∧
      exec (.falias w) s = .next (launchStore s x.v w.token)) ∧
    (issueFault s x [(.wDst, w.d)] 1000 = none →
      (∀ i, (List.range 4).find? (fun i => (SMap.find? x.wv.fences i).isNone) = some i →
        let gen := (x.wv.gen + 1) % 2 ^ 22
        let wv1 := { x.wv with gen := gen, fences := SMap.insert i (gen, false) x.wv.fences }
        exec (.fissue w) s = .next (launchOp (s.setWave x.v wv1) x.v w.token .regs
          (regWrites w.d x.e (fun _ => BitVec.ofNat 32 (0xF1000000 + gen * 4 + i))))) ∧
      ((∀ i, i < 4 → (SMap.find? x.wv.fences i).isSome = true) → exec (.fissue w) s = .next s.waitIssue)) ∧
    (issueFault s x [(.uni, w.a)] 1000 = none →
      let a := (readUni s x.v x.wv w.a).toNat
      (a / 2 ^ 24 ≠ 0xF1 → exec (.fwait w) s = .next (faultWave s x { cause := 0x27, sub := 1, va := 0, lanes := x.e, detail := a })) ∧
      (a / 2 ^ 24 = 0xF1 → (∀ b, SMap.find? x.wv.fences (a % 4) ≠ some (a / 4 % 2 ^ 22, b)) →
        exec (.fwait w) s = .next (faultWave s x { cause := 0x27, sub := 2, va := 0, lanes := x.e, detail := a })) ∧
      (a / 2 ^ 24 = 0xF1 → SMap.find? x.wv.fences (a % 4) = some (a / 4 % 2 ^ 22, false) →
        exec (.fwait w) s = .next s.waitIssue) ∧
      (a / 2 ^ 24 = 0xF1 → SMap.find? x.wv.fences (a % 4) = some (a / 4 % 2 ^ 22, true) →
        exec (.fwait w) s = .next (launchStore (s.setWave x.v { x.wv with fences := SMap.erase (a % 4) x.wv.fences }) x.v w.token)))) ∧
  (∀ (s : State) (v i gen : Nat) (wv : Wave) (b : Bool), SMap.find? s.waves v = some wv → SMap.find? wv.fences i = some (gen, b) →
    let g := coreOfWave v
    (b = true ∨ releaseWaits s g = true → exec (.splitFenceReleaseDone v i) s = .next s) ∧
    (b = false → releaseWaits s g = false → releaseLoss s g = none → exec (.splitFenceReleaseDone v i) s =
      .next ((l1Flush s g).setWave v { wv with fences := SMap.insert i (gen, true) wv.fences })) ∧
    (∀ c, b = false → releaseWaits s g = false → releaseLoss s g = some c → (s.ctx wv.ctx).st = .active →
      ∃ t, exec (.splitFenceReleaseDone v i) s = .next t ∧ (t.ctx wv.ctx).st = .faulted ∧ (t.ctx wv.ctx).fatal = c)) ∧
  (∀ (s : State) (g : Nat), s.inOrder = true → s.homesUp → releaseWaits s g = false ∧ releaseLoss s g = none) ∧
  (∀ (s : State) (g : Nat), s.inOrder = true → s.homesUp →
    (∀ e ∈ (l1Flush s g).l1, l1Core e.1 ≠ g) ∧
    (∀ e ∈ (l1Release s g).l1, l1Core e.1 = g → e.2.st ≠ .u ∧ (e.2.st = .m → e.2.dirty = 0)) ∧
    (∀ a, ¬ pendingPart s a → coherentByte (l1Flush s g) a = coherentByte s a ∧ coherentByte (l1Release s g) a = coherentByte s a))

/-- ACOPY moves each active lane's bytes between global memory at its home and the team's region without touching a register:
the chunks it meets are counted in the team's copy bitmaps, and the copy is in flight until its chunks land; a chunk that lands
puts its bytes there and its count falls; the bytes of a copy towards global memory reach their homes, and no other byte changes,
when it completes. CWAIT waits while a chunk it names is counted, CFENCE while a copy of the wave towards
global memory is in flight, and then drops what the core holds (log 12) (R214, R382-R387). RLOCK takes the lowest free entry for its range and gives its handle when its
token completes; RUNLOCK frees the entry of a handle RLOCK gave and faults on any other; with no entry free RLOCK waits (R217,
R393, R394); that its length is judged before its range is the model's reading (log 14). PREF only brings the lines it names into the core's L1: no register and no byte of memory changes (R395). -/
def Obligations.CopiesLocksAndPrefetches : Prop :=
  (
    (∀ (s : State) (x : WCtx) (w : VWord) (t : Team) (pas : List Nat),
      let n := w.c.toNat - 0x180
      let at_ (l : Nat) : Nat := (readSrc s x.v x.wv .int w.b l).toNat
      (Reaches s w x t (acopyOps w) (acopyAccs true s w x) pas → (∀ pa ∈ pas, noParts s (pa / 128)) →
        let bs := ((lanesOf x.e).zip pas).flatMap (fun p => (homeBytes s p.2 n).zipIdx.map (fun b => (at_ p.1 + b.2, b.1)))
        let ch := (bs.map (·.1 / 512)).eraseDups
        exec (.acopyGl w) s = .next (launchOp (s.setTeam x.wv.team { t with cin := raise t.cin ch }) x.v w.token (.copy true ch bs []) [])) ∧
      (Reaches s w x t (acopyOps w) (acopyAccs false s w x) pas → (∀ b ∈ inflightIn s t, ∀ l ∈ lanesOf x.e, b.1 < at_ l ∨ at_ l + n ≤ b.1) →
        let rs := ((lanesOf x.e).zip pas).flatMap (fun p => (List.range n).map (fun j => (at_ p.1 + j, p.2 + j, SMap.get 0 t.mem (at_ p.1 + j))))
        let ch := (rs.map (·.1 / 512)).eraseDups
        exec (.acopyLg w) s = .next (launchOp (s.setTeam x.wv.team { t with cout := raise t.cout ch }) x.v w.token
          (.copy false ch (rs.map (fun r => (r.2.1, r.2.2))) (rs.map (fun r => (r.1, r.2.1, 0)))) []))) ∧
    (∀ (m : SMap Nat) (ks : List Nat) (c : Nat), SMap.sortedFrom 0 m = true → ks.Nodup →
      SMap.get 0 (raise m ks) c = SMap.get 0 m c + (if c ∈ ks then 1 else 0) ∧
      SMap.get 0 (lower m ks) c = SMap.get 0 m c - (if c ∈ ks then 1 else 0)) ∧
    (∀ (s : State) (v i k : Nat) (wv : Wave) (o : PendOp) (t : Team) (inward : Bool) (ch : List Nat) (bs : List (Nat × Byte))
      (src : List (Nat × Nat × Nat)), SMap.find? s.waves v = some wv → wv.ops.find? (fun o => o.id == i) = some o →
      o.kind = .copy inward ch bs src → k ∈ ch → SMap.find? s.teams wv.team = some t → SMap.sortedFrom 0 t.mem = true → (bs.map (·.1)).Nodup →
      SMap.sortedFrom 0 t.cin = true → SMap.sortedFrom 0 t.cout = true →
      ∃ r t', exec (.copyChunkRelease v i k) s = .next r ∧ SMap.find? r.teams wv.team = some t' ∧
        (inward = true → SMap.get 0 t'.cin k = SMap.get 0 t.cin k - 1 ∧
          (∀ b ∈ bs, b.1 / 512 = k → SMap.get 0 t'.mem b.1 = b.2) ∧
          (∀ a, (∀ b ∈ bs, b.1 / 512 = k → a ≠ b.1) → SMap.get 0 t'.mem a = SMap.get 0 t.mem a)) ∧
        (inward = false → SMap.get 0 t'.cout k = SMap.get 0 t.cout k - 1 ∧ t'.mem = t.mem) ∧ r.mem = s.mem ∧ r.l1 = s.l1) ∧
    (∀ (s : State) (v i : Nat) (wv : Wave) (o : PendOp) (bs : List (Nat × Byte)) (src : List (Nat × Nat × Nat)),
      SMap.find? s.waves v = some wv → wv.ops.find? (fun o => o.id == i) = some o → o.kind = .copy false [] bs src → o.regs = [] →
      edgeHere s (coreOfWave v) = true → o.earliest ≤ coreEdges s (coreOfWave v) → s.inOrder = true → s.homesUp →
      (∀ b ∈ bs, noParts s (b.1 / 128)) → wv.pcs ≠ [] →
      ∃ t u, exec (.tokenComplete (.wave v) i) s = .next t ∧
        (∀ (j : Nat) (b : Nat × Byte), bs[j]? = some b → (∀ c ∈ bs.drop (j + 1), c.1 ≠ b.1) → homeByte t b.1 = b.2) ∧
        (∀ a, (∀ b ∈ bs, b.1 ≠ a) → homeByte t a = homeByte s a) ∧ t.l1 = s.l1 ∧ t.teams = s.teams ∧
        SMap.find? t.waves v = some u ∧ u.v = wv.v ∧ u.w = wv.w ∧ u.ops = wv.ops.filter (fun p => p.id != i) ∧
        (∀ k, o.tok = some k → SMap.sortedFrom 0 wv.tok = true → u.getTok k = wv.getTok k - 1)) ∧
    (∀ (s : State) (x : WCtx) (w : VWord) (t : Team), waveOf s w.msel = some x → SMap.find? s.teams x.wv.team = some t →
      issueFault s x [(.codes [0x180, 0x181, 0x182, 0x183], w.a), (.uniPair, w.b), (.codes [0x181, 0x182, 0x183], w.c)] 1000 = none →
      x.e ≠ 0 → tokenFull x.wv w.token = false →
      let counted (i : Nat) : Prop := (w.c ≠ 0x182 ∧ SMap.get 0 t.cin (64 * (w.a.toNat - 0x180) + i) ≠ 0) ∨
        (w.c ≠ 0x181 ∧ SMap.get 0 t.cout (64 * (w.a.toNat - 0x180) + i) ≠ 0)
      ((∃ i ∈ lanesOf (readUniPair s x.v x.wv w.b), counted i) → exec (.cwait w) s = .next s.waitIssue) ∧
      ((∀ i ∈ lanesOf (readUniPair s x.v x.wv w.b), ¬ counted i) → exec (.cwait w) s = .next (launchStore s x.v w.token))) ∧
    (∀ (s : State) (x : WCtx) (w : VWord), waveOf s w.msel = some x → issueFault s x [] 1000 = none → x.e ≠ 0 →
      tokenFull x.wv w.token = false →
      ((∃ o ∈ x.wv.ops, ∃ ch bs src, o.kind = .copy false ch bs src) → exec (.cfence w) s = .next s.waitIssue) ∧
      ((∀ o ∈ x.wv.ops, outwardOp s o = false) →
        (releaseWaits s (coreOfWave x.v) = true → exec (.cfence w) s = .next s.waitIssue) ∧
        (releaseWaits s (coreOfWave x.v) = false → releaseLoss s (coreOfWave x.v) = none →
          exec (.cfence w) s = .next (launchStore (l1Flush s (coreOfWave x.v)) x.v w.token))))) ∧
  (
    (∀ (s : State) (x : WCtx) (w : VWord) (t : Team) (dst : Bool), waveOf s w.msel = some x → SMap.find? s.teams x.wv.team = some t →
      let glob : Bool := w.c == 0x180
      issueFault s x [(.wDst, w.d), (if glob then .uniPair else .uni, w.a), (.uni, w.b), (.codes [0x180, 0x181], w.c)] 1000 = none →
      tokenFull x.wv w.token = false →
      let a := if glob then (readUniPair s x.v x.wv w.a).toNat else (readUni s x.v x.wv w.a).toNat
      let len := (readUni s x.v x.wv w.b).toNat
      let i : Instr := if dst then .rlockDst w else .rlockSrc w
      (len = 0 ∨ 2 ^ 31 < len → exec i s = .next (faultWave s x (.of 0x26 3 x.e))) ∧
      (0 < len → len ≤ 2 ^ 31 →
        (glob = true → 2 ^ 52 ≤ a → exec i s = .next (faultWave s x { cause := 0x20, sub := 0, va := a, lanes := x.e, detail := lowestLane x.e })) ∧
        (glob = false → regionSize x.nd < a + len → exec i s = .next (faultWave s x
          { cause := 0x21, sub := 0, va := 0, lanes := x.e, detail := lowestLane x.e })) ∧
        ((glob = true ∧ a < 2 ^ 52) ∨ (glob = false ∧ a + len ≤ regionSize x.nd) →
          (freeLocks t = [] → exec i s = .next s.waitIssue) ∧
          (∀ n more, freeLocks t = n :: more → exec i s = .next (launchOp (s.setTeam x.wv.team
            { t with locks := SMap.insert n { dst := dst, glob := glob, lo := a, hi := a + len, user := true } t.locks }) x.v w.token .regs
            (regWrites w.d x.e (fun _ => BitVec.ofNat 32 (0x100 + n)))))))) ∧
    (∀ (s : State) (x : WCtx) (w : VWord) (t : Team), waveOf s w.msel = some x → SMap.find? s.teams x.wv.team = some t →
      issueFault s x [(.uni, w.a)] 1000 = none → tokenFull x.wv w.token = false →
      let h := (readUni s x.v x.wv w.a).toNat
      (∀ e, 0x100 ≤ h → SMap.find? t.locks (h - 0x100) = some e → e.user = true → exec (.runlock w) s = .next
        (launchStore (s.setTeam x.wv.team { t with locks := SMap.erase (h - 0x100) t.locks }) x.v w.token)) ∧
      (h < 0x100 ∨ SMap.find? t.locks (h - 0x100) = none ∨ (∃ e, SMap.find? t.locks (h - 0x100) = some e ∧ e.user = false) →
        exec (.runlock w) s = .next (faultWave s x { cause := 0x26, sub := 2, va := 0, lanes := x.e, detail := h }))) ∧
    (∀ (t : Team) (i : Nat), i ∈ freeLocks t ↔ i < 16 ∧ SMap.find? t.locks i = none) ∧
    (∀ (s : State) (x : WCtx) (w : VWord), waveOf s w.msel = some x →
      issueFault s x ([(.srcN 2, w.a)] ++ offsetOps w) 1000 = none → x.e ≠ 0 → tokenFull x.wv w.token = false → s.inOrder = true →
      s.homesUp →
      let hits := (lanesOf x.e).filterMap (fun l => if gAddr s x w 128 l < 2 ^ 52 then
        some (xlate s (some (coreOfWave x.v)) (stackOfCore (coreOfWave x.v)) x.wv.ctx
          { lane := l, va := (gAddr s x w 128 l).toNat, size := 1, acc := .read }) else none)
      (.miss ∈ hits → ∃ r, exec (.pref w) s = .next r ∧ r.issue = .wait ∧ r.mem = s.mem ∧ r.l1 = s.l1 ∧ r.waves = s.waves) ∧
      (.miss ∉ hits → ∃ r, exec (.pref w) s = .next r ∧
        (l1Room s (coreOfWave x.v) 64 → ∀ pa, .hit pa ∈ hits → (SMap.find? r.l1 (l1Key (coreOfWave x.v) (pa / 128))).isSome = true) ∧
        (∀ a, ¬ pendingPart s a → coherentByte r a = coherentByte s a) ∧
        ∃ u, SMap.find? r.waves x.v = some u ∧ u.v = x.wv.v ∧ u.w = x.wv.w ∧ u.m = x.wv.m)))

/-- TCOPY reads and captures its descriptor as it issues; a descriptor that breaks R390 is F_TENSOR_DESC with the lowest
reason; it takes two free range-lock entries, counts the chunks of its extent and is in flight until it commits, all at once.
Its elements lie at GADDR + Σ i × STRIDE and at XADDR plus the swizzled dense offset (R217, R388-R391). That the operands are those of the lowest active
lane, and that the elements are translated as the operation commits, are the model's readings (log 13). -/
def Obligations.TensorCopiesCaptureAndCommit : Prop :=
  (∀ (s : State) (x : WCtx) (w : VWord) (t : Team) (pas : List Nat), waveOf s w.msel = some x →
    SMap.find? s.teams x.wv.team = some t → issueFault s x [(.srcN 2, w.a)] 1000 = none → x.e ≠ 0 → tokenFull x.wv w.token = false →
    let a := (readPair s x.v x.wv w.a (lowestLane x.e)).toNat
    let three := (List.range 3).map (fun j => Req.mk (lowestLane x.e) (a + 64 * j) 64 .read true)
    (addrFault t (regionSize x.nd) [LaneAcc.mk (lowestLane x.e) a 192 0 true false true] = none →
      (a % 64 ≠ 0 → exec (.tcopy w) s = .next (faultWave s x (.of 0x64 2 x.e))) ∧
      (a % 64 = 0 → waveGate s x three = .go pas → (∀ pa ∈ pas, noParts s (pa / 128)) →
        let bs := pas.flatMap (fun pa => homeBytes s pa 64)
        let d := descOf bs
        let from_ := (dExtents d).1
        let to_ := (dExtents d).2
        (∀ n, descReason bs (regionSize x.nd) = some n → exec (.tcopy w) s = .next (faultWave s x (.of 0x64 n x.e))) ∧
        (descReason bs (regionSize x.nd) = none → extentHit t from_ false = none → extentHit t to_ true = none →
          ((freeLocks t).length < 2 → exec (.tcopy w) s = .next s.waitIssue) ∧
          (∀ i j more, freeLocks t = i :: j :: more → ∃ r t' l, exec (.tcopy w) s = .next r ∧
            SMap.find? r.teams x.wv.team = some t' ∧ r.longs = s.longs ++ [l] ∧ l.kind = .tcopy d ∧ l.locks = [i, j] ∧
            SMap.find? t'.locks i = some { dst := false, glob := from_.1, lo := from_.2.1, hi := from_.2.2, user := false } ∧
            SMap.find? t'.locks j = some { dst := true, glob := to_.1, lo := to_.2.1, hi := to_.2.2, user := false } ∧
            t'.cin = raise t.cin (extentChunks to_) ∧ t'.cout = raise t.cout (extentChunks from_) ∧ r.mem = s.mem ∧ r.l1 = s.l1))))) ∧
  (∀ (s : State) (i : Nat) (l : LongOp) (t : Team) (wv : Wave) (d pas : List Nat), LongReady s i l t wv → l.kind = .tcopy d →
    inflightIn s t = [] → SMap.sortedFrom 0 t.mem = true → s.inOrder = true →
    let es := dElements d
    let n := 2 ^ dElog d
    let fg := dDir d != 1
    let tg := dDir d != 0
    let from_ := if dDir d = 1 then es.map (·.2) else es.map (·.1)
    let to_ := if dDir d = 1 then es.map (·.1) else es.map (·.2)
    gate s none (stackOfCore (coreOfWave l.wave)) l.ctx
      ((if fg then readsOf from_ n .read else []) ++ (if tg then readsOf to_ n .write else [])) (askOp l.id) = .go pas →
    (∀ pa ∈ pas, noParts s (pa / 128)) →
    let src := if fg then pas.take es.length else from_
    let dst := if tg then (if fg then pas.drop es.length else pas) else to_
    ∃ r t', exec (.longOperationCommit i) s = .next r ∧ SMap.find? r.teams l.team = some t' ∧ (∀ m ∈ r.longs, m.id ≠ i) ∧
      (∀ k a b j, src[k]? = some a → dst[k]? = some b → j < n → outside (dst.drop (k + 1)) n (b + j) →
        pieceByte r t' tg b j = pieceByte s t fg a j) ∧
      (∀ a, a < 2 ^ 48 → (tg = false ∨ outside dst n a) → homeByte r a = homeByte s a) ∧
      (∀ a, (tg = true ∨ outside dst n a) → SMap.get 0 t'.mem a = SMap.get 0 t.mem a)) ∧
  (∀ (d : List Nat) (e : Nat), dRank d ≤ 9 → (∀ k, k < dRank d → 1 ≤ dSize d k) → 0 ≤ dLow d →
    e < (List.range (dRank d)).foldl (fun p k => p * dSize d k) 1 →
    let idx (k : Nat) : Nat := e / (List.range k).foldl (fun p j => p * dSize d j) 1 % dSize d k
    (dElements d)[e]? = some (((dGaddr d : Int) + ((List.range (dRank d)).map (fun k => (idx k : Int) * dStride d k)).sum).toNat,
      dXaddr d + (dSwz d).place (e * 2 ^ dElog d)))

/-- A tile word with key 0 faults, waits while no program holds its key, and faults when 65,536 edges pass so (R405). With the
program there, TFEED waits for an EMPTY tile that nothing reads and writes each lane's word into it, .DONE makes it FULL; .A
sets elements of the accumulator. TTAKE reads words of a FULL tile, or elements, into registers (R405, R407, R411,
R412); a tile with an uncorrectable error faults the word that takes it (R433). That TFEED's bytes and
the tile's state change as it issues, and TTAKE.DONE releases then, is the model's reading (log 15); so is that a word that has
waited too long faults at TILE_KEY_TIMEOUT and its wave stops (log 36). -/
def Obligations.TileWordsFeedAndTake : Prop :=
  (∀ (s : State) (x : WCtx) (w : VWord) (k : Nat) (q : Seq), waveOf s w.msel = some x → x.e ≠ 0 → tokenFull x.wv w.token = false →
    let o (l : Nat) : Nat := (readSrc s x.v x.wv .int w.b l).toNat
    let dat (j l : Nat) : Word := readV s x.wv (w.a.toNat + j) l
    let key := readUni s x.v x.wv w.d
    let ops : List (OpKind2 × BitVec 9) := [(.uni, w.d), (.vSrc (if w.mod.getLsbD 0 then 3 else 1), w.a), (.src, w.b)]
    issueFault s x ops 1000 = none → badOffsets x (w.mod.getLsbD 0) o = [] →
    (w.mod.getLsbD 0 = false → ∀ l ∈ lanesOf x.e, 4096 ≤ o l → dat 0 l >>> 24 = 0) →
    (key = 0 → exec (.tfeed w) s = .next (faultWave s x { cause := 0x62, sub := 1, va := 0, lanes := x.e, detail := 0 })) ∧
    (key ≠ 0 → keyProg s x.wv.ctx key = none → ∃ r, exec (.tfeed w) s = .next r ∧ r.issue = .wait ∧ r.seqs = s.seqs) ∧
    (key ≠ 0 → keyProg s x.wv.ctx key = some k → SMap.find? s.seqs k = some q → x.wv.keySince = none → q.bad = [] →
      SMap.sortedFrom 0 q.tiles = true → SMap.sortedFrom 0 q.tst = true → SMap.sortedFrom 0 q.acc = true → SMap.sortedFrom 0 q.subs = true →
      (w.mod.getLsbD 0 = false → tileState q w.tile ≠ .empty ∨ tileRead s k w.tile = true → exec (.tfeed w) s = .next s.waitIssue) ∧
      (w.mod.getLsbD 0 = false → tileState q w.tile = .empty → tileRead s k w.tile = false →
        ∃ r q', exec (.tfeed w) s = .next r ∧ SMap.find? r.seqs k = some q' ∧
          (∀ (n l j : Nat), (lanesOf x.e)[n]? = some l → j < 4 → outside (((lanesOf x.e).drop (n + 1)).map o) 4 (o l + j) →
            tileByte q' w.tile (o l + j) = (bytesOf 4 (dat 0 l).toNat).getD j 0) ∧
          (∀ t a, a < 5120 → t ≠ w.tile ∨ outside ((lanesOf x.e).map o) 4 a → tileByte q' t a = tileByte q t a) ∧
          tileState q' w.tile = (if w.mod.getLsbD 1 then .full else .empty) ∧ q'.acc = q.acc ∧
          (∀ k', k' ≠ k → SMap.find? r.seqs k' = SMap.find? s.seqs k') ∧ r.mem = s.mem ∧ r.l1 = s.l1) ∧
      (w.mod.getLsbD 0 = true → (∀ l ∈ lanesOf x.e, subBusy s k (subOfElem (o l)) = false) →
        (∀ l ∈ lanesOf x.e, (SMap.get Sub.reset q.subs (subOfElem (o l))).tri = none) → ((lanesOf x.e).map o).Nodup →
        ∃ r q', exec (.tfeed w) s = .next r ∧ SMap.find? r.seqs k = some q' ∧
          (∀ l ∈ lanesOf x.e, SMap.get AccE.zero q'.acc (o l) =
            { sum := (dat 2 l ++ dat 1 l ++ dat 0 l : BitVec 96).signExtend 128, sat := false, nar := false, count := 0 } ∧
            (SMap.get Sub.reset q'.subs (subOfElem (o l))).clear = false ∧ (SMap.get Sub.reset q'.subs (subOfElem (o l))).fedA = true) ∧
          (∀ e, e ∉ (lanesOf x.e).map o → SMap.get AccE.zero q'.acc e = SMap.get AccE.zero q.acc e) ∧ q'.tiles = q.tiles))) ∧
  (∀ (s : State) (x : WCtx) (w : VWord) (k : Nat) (q : Seq), waveOf s w.msel = some x → x.e ≠ 0 → tokenFull x.wv w.token = false →
    let o (l : Nat) : Nat := (readSrc s x.v x.wv .int w.b l).toNat
    let key := readUni s x.v x.wv w.a
    issueFault s x [(.vDst (if w.mod.getLsbD 0 then 4 else 1) 1, w.d), (.uni, w.a), (.src, w.b)] 1000 = none →
    badOffsets x (w.mod.getLsbD 0) o = [] → key ≠ 0 → keyProg s x.wv.ctx key = some k → SMap.find? s.seqs k = some q →
    x.wv.keySince = none → q.bad = [] →
    (w.mod.getLsbD 0 = false → tileState q w.tile ≠ .full → exec (.ttake w) s = .next s.waitIssue) ∧
    (w.mod.getLsbD 0 = false → tileState q w.tile = .full →
      exec (.ttake w) s = .next (launchOp (if w.mod.getLsbD 1 then releaseTile s k k w.tile else s) x.v w.token .regs
        (regWrites w.d x.e (fun l => BitVec.ofNat 32 (natOfBytes ((List.range 4).map (fun j => tileByte q w.tile (o l + j)))))))) ∧
    (w.mod.getLsbD 0 = true → (∀ l ∈ lanesOf x.e, subBusy s k (subOfElem (o l)) = false) →
      exec (.ttake w) s = .next (launchOp s x.v w.token .regs ((List.range 4).flatMap (fun j =>
        regWrites (w.d + BitVec.ofNat 9 j) x.e (fun l =>
          let e := SMap.get AccE.zero q.acc (o l)
          let out : Bool := decide (e.sum.toInt < -(2 ^ 95) ∨ 2 ^ 95 ≤ e.sum.toInt)
          if j < 3 then e.sum.extractLsb' (32 * j) 32 else BitVec.ofNat 32 (e.sat.toNat + 2 * e.nar.toNat + 4 * out.toNat))))))) ∧
  (∀ (s : State) (x : WCtx) (w : VWord) (k : Nat) (q : Seq), waveOf s w.msel = some x → x.e ≠ 0 → tokenFull x.wv w.token = false →
    let o (l : Nat) : Nat := (readSrc s x.v x.wv .int w.b l).toNat
    issueFault s x [(.vDst 1 1, w.d), (.uni, w.a), (.src, w.b)] 1000 = none → w.mod.getLsbD 0 = false →
    badOffsets x false o = [] → readUni s x.v x.wv w.a ≠ 0 → keyProg s x.wv.ctx (readUni s x.v x.wv w.a) = some k →
    SMap.find? s.seqs k = some q → x.wv.keySince = none → tileState q w.tile = .full → q.bad.contains w.tile = true →
    exec (.ttake w) s = .next (faultWave s x (.of 0x30 0 x.e))) ∧
  (∀ (s : State) (v since : Nat) (wv : Wave) (key : Word) (e : Mask), s.waves = [(v, wv)] → wv.keySince = some (since, key, e) →
    since + 65536 ≤ coreEdges s (coreOfWave v) → keyProg s wv.ctx key = none → keySaved s wv.ctx key = false →
    (s.ctx wv.ctx).st = .active → wv.stopped = false →
    ∃ r, exec .tileKeyTimeout s = .next r ∧ (r.ctx wv.ctx).st = .faulted ∧ (r.ctx wv.ctx).fatal = 0x62 ∧
      r.waves = [(v, { wv with keySince := none, stopped := true })])

/-- TLD and TST take one range-lock entry, wait for the tile's state, and are in flight; TLD makes its tile BUSY at once and
FULL at its commit with the panel's bytes in it: rows of words alone, or with a scale word before each block of 32 elements, or
with the scale words in an array of their own; scale words go to the side-array, and one whose byte 3 is not 0 faults. TST
writes the tile's words row by row at its commit, and .DONE then makes a tile EMPTY that no other program reads. Both free
their range-lock entries at the commit, and no others (R406, R407, R413-R415). That the panel is translated as the operation
commits is the model's reading (log 13). -/
def Obligations.PanelsLoadAndStore : Prop :=
  (∀ (s : State) (x : WCtx) (w : VWord) (t : Team) (k : Nat) (q : Seq) (store : Bool), waveOf s w.msel = some x →
    SMap.find? s.teams x.wv.team = some t → x.e ≠ 0 → tokenFull x.wv w.token = false →
    let loc := w.mod.getLsbD 0
    let l := lowestLane x.e
    let a := if loc then (readSrc s x.v x.wv .int w.a l).toNat else (readPair s x.v x.wv w.a l).toNat
    let y := (readUni s x.v x.wv w.b).toNat
    let sl := x.nd.slots.getD w.slot 0
    let ext := wordExtent (!loc) a (rowAddrs y a ++ (if store then [] else scaleAddrs sl y a))
    let i : Instr := if store then .tst w else .tld w
    issueFault s x [(.uni, w.d), (if loc then .src else .srcN 2, w.a), (.uni, w.b)] 1000 = none →
    (layoutBad y a loc (if store then none else some sl) = true → exec i s = .next (faultWave s x (.of 0x64 7 x.e))) ∧
    (layoutBad y a loc (if store then none else some sl) = false →
      addrFault t (regionSize x.nd) [LaneAcc.mk l a (ext.2.2 - a) 0 (!loc) store true,
        LaneAcc.mk l (ext.2.2 - 1 : Nat) 1 0 (!loc) store true] = none →
      readUni s x.v x.wv w.d ≠ 0 → keyProg s x.wv.ctx (readUni s x.v x.wv w.d) = some k → SMap.find? s.seqs k = some q →
      x.wv.keySince = none →
      (freeLocks t = [] → exec i s = .next s.waitIssue) ∧
      (∀ n more, freeLocks t = n :: more →
        (store = false → tileState q w.tile ≠ .empty ∨ tileRead s k w.tile = true → exec i s = .next s.waitIssue) ∧
        (store = true → tileState q w.tile ≠ .full → exec i s = .next s.waitIssue) ∧
        (store = false → tileState q w.tile = .empty → tileRead s k w.tile = false → SMap.sortedFrom 0 q.tst = true →
          ∃ r q' t' lo, exec i s = .next r ∧ SMap.find? r.seqs k = some q' ∧ tileState q' w.tile = .busy ∧ q'.tiles = q.tiles ∧
            r.longs = s.longs ++ [lo] ∧ lo.kind = .tld (Seq.prog q) w.tile a y (!loc) sl ∧ SMap.find? r.teams x.wv.team = some t' ∧
            SMap.find? t'.locks n = some { dst := false, glob := ext.1, lo := ext.2.1, hi := ext.2.2, user := false }) ∧
        (store = true → tileState q w.tile = .full →
          ∃ r t' lo, exec i s = .next r ∧ r.seqs = s.seqs ∧ r.longs = s.longs ++ [lo] ∧
            lo.kind = .tst (Seq.prog q) w.tile a y (!loc) (w.mod.getLsbD 1) ∧ SMap.find? r.teams x.wv.team = some t' ∧
            SMap.find? t'.locks n = some { dst := true, glob := ext.1, lo := ext.2.1, hi := ext.2.2, user := false })))) ∧
  (∀ (s : State) (i k p tile a y : Nat) (l : LongOp) (t : Team) (wv : Wave) (q : Seq) (sl : DWord) (glob : Bool) (pas : List Nat),
    LongReady s i l t wv → l.kind = .tld p tile a y glob sl → progAt s p = some k → SMap.find? s.seqs k = some q →
    inflightIn s t = [] → rowwOk (some sl) (layRoww y) = true → SMap.sortedFrom 0 q.tst = true → SMap.sortedFrom 0 q.tiles = true →
    SMap.sortedFrom 0 t.locks = true →
    (glob = true → gate s none (stackOfCore (coreOfWave l.wave)) l.ctx (readsOf (rowAddrs y a ++ scaleAddrs sl y a) 4 .read)
        (askOp l.id) = .go pas ∧ ∀ pa ∈ pas, noParts s (pa / 128)) →
    let n := layRoww y
    let w := opWidth sl
    let g := opK sl / 32
    let mixed : Bool := slotRows sl == 1
    let apart : Bool := slotRows sl == 2
    let at_ (row j : Nat) : Nat := if glob then pas.getD (row * n + j) 0 else rowAddr y a row j
    let elemAt (row j : Nat) : Nat := if mixed then at_ row (j / w * (1 + w) + 1 + j % w) else at_ row j
    let scaleAt (row i : Nat) : Nat :=
      if mixed then at_ row (i * (1 + w))
      else if glob then pas.getD (32 * n + g * row + i) 0 else a + 32 * layPitch y + 4 * (g * row + i)
    let scaled : Bool := mixed || apart
    let words := if mixed then g * w else n
    (scaled = true → (∃ row i, row < 32 ∧ i < g ∧ pieceByte s t glob (scaleAt row i) 3 ≠ 0) →
      ∃ r, exec (.longOperationCommit i) s = .next r ∧ (r.ctx l.ctx).st = .faulted ∧ (r.ctx l.ctx).fatal = 0x60 ∧ r.seqs = s.seqs) ∧
    ((scaled = true → ∀ row i, row < 32 → i < g → pieceByte s t glob (scaleAt row i) 3 = 0) →
      ∃ r q' t', exec (.longOperationCommit i) s = .next r ∧ SMap.find? r.seqs k = some q' ∧ tileState q' tile = .full ∧
        (∀ m ∈ r.longs, m.id ≠ i) ∧
        (∀ row j b, row < 32 → j < words → b < 4 →
          tileByte q' tile (128 * row + 4 * j + b) = pieceByte s t glob (elemAt row j) b) ∧
        (∀ row j, row < 32 → 4 * words ≤ j → j < 128 → tileByte q' tile (128 * row + j) = 0) ∧
        (∀ row i b, row < 32 → i < 8 → b < 4 → tileByte q' tile (4096 + 32 * row + 4 * i + b) =
          if scaled && decide (i < g) then pieceByte s t glob (scaleAt row i) b else 0) ∧
        (∀ u o, u ≠ tile → o < 5120 → tileByte q' u o = tileByte q u o) ∧
        SMap.find? r.teams l.team = some t' ∧ t'.mem = t.mem ∧
        ∀ m, SMap.find? t'.locks m = if m ∈ l.locks then none else SMap.find? t.locks m)) ∧
  (∀ (s : State) (i k p tile a y : Nat) (l : LongOp) (t : Team) (wv : Wave) (q : Seq) (glob done : Bool) (pas : List Nat),
    LongReady s i l t wv → l.kind = .tst p tile a y glob done → progAt s p = some k → SMap.find? s.seqs k = some q →
    inflightIn s t = [] → SMap.sortedFrom 0 t.mem = true → SMap.sortedFrom 0 t.locks = true → SMap.sortedFrom 0 s.seqs = true →
    SMap.sortedFrom 0 q.tst = true → s.inOrder = true → q.bad = [] →
    (glob = true → gate s none (stackOfCore (coreOfWave l.wave)) l.ctx (readsOf (rowAddrs y a) 4 .write) (askOp l.id) = .go pas ∧
      ∀ pa ∈ pas, noParts s (pa / 128)) →
    let places := if glob then pas else rowAddrs y a
    places.Nodup → (∀ c ∈ places, c % 4 = 0) →
    ∃ r t', exec (.longOperationCommit i) s = .next r ∧ SMap.find? r.teams l.team = some t' ∧ (∀ m ∈ r.longs, m.id ≠ i) ∧
      (done = false → r.seqs = s.seqs) ∧
      (done = true → tileState q tile = .full → readersOf s k q tile = [k] →
        ∃ q', SMap.find? r.seqs k = some q' ∧ tileState q' tile = .empty ∧ q'.tiles = q.tiles ∧
          ∀ u, u ≠ tile → tileState q' u = tileState q u) ∧
      (∀ m, SMap.find? t'.locks m = if m ∈ l.locks then none else SMap.find? t.locks m) ∧
      (∀ row j b, row < 32 → j < layRoww y → b < 4 →
        pieceByte r t' glob (places.getD (row * layRoww y + j) 0) b = tileByte q tile (128 * row + 4 * j + b)) ∧
      (∀ c, c < 2 ^ 48 → (glob = false ∨ outside places 4 c) → homeByte r c = homeByte s c) ∧
      (∀ c, (glob = true ∨ outside places 4 c) → SMap.get 0 t'.mem c = SMap.get 0 t.mem c)) ∧
  (∀ (s : State) (k t : Nat) (q : Seq), q.standing = none → readersOf s k q t = [k])

/-- The scalar words of a sequencer write the value R409 tabulates to their q register and nothing else; integer arithmetic is
modulo 2^64, a shift by 64 or more gives 0, and SCMP gives 1 or 0. -/
def Obligations.SequencerWordsWriteTheirTable : Prop :=
  (∀ (s : State) (x : SCtx) (i : Instr) (w : VWord) (f : DWord → DWord → DWord), seqTable i = some (w, f) → seqOf s = some x →
    seqFault x [(.q, true, w.d), (.val, false, w.a), (.val, false, w.b)] = none → (s.ctx x.sq.cons.ctx).dbgScb = false →
    exec i s = .next (s.setSeq x.k (x.sq.putQ w.d.toNat (f (seqRead s x.k x.sq w.a) (seqRead s x.k x.sq w.b))))) ∧
  (∀ (s : State) (x : SCtx) (w : VWord), seqOf s = some x → seqFault x [(.q, true, w.d), (.val, false, w.a)] = none →
    (s.ctx x.sq.cons.ctx).dbgScb = false →
    exec (.smov w) s = .next (s.setSeq x.k (x.sq.putQ w.d.toNat (seqRead s x.k x.sq w.a)))) ∧
  (∀ (s : State) (x : SCtx) (w : LWord), seqOf s = some x → seqFault x [(.q, true, w.d)] = none →
    (s.ctx x.sq.cons.ctx).dbgScb = false → exec (.smovi w) s = .next (s.setSeq x.k (x.sq.putQ w.d.toNat (BitVec.ofInt 64 w.imm.toInt)))) ∧
  (∀ (s : State) (x : SCtx) (i : Instr) (w : VWord) (f : DWord → DWord → DWord) (fi : FaultInfo), seqTable i = some (w, f) →
    seqOf s = some x → seqFault x [(.q, true, w.d), (.val, false, w.a), (.val, false, w.b)] = some fi →
    exec i s = .next (faultSeq s x fi)) ∧
  (∀ (q : Seq) (r n : Nat) (v : DWord), SMap.sortedFrom 0 q.q = true →
    SMap.get 0 (q.putQ r v).q n = (if n = r then v else SMap.get 0 q.q n) ∧
    q.putQ r v = { q with q := (q.putQ r v).q, haz := (q.putQ r v).haz, gets := (q.putQ r v).gets } ∧
    (q.putQ r v).gets.map (·.val) = q.gets.map (·.val))

/-- SBR, BRA, CALL, BRX and RET in a sequencer: its one thread goes to the target when it is taken, and the target is a header;
SBR.Z is taken at zero, SBR.NZ otherwise; CALL pushes and RET pops the return stack (R294, R308, R309, R403, R409). SEXIT waits
for the queue and the tiles and then ends the program: its record exits, retires unless children of it remain, and leaves the
queue's count (R117, R138, R410). -/
def Obligations.SequencerControlWords : Prop :=
  (∀ (s : State) (x : SCtx) (T : Nat), T % 8 = 0 → (∃ h, fetchCode s none (x.k / 24) x.sq.cons.ctx T = .word h ∧ isHeader h = true) →
    let gone : Seq := { x.sq with run := some { x.cl with run := 0, gone := [(0, T)] } }
    seqOf s = some x →
    (∀ w : CWord, T = (((x.cl.h : Int) + 8 * w.off.toInt) % 2 ^ 64).toNat →
      exec (.bra w) s = .next (s.setSeq x.k gone) ∧
      (x.sq.ret.length < 16 →
        exec (.call w) s = .next (s.setSeq x.k { gone with ret := returnOf s x.sq.cons.ctx x.sq.cons.img x.cl :: x.sq.ret })) ∧
      (seqFault x [(.q, false, w.d)] = none → (s.ctx x.sq.cons.ctx).dbgScb = false →
        (seqRead s x.k x.sq w.d = 0 → exec (.sbrZ w) s = .next (s.setSeq x.k gone) ∧ exec (.sbrNz w) s = .next s) ∧
        (seqRead s x.k x.sq w.d ≠ 0 → exec (.sbrNz w) s = .next (s.setSeq x.k gone) ∧ exec (.sbrZ w) s = .next s))) ∧
    (∀ w : VWord, (∀ r, x.sq.ret = T :: r → exec (.ret w) s = .next (s.setSeq x.k { gone with ret := r })) ∧
      (seqFault x [(.q, false, w.a)] = none → (s.ctx x.sq.cons.ctx).dbgScb = false → (seqRead s x.k x.sq w.a).toNat = T →
        indirectOf s x.sq.cons.ctx x.sq.cons.img (x.cl.h + 8 * (x.cl.i + 1)) = none → exec (.brx w) s = .next (s.setSeq x.k gone)))) ∧
  (∀ (s : State) (x : SCtx), seqOf s = some x →
    (∀ w : CWord, 16 ≤ x.sq.ret.length → exec (.call w) s = .next (faultSeq s x (.of 0x53 1 0))) ∧
    (∀ w : VWord, x.sq.ret = [] → exec (.ret w) s = .next (faultSeq s x (.of 0x53 2 0))) ∧
    (∀ w : VWord, x.sq.queue ≠ [] ∨ (∃ t ∈ x.sq.tst, t.2 ≠ .empty) → exec (.sexit w) s = .next s.waitIssue) ∧
    (∀ w : VWord, x.sq.queue = [] → (∀ t ∈ x.sq.tst, t.2 = .empty) → SMap.sortedFrom 0 s.seqs = true →
      ∃ r, exec (.sexit w) s = .next r ∧ SMap.find? r.seqs x.k = none ∧
        (∀ k, k ≠ x.k → SMap.find? r.seqs k = SMap.find? s.seqs k) ∧ r.mem = s.mem ∧ r.waves = s.waves ∧
        ∀ (rc : Rec) (l : Launch) (par : Option Nat) (n nd : Nat) (b : Bool) (qu : Queue), x.sq.cons.recs = [rc] →
          launchOf s x.sq.cons.ctx x.sq.cons.tag = some l → SMap.sortedFrom 0 s.ctxs = true → SMap.sortedFrom 0 l.tree = true →
          SMap.sortedFrom 0 l.running = true → SMap.find? l.tree rc.id = some (par, n, nd, b) →
          let qid := qidOf s x.sq.cons.ctx x.sq.cons.img x.sq.cons.node
          SMap.find? s.queues qid = some qu →
          ∃ l' qu', launchOf r x.sq.cons.ctx x.sq.cons.tag = some l' ∧ SMap.find? r.queues qid = some qu' ∧
            (n = 0 → SMap.find? l'.tree rc.id = none) ∧
            (0 < n → SMap.find? l'.tree rc.id = some (par, n, nd, true) ∧ l'.unret = l.unret) ∧
            SMap.get 0 l'.running x.sq.cons.node = SMap.get 0 l.running x.sq.cons.node - 1 ∧ qu'.occ = qu.occ - 1))

/-- The matrix words check their operands, wait while eight operations are queued or their token is full, and then only list
their operation, with what it captures at issue, the model's reading of log 15: MMA the rows of tiles A and B, TRIPOS, TRIVAL and MCTL,
MDRAIN its MCTL, and both MMA and MSYNC the programs whose tiles they mean (R430); MDRAIN makes its tile BUSY; MWAIT waits for earlier commits and FULL tiles (R417-R420, R422, R425, R427). -/
def Obligations.MatrixWordsQueueTheirOperations : Prop :=
  (∀ (s : State) (x : SCtx) (w : VWord), seqOf s = some x → (s.ctx x.sq.cons.ctx).dbgScb = false →
    seqFault x [(.qOrConst, false, w.a)] = none →
    8 ≤ x.sq.queue.length ∨ (∃ t, tokenOf w.token = some t ∧ 63 ≤ SMap.get 0 x.sq.tok t) →
    ((seqRead s x.k x.sq w.a).toNat < 512 → exec (.mzero w) s = .next s.waitIssue) ∧
    ((seqRead s x.k x.sq w.a).toNat < 65536 → exec (.msync w) s = .next s.waitIssue)) ∧
  ∀ (s : State) (x : SCtx) (w : VWord), seqOf s = some x → (s.ctx x.sq.cons.ctx).dbgScb = false → x.sq.queue.length < 8 →
    (∀ t, tokenOf w.token = some t → SMap.get 0 x.sq.tok t < 63) →
    let arg (c : BitVec 9) : Nat := (seqRead s x.k x.sq c).toNat
    let lists (q : Seq) (o : MOp) : State := s.setSeq x.k { q with
      queue := q.queue ++ [(o, tokenOf w.token)]
      tok := match tokenOf w.token with | some t => SMap.set 0 t (SMap.get 0 q.tok t + 1) q.tok | none => q.tok }
    let sl (i : Nat) : DWord := seqSlot s x.sq i
    (seqFault x [(.qOrConst, false, w.a)] = none →
      (arg w.a < 512 → exec (.mzero w) s = .next (lists x.sq (.mzero (arg w.a)))) ∧
      (512 ≤ arg w.a → exec (.mzero w) s = .next (faultSeq s x { cause := 0x62, sub := 6, va := 0, lanes := 0, detail := arg w.a % 2 ^ 32 })) ∧
      (arg w.a < 65536 → exec (.msync w) s = .next (lists x.sq (.msync (arg w.a) (ownersOf s x.k x.sq)))) ∧
      (arg w.a < 65536 → x.sq.queue = [] → x.sq.grp = none → (∀ t, t < 16 → (arg w.a).testBit t = true → tileState x.sq t = .full) →
        SMap.find? s.seqs x.k = some x.sq → exec (.mwait w) s = .next (lists x.sq .mwait)) ∧
      (arg w.a < 65536 → x.sq.queue ≠ [] → exec (.mwait w) s = .next s.waitIssue)) ∧
    (seqFault x [(.qOrConst, false, w.a), (.qOrConst, false, w.b)] = none →
      let an := (seqRead s x.k x.sq w.b).toInt
      (arg w.a < 512 → -32768 ≤ an → an ≤ 32767 → (∀ i, i < 9 → (arg w.a).testBit i = true → clearAfter x.sq i = true) →
        exec (.mscale w) s = .next (lists x.sq (.mscale (arg w.a) an x.cl.h))) ∧
      (arg w.a < 512 → -32768 ≤ an → an ≤ 32767 → (∃ i, i < 9 ∧ (arg w.a).testBit i = true ∧ clearAfter x.sq i = false) →
        exec (.mscale w) s = .next (faultSeq s x { cause := 0x62, sub := 5, va := 0, lanes := 0, detail := arg w.a % 2 ^ 32 })) ∧
      (arg w.a < 512 → (an < -32768 ∨ 32767 < an) →
        exec (.mscale w) s = .next (faultSeq s x { cause := 0x62, sub := 5, va := 0, lanes := 0, detail := arg w.b % 2 ^ 32 }))) ∧
    (seqFault x [(.tile, true, w.d), (.qOrConst, false, w.a)] = none → arg w.a ≤ 8 →
      let t := w.d.toNat - 0x20
      ∀ log : Bool, let i : Instr := if log then .mdrainLg w else .mdrain w
        (drainSlotOk log (sl w.slotA) = false → exec i s = .next (faultSeq s x (.of 0x61 w.slotA 0))) ∧
        (drainSlotOk log (sl w.slotA) = true →
          (tileState x.sq t ≠ .empty ∨ tileRead s x.k t = true → exec i s = .next s.waitIssue) ∧
          (tileState x.sq t = .empty → tileRead s x.k t = false → exec i s =
            .next (lists { x.sq with tst := SMap.set .empty t .busy x.sq.tst } (.mdrain t (arg w.a) w.slotA x.cl.h log x.sq.mctl))))) ∧
    (seqFault x [(.qOrConst, false, w.d), (.tile, false, w.a), (.tile, false, w.b)] = none →
      let sub := arg w.d
      let ta := w.a.toNat - 0x20
      let tb := w.b.toNat - 0x20
      (8 < sub → exec (.mma w) s = .next (faultSeq s x { cause := 0x62, sub := 6, va := 0, lanes := 0, detail := sub % 2 ^ 32 })) ∧
      (sub ≤ 8 → mmaSlotsOk (sl w.slotA) (sl w.slotB) = false →
        exec (.mma w) s = .next (faultSeq s x (.of 0x61 (16 * w.slotA + w.slotB) 0))) ∧
      (sub ≤ 8 → mmaSlotsOk (sl w.slotA) (sl w.slotB) = true → x.sq.grp = none → SMap.find? s.seqs x.k = some x.sq →
        w.mod.getLsbD 2 = false → w.reuse = false →
        (w.mod.getLsbD 3 = false → triAfter x.sq sub = true →
          exec (.mma w) s = .next (faultSeq s x { cause := 0x62, sub := 4, va := 0, lanes := 0, detail := sub })) ∧
        (w.mod.getLsbD 3 = true ∨ triAfter x.sq sub = false →
          (tileState x.sq ta ≠ .full ∨ tileState x.sq tb ≠ .full → exec (.mma w) s = .next s.waitIssue) ∧
          (tileState x.sq ta = .full → tileState x.sq tb = .full → exec (.mma w) s = .next
            (lists { x.sq with latch := some (ta, w.slotA, tileBytes x.sq ta) }
              (.mma sub ta tb w.slotA w.slotB (w.mod.getLsbD 3) false (tileBytes x.sq ta) (tileBytes x.sq tb) x.sq.tripos
                x.sq.trival x.sq.mctl { a := x.sq.prog, b := x.sq.prog, red := x.sq.prog }))))) ∧
      (∀ rows, sub ≤ 8 → mmaSlotsOk (sl w.slotA) (sl w.slotB) = true → x.sq.grp = none → SMap.find? s.seqs x.k = some x.sq →
        w.mod.getLsbD 2 = false → w.reuse = true → x.sq.latch = some (ta, w.slotA, rows) → tileState x.sq tb = .full →
        (w.mod.getLsbD 3 = true ∨ triAfter x.sq sub = false) → exec (.mma w) s = .next (lists x.sq
          (.mma sub 16 tb w.slotA w.slotB (w.mod.getLsbD 3) false rows (tileBytes x.sq tb) x.sq.tripos x.sq.trival x.sq.mctl
            { a := x.sq.prog, b := x.sq.prog, red := x.sq.prog }))))

/-- MATRIX_OP_COMMIT takes the oldest operation: MZERO clears the sub-tiles of its mask and keeps their anchors, MSCALE sets
their anchors; MMA adds, to every element of its sub-tile and to no other, the K products of its rows of A and B, with .TRI sets
the masked ones to TRIVAL, and with .RED adds into the accumulator of its row's first program; a drain puts
the converted elements row by row into its tile and makes it FULL, or finds a mismatched row in MCTL mode, F_MATRIX_MISMATCH;
MSYNC releases its tiles. An operation that meets an uncorrectable error of its tiles or its sub-tile leaves no result and faults (R433);
an anchor changes only on CLEAR sub-tiles (R422). The count in its token falls (R238, R417-R425, R427, R430). That MSCALE is judged
again as it commits, that A, B and the programs are those of the issue, and that a mismatch is found as the drain commits, are the
model's readings (log 15). -/
def Obligations.MatrixCommitsActInOrder : Prop :=
  (∀ (s : State) (k : Nat) (q : Seq) (o : MOp) (tk : Option Nat) (rest : List (MOp × Option Nat)), SMap.find? s.seqs k = some q →
    q.queue = (o, tk) :: rest → engineRuns s k q = true →
    SMap.sortedFrom 0 q.tok = true → SMap.sortedFrom 0 q.acc = true → SMap.sortedFrom 0 q.subs = true → SMap.sortedFrom 0 q.tst = true →
    SMap.sortedFrom 0 q.tiles = true → (s.ctx q.cons.ctx).st = .active → drainHeld s k q o = false →
    ∃ r, exec (.matrixOpCommit k) s = .next r ∧
    ((∀ t sub slot pc log rdn, o ≠ .mdrain t sub slot pc log rdn) →
      meetsError s k q o = false →
      (∀ m a pc, o = .mscale m a pc → ∀ i, i < 9 → m.testBit i = true → (SMap.get Sub.reset q.subs i).clear = true) →
      ∃ q', SMap.find? r.seqs k = some q' ∧ q'.queue = rest ∧
      (∀ t, tk = some t → SMap.get 0 q'.tok t = SMap.get 0 q.tok t - 1) ∧
      (∀ m, o = .mzero m → (∀ e, SMap.get AccE.zero q'.acc e = (if m.testBit (subOfElem e) then AccE.zero else SMap.get AccE.zero q.acc e)) ∧
        (∀ i, i < 9 → SMap.get Sub.reset q'.subs i = (if m.testBit i then
          { clear := true, anchor := (SMap.get Sub.reset q.subs i).anchor, tri := none, fedA := false, sigs := [] }
          else SMap.get Sub.reset q.subs i))) ∧
      (∀ m a pc, o = .mscale m a pc → q'.acc = q.acc ∧ ∀ i, i < 9 → SMap.get Sub.reset q'.subs i =
        (if m.testBit i then { SMap.get Sub.reset q.subs i with anchor := a } else SMap.get Sub.reset q.subs i)) ∧
      (∀ sub ta tb sa sb tri red rowsA rowsB tp tv rdn own dk d, o = .mma sub ta tb sa sb tri red rowsA rowsB tp tv rdn own → sub ≤ 8 →
        ownerAt s k q (if red then own.red else q.prog) = some dk → SMap.find? s.seqs dk = some d →
        SMap.sortedFrom 0 d.acc = true → SMap.sortedFrom 0 d.subs = true → (SMap.get Sub.reset d.subs sub).tri = none →
        let a := seqSlot s q sa
        let b := seqSlot s q sb
        ∃ d', SMap.find? r.seqs dk = some d' ∧
        (∀ i j, i < 32 → j < 32 → let e := accKey (32 * (sub / 3) + i) (32 * (sub % 3) + j)
          SMap.get AccE.zero d'.acc e =
            if tri && masked tp sub i j then { SMap.get AccE.zero d.acc e with sum := tv.signExtend 128, sat := false, nar := false }
            else (elemProducts a b (rowElems rowsA a i) (rowElems rowsB b j)
              (SMap.get Sub.reset d.subs sub).anchor).foldl AccE.add (SMap.get AccE.zero d.acc e)) ∧
        (∀ e, e < 9216 → subOfElem e ≠ sub → SMap.get AccE.zero d'.acc e = SMap.get AccE.zero d.acc e) ∧
        (SMap.get Sub.reset d'.subs sub).clear = false ∧
        (SMap.get Sub.reset d'.subs sub).tri = (if tri then some (tp, tv) else none) ∧ d'.tiles = d.tiles) ∧
      (∀ m own, o = .msync m own → own.a = q.prog → own.b = q.prog → q.grp = none → ∀ t, t < 16 → tileState q' t =
        (if m.testBit t ∧ tileState q t = .full then .empty else tileState q t)) ∧
      (o = .mwait ∨ o = .mcoop → q'.acc = q.acc ∧ q'.tiles = q.tiles ∧ q'.tst = q.tst ∧ q'.subs = q.subs) ∧
      (o = .mleave → q'.grp = none ∧ q'.acc = q.acc)) ∧
    (meetsError s k q o = true → (r.ctx q.cons.ctx).st = .faulted ∧ (r.ctx q.cons.ctx).fatal = 0x30 ∧ r.seqs = s.seqs) ∧
    (∀ m a pc i, o = .mscale m a pc → i < 9 → m.testBit i = true → (SMap.get Sub.reset q.subs i).clear = false →
      (r.ctx q.cons.ctx).st = .faulted ∧ (r.ctx q.cons.ctx).fatal = 0x62 ∧ r.seqs = s.seqs) ∧
    (∀ t sub slot pc log rdn, o = .mdrain t sub slot pc log rdn → meetsError s k q o = false →
      let sl := seqSlot s q slot
      let el := (elemOf (slotElem sl)).getD (.int 32)
      let code (i j : Nat) : Nat :=
        let e := SMap.get AccE.zero q.acc (accKey (32 * (sub / 3) + i) (32 * (sub % 3) + j))
        (drainElem el .ne (slotSat sl) (accValue e.sum e.sat e.nar (SMap.get Sub.reset q.subs sub).anchor)).1
      (rdn = false ∨ (SMap.get Sub.reset q.subs sub).fedA = true ∨ mismatchRow q sub = none → slotRound sl ≠ 1 →
        ∃ q', SMap.find? r.seqs k = some q' ∧ q'.queue = rest ∧ tileState q' t = .full ∧
          ∀ i, i < 32 → natOfBytes ((List.range (4 * el.width)).map (fun j => tileByte q' t (128 * i + j))) =
            ((List.range 32).map (fun j => code i j * 2 ^ (el.width * j))).sum % 2 ^ (32 * el.width)) ∧
      (∀ row, rdn = true → (SMap.get Sub.reset q.subs sub).fedA = false → mismatchRow q sub = some row →
        (r.ctx q.cons.ctx).st = .faulted ∧ (r.ctx q.cons.ctx).fatal = 0x31 ∧ r.seqs = s.seqs))) ∧
  (∀ (s : State) (k : Nat) (q : Seq) (o : MOp) (tk : Option Nat) (rest : List (MOp × Option Nat)), SMap.find? s.seqs k = some q →
    q.queue = (o, tk) :: rest → engineRuns s k q = false ∨ drainHeld s k q o = true → exec (.matrixOpCommit k) s = .next s) ∧
  (∀ (ps : List (Int × Bool × Bool)) (e : AccE),
    (ps.foldl AccE.add e).sum = e.sum + (ps.map (fun p => BitVec.ofInt 128 p.1)).sum ∧
    (ps.foldl AccE.add e).sat = (e.sat || ps.any (·.2.1)) ∧
    (e.count + ps.length < 2 ^ 32 → (ps.foldl AccE.add e).count = e.count + ps.length ∧
      (ps.foldl AccE.add e).nar = (e.nar || ps.any (·.2.2))))

/-- MCOOP joins a group, which forms with its last member, syncs its members and leaves it; a bad descriptor, a disagreeing or
second membership and a word outside its group are F_COOP_GROUP, and so is a join that is not complete after 1,048,576 ACLK
(R428-R431). A SYNC counts once for its program and goes on when every member has issued as many and what it issued before has
committed. The three rows of MCOOP are one word, whose descriptor decides; that JOIN and SYNC wait at issue and LEAVE acts in the
engine's order is the model's reading (log 15). -/
def Obligations.CooperativeGroupsJoinSyncAndLeave : Prop :=
  (∀ (s : State) (x : SCtx) (w : VWord) (i : Instr), i = .mcoopJoin w ∨ i = .mcoopSync w ∨ i = .mcoopLeave w → seqOf s = some x →
    seqFault x [(.q, false, w.a)] = none → (s.ctx x.sq.cons.ctx).dbgScb = false → x.sq.queue.length < 8 →
    (∀ t, tokenOf w.token = some t → SMap.get 0 x.sq.tok t < 63) →
    let d := (seqRead s x.k x.sq w.a).toNat
    let lists (q : Seq) (o : MOp) : State := s.setSeq x.k { q with
      queue := q.queue ++ [(o, tokenOf w.token)]
      tok := match tokenOf w.token with | some t => SMap.set 0 t (SMap.get 0 q.tok t + 1) q.tok | none => q.tok }
    (coopBad d = true → exec i s = .next (faultSeq s x (.of 0x63 1 0))) ∧
    (coopBad d = false → d / 2 ^ 18 % 4 = 0 →
      (x.sq.syncing = false → x.sq.grp = none → (∀ o ∈ x.sq.queue, o.1 ≠ .mleave) →
        ((coopGrp d s.aclk).rows * (coopGrp d s.aclk).cols = 1 → groupOf s x.sq.cons.ctx (d / 2 ^ 32) = [] →
          groupSaved s x.sq.cons.ctx (d / 2 ^ 32) = [] → d < 2 ^ 64 →
          exec i s = .next (lists { x.sq with grp := some { coopGrp d s.aclk with formed := true } } .mcoop)) ∧
        (d < 2 ^ 64 → (∀ m ∈ groupOf s x.sq.cons.ctx (d / 2 ^ 32), ∀ h, m.2.grp = some h → agrees (coopGrp d s.aclk) h = true) →
          (∀ m ∈ groupSaved s x.sq.cons.ctx (d / 2 ^ 32), ∀ h, m.grp = some h → agrees (coopGrp d s.aclk) h = true) →
          (groupOf s x.sq.cons.ctx (d / 2 ^ 32)).length + 1 < (coopGrp d s.aclk).rows * (coopGrp d s.aclk).cols ∨
            groupSaved s x.sq.cons.ctx (d / 2 ^ 32) ≠ [] →
          exec i s = .next (s.setSeq x.k { x.sq with grp := some (coopGrp d s.aclk), syncing := true }).waitIssue) ∧
        (d < 2 ^ 64 → (∃ m ∈ groupOf s x.sq.cons.ctx (d / 2 ^ 32), ∃ h, m.2.grp = some h ∧ agrees (coopGrp d s.aclk) h = false) ∨
            (∃ m ∈ groupSaved s x.sq.cons.ctx (d / 2 ^ 32), ∃ h, m.grp = some h ∧ agrees (coopGrp d s.aclk) h = false) →
          exec i s = .next (faultSeq s x (.of 0x63 1 0)))) ∧
      (x.sq.syncing = false → x.sq.grp.isSome = true → (∀ o ∈ x.sq.queue, o.1 ≠ .mleave) →
        exec i s = .next (faultSeq s x (.of 0x63 3 0))) ∧
      (∀ g, x.sq.syncing = true → x.sq.grp = some g → g.formed = true →
        exec i s = .next (lists { x.sq with syncing := false } .mcoop)) ∧
      (∀ g, x.sq.syncing = true → x.sq.grp = some g → g.formed = false →
        (groupFull s x.sq.cons.ctx g = false → exec i s = .next s.waitIssue) ∧
        (groupFull s x.sq.cons.ctx g = true → ∃ r q', exec i s = .next r ∧ SMap.find? r.seqs x.k = some q' ∧
          q'.grp = some { g with formed := true } ∧ q'.syncing = false))) ∧
    (coopBad d = false → d / 2 ^ 18 % 4 ≠ 0 →
      (x.sq.grp = none → exec i s = .next (faultSeq s x (.of 0x63 3 0))) ∧
      (∀ g, x.sq.inGroup = some g → d < 2 ^ 64 →
        (g.key ≠ d / 2 ^ 32 → exec i s = .next (faultSeq s x (.of 0x63 3 0))) ∧
        (g.key = d / 2 ^ 32 → d / 2 ^ 18 % 4 = 2 → exec i s = .next (lists x.sq .mleave)) ∧
        (g.key = d / 2 ^ 32 → d / 2 ^ 18 % 4 = 1 → SMap.sortedFrom 0 s.seqs = true →
          let n := if x.sq.syncing then g.syncs else g.syncs + 1
          let met : Prop := x.sq.queue = [] ∧ ∀ m ∈ members s x.sq, m.1 ≠ x.k → ∀ h, m.2.grp = some h →
            n < h.syncs ∨ h.syncs = n ∧ (m.2.syncing = false ∨ m.2.queue = [])
          (met → exec i s = .next (lists { x.sq with grp := some { g with syncs := n }, syncing := false } .mcoop)) ∧
          (¬ met → exec i s = .next (s.setSeq x.k { x.sq with grp := some { g with syncs := n }, syncing := true }).waitIssue))))) ∧
  (∀ (s : State) (k : Nat) (q : Seq) (g : Grp), s.seqs = [(k, q)] → q.grp = some g → SMap.sortedFrom 0 s.ctxs = true →
    (g.formed = false → g.since + 1048576 ≤ s.aclk → (s.ctx q.cons.ctx).st = .active →
      ∃ r, exec .coopJoinTimeout s = .next r ∧ (r.ctx q.cons.ctx).st = .faulted ∧ (r.ctx q.cons.ctx).fatal = 0x63) ∧
    (g.formed = true ∨ s.aclk < g.since + 1048576 → exec .coopJoinTimeout s = .next s))

/-- TEX words enter their core's sampler FIFO with every operand, and their quad is in flight; TRAV.RESUME appends, per active
lane, its 256-byte record with STATE RESUME to the traversal FIFO, and its port's reservation falls by as many. Without room they
wait; more records than the FIFO has entries stand in line for an empty one, the reservation falls for all of them, and the word
holds its port and the FIFO until the last has its place, as QAPP does. Neither changes a register or a byte of memory (R253,
R396-R399). -/
def Obligations.VerticalWordsSubmit : Prop :=
  (∀ (s : State) (x : WCtx) (w : VWord) (i : Instr) (form ch n : Nat), texRow i = some (w, form, ch, n) → waveOf s w.msel = some x →
    issueFault s x ([(.vDst 4 4, w.d), (.uniPair, w.a)] ++ (if form = 2 then [] else [(.uniPair, w.b)]) ++ [(.vSrc n, w.c)]) 1000 = none →
    x.e ≠ 0 → tokenFull x.wv w.token = false →
    let g := coreOfWave x.v
    (samplerRoom s g = false → exec i s = .next s.waitIssue) ∧
    (samplerRoom s g = true → SMap.sortedFrom 0 s.vqs = true → ∃ r u, exec i s = .next r ∧
      (r.vq g).tex = (s.vq g).tex ++ [.tex x.v s.nextId x.cl.h form ch (readUniPair s x.v x.wv w.a)
        (if form = 2 then 0 else readUniPair s x.v x.wv w.b) (s.ctx x.wv.ctx).filter x.wv.ctx
        ((lanesOf x.e).map (fun l => (l, (List.range n).map (fun j => readV s x.wv (w.c.toNat + j) l)))) w.d.toNat s.aclk] ∧
      SMap.find? r.waves x.v = some u ∧ u.v = x.wv.v ∧ u.w = x.wv.w ∧ u.m = x.wv.m ∧ u.x = x.wv.x ∧ (∃ op, u.ops = x.wv.ops ++ [op] ∧ op.kind = .tex ∧ op.id = s.nextId) ∧
      r.mem = s.mem ∧ r.l1 = s.l1)) ∧
  (∀ (s : State) (x : WCtx) (w : VWord) (t : Team) (e : Edge), waveOf s w.msel = some x → SMap.find? s.teams x.wv.team = some t →
    issueFault s x [(.vSrc 64, w.a), (.codes ((List.range 16).map (· + 0x180)), w.b)] 1000 = none → x.e ≠ 0 → x.cl.sent = 0 →
    tokenFull x.wv w.token = false →
    let k := t.cons
    let port := w.b.toNat - 0x180
    let g := coreOfWave x.v
    let n := (lanesOf x.e).length
    let words (l : Nat) : List Word := (List.range 64).map (fun j =>
      if j = 26 then (readV s x.wv (w.a.toNat + 26) l &&& 0xFFFF00FF) ||| 0x200 else readV s x.wv (w.a.toNat + j) l)
    (portEdge s k.ctx k.img k.node port = none → exec (.travResume w) s = .next (faultWave s x (.of 0x40 port x.e))) ∧
    (portEdge s k.ctx k.img k.node port = some e →
      (e.cont = true ∨ kindOf s k.ctx k.img e.dst ≠ 2 → exec (.travResume w) s = .next (faultWave s x (.of 0x42 port x.e))) ∧
      (e.cont = false → kindOf s k.ctx k.img e.dst = 2 →
        (SMap.get 0 k.resv port < n → exec (.travResume w) s = .next (faultWave s x (.of 0x40 port x.e))) ∧
        (n ≤ SMap.get 0 k.resv port →
          (fifoRoom s g 2 n = false → exec (.travResume w) s = .next s.waitIssue) ∧
          (fifoRoom s g 2 n = true → SMap.sortedFrom 0 s.vqs = true → SMap.sortedFrom 0 k.resv = true →
            ∃ r t' u, exec (.travResume w) s = .next r ∧
            (r.vq g).trv = (s.vq g).trv ++ (lanesOf x.e).zipIdx.map (fun p =>
              .item k.ctx k.img e.dst (sentRecord s (words p.1) x.wv.tag 0 none p.2)) ∧
            r.mem = s.mem ∧ r.sys = s.sys ∧ r.l1 = s.l1 ∧ r.transit = s.transit ∧
            SMap.find? r.teams x.wv.team = some t' ∧ SMap.get 0 t'.cons.resv port = SMap.get 0 k.resv port - n ∧
            (∀ p, p ≠ port → SMap.get 0 t'.cons.resv p = SMap.get 0 k.resv p) ∧
            (∀ qu, SMap.find? s.queues (qidOf s k.ctx k.img e.dst) = some qu →
              ∃ qu', SMap.find? r.queues (qidOf s k.ctx k.img e.dst) = some qu' ∧ qu'.rv = qu.rv - n) ∧
            SMap.find? r.waves x.v = some u ∧ u.v = x.wv.v ∧ u.w = x.wv.w ∧ u.m = x.wv.m ∧ u.x = x.wv.x ∧ u.nstat = x.wv.nstat ∧
            (∀ v, v ≠ x.v → SMap.find? r.waves v = SMap.find? s.waves v) ∧
            (n ≤ 16 → r.issue = s.issue) ∧
            (16 < n → (s.vq g).trv = [] ∧ r.issue = .hold ∧ SMap.find? (r.vq g).hold 2 = some x.v ∧
              u.run = some { x.cl with sent := 1 })))))) ∧
  (∀ (s : State) (x : WCtx) (w : VWord), waveOf s w.msel = some x → x.cl.sent ≠ 0 →
    exec (.travResume w) s = exec (.qapp w) s)

/-- The arithmetic words of a moraine core, and those of its scalars and predicates: each active lane of z[D] receives what
R451 gives, VSEL every lane, VRED k[D], VCVT also NSTAT; KALU, KADDI, KMOVI, KGET and PLOGIC their one register. The word goes
on to the next, and nothing else of the state changes (R447, R448, R451-R455). -/
def Obligations.MoraineWordsWriteTheirRegisters : Prop :=
  ∀ (s : State) (m : Nat) (kn : Kern), RunsKern s m kn → kn.regs.canon = true →
    let r := kn.regs
    let done (i : Instr) (q : MRegs → Prop) : Prop :=
      ∃ r' : MRegs, exec i s = .next (s.setKern m { kn with regs := r' }) ∧ q r'
    (∀ (i : Instr) (w : MR) (f : Word → Word → Word → DWord → DWord → Nat → Word), morVecTable i = some (w, f) → i.wf = true →
      done i (fun r' => r'.nstat = r.nstat ∧ r.wrote r' w.d.toNat (fun l => (r.pr w.pred.toNat).getLsbD l) (fun l =>
        f (r.zr w.a.toNat l) (r.zr w.b.toNat l) (r.zr w.d.toNat l) (r.kr w.a.toNat) (r.kr w.b.toNat) l))) ∧
    (∀ w : MR, done (.vsel w) (fun r' => r'.nstat = r.nstat ∧ r.wrote r' w.d.toNat (fun _ => true) (fun l =>
      r.zr (if (r.pr w.pred.toNat).getLsbD l then w.a.toNat else w.b.toNat) l))) ∧
    (∀ (w : MR) (k : CvtKind) (se de : Elem), vcvtTable w.f.toNat = some (k, se, de) →
      let c (l : Nat) : Nat × Nat := cvtElem k 4 se de .ne false 0 0 ((r.zr w.a.toNat l).toNat % 2 ^ se.width)
      done (.vcvt w) (fun r' =>
        r.wrote r' w.d.toNat (fun l => (r.pr w.pred.toNat).getLsbD l) (fun l => BitVec.ofNat 32 (c l).1) ∧
        ∀ b, r'.nstat.getLsbD b = (r.nstat.getLsbD b ||
          (decide (b < 32) && (lanesOf (r.pr w.pred.toNat)).any (fun l => (c l).2.testBit b))))) ∧
    (∀ (cc : Cmp) (w : MR), (w.t.toNat = 0 ∨ w.t.toNat = 1) → [Cmp.eq, .ne, .lt, .le, .gt, .ge][w.f.toNat]? = some cc →
      w.d.toNat < 8 →
      done (.vcmp w) (fun r' => ∃ v : Mask, r.wroteP r' w.d.toNat v ∧ ∀ l, l < 64 → v.getLsbD l =
        (if (r.pr w.pred.toNat).getLsbD l then Cmp.onInts cc (asInt (w.t.toNat == 1) (r.zr w.a.toNat l)) (asInt (w.t.toNat == 1) (r.zr w.b.toNat l))
         else (r.pr w.d.toNat).getLsbD l))) ∧
    (∀ w : MR, w.t.toNat = 2 → w.f.toNat < 6 → w.d.toNat < 8 →
      done (.vcmp w) (fun r' => ∃ v : Mask, r.wroteP r' w.d.toNat v ∧ ∀ l, l < 64 → v.getLsbD l =
        (if (r.pr w.pred.toNat).getLsbD l then fCmp fp32 (n4 fp32) w.f.toNat (r.zr w.a.toNat l).toNat (r.zr w.b.toNat l).toNat
         else (r.pr w.d.toNat).getLsbD l))) ∧
    (∀ (w : MR) (f : Word → Word → Word), vredTable w.f.toNat = some f →
      done (.vred w) (fun r' => r.wroteK r' w.d.toNat (BitVec.ofNat 64
        (match (lanesOf (r.pr w.pred.toNat)).map (r.zr w.a.toNat) with | [] => 0 | v :: vs => vs.foldl f v).toNat))) ∧
    (∀ (w : MR) (op : XOp), [XOp.fadd, .fmin, .fmax][w.f.toNat - 8]? = some op → 8 ≤ w.f.toNat →
      let e := r.pr w.pred.toNat
      done (.vred w) (fun r' => r.wroteK r' w.d.toNat (BitVec.ofNat 64 (if e = 0 then 0 else
        nanToCanonical ((tree op false 6 ((List.range 64).map (fun j =>
          if e.getLsbD j then some (r.zr w.a.toNat j) else none))).getD 0)).toNat))) ∧
    (∀ (w : MR) (v : DWord), kaluTable w.f.toNat (r.kr w.a.toNat) (r.kr w.b.toNat) = some v →
      done (.kalu w) (fun r' => r.wroteK r' w.d.toNat v)) ∧
    (∀ w : MI, done (.kaddi w) (fun r' => r.wroteK r' w.d.toNat (BitVec.ofInt 64 ((r.kr w.a.toNat).toInt + w.imm.toInt)))) ∧
    (∀ w : MH, done (.kmovi w) (fun r' => ∃ v : DWord, r.wroteK r' w.d.toNat v ∧ ∀ b, b < 64 → v.getLsbD b =
      (if 16 * w.sh.toNat ≤ b ∧ b < 16 * w.sh.toNat + 16 then w.imm.getLsbD (b - 16 * w.sh.toNat)
       else !w.z && (r.kr w.d.toNat).getLsbD b))) ∧
    (∀ (w : MR) (v : Nat), (([m % 8, m / 8, kn.cons.ctx, kn.cons.tag, kn.cons.node, s.mclkOf (m / 8),
        ((launchOf s kn.cons.ctx kn.cons.tag).elim 0 (·.arg.toNat)), kn.recaddr.toNat, r.nstat.toNat, kn.commits] : List Nat))[w.a.toNat]? = some v →
      done (.kget w) (fun r' => r.wroteK r' w.d.toNat (BitVec.ofNat 64 v))) ∧
    (∀ w : MR, (Instr.plogic w).wf = true →
      let a := r.pr w.a.toNat
      let b := r.pr w.b.toNat
      (w.f.toNat = 0 → done (.plogic w) (fun r' => r.wroteP r' w.d.toNat (a &&& b))) ∧
      (w.f.toNat = 1 → done (.plogic w) (fun r' => r.wroteP r' w.d.toNat (a ||| b))) ∧
      (w.f.toNat = 2 → done (.plogic w) (fun r' => r.wroteP r' w.d.toNat (a ^^^ b))) ∧
      (w.f.toNat = 3 → done (.plogic w) (fun r' => r.wroteP r' w.d.toNat (a &&& ~~~ b))) ∧
      (w.f.toNat = 4 → done (.plogic w) (fun r' => r.wroteP r' w.d.toNat (r.kr w.a.toNat))) ∧
      (w.f.toNat = 5 → done (.plogic w) (fun r' => r.wroteK r' w.d.toNat a)) ∧
      (w.f.toNat = 6 → done (.plogic w) (fun r' => r.wroteK r' w.d.toNat
        (BitVec.ofNat 64 ((List.range 64).filter (fun l => a.getLsbD l)).length))))

/-- The memory, branch and ending words of a moraine core and MQAPP. Every address is checked before any lane performs:
F_VA_RANGE, F_MISALIGNED, translation, F_MORAINE_ADDR, and then what the home answers for the bytes that a load takes
from it. Loads read the span's own writes, else the home; stores go into the span
in ascending lane order and no byte of memory changes; past 2,048 sectors, past the section and past 16 records the word is
F_MORAINE_ILLEGAL. A fault discards the span (R439, R441-R444, R449, R450, R455, R456). -/
def Obligations.MoraineMemoryAndControlWords : Prop :=
  (∀ (s : State) (m : Nat) (kn : Kern) (i : Instr) (as : List MAcc) (n : Nat) (acc : Acc), RunsKern s m kn →
    morRow kn.regs i = some (as, n, acc) → i.wf = true →
    let r := kn.regs
    let lanes (q : MAcc → Bool) : Mask := maskOf ((as.filter q).map (·.lane))
    let fault (cause sub va : Nat) (l : Mask) : State := faultMoraine s m kn cause sub va l 0
    (∀ a rest, as.filter (fun a => decide (2 ^ 52 ≤ a.addr)) = a :: rest →
      exec i s = .next (fault 0x20 0 a.addr (lanes (fun a => decide (2 ^ 52 ≤ a.addr))))) ∧
    (∀ a rest, (∀ b ∈ as, b.addr < 2 ^ 52) → as.filter (fun a => a.addr % n != 0) = a :: rest →
      exec i s = .next (fault 0x22 0 a.addr (lanes (fun a => a.addr % n != 0)))) ∧
    ((∀ b ∈ as, b.addr < 2 ^ 52 ∧ b.addr % n = 0) →
      let rs : List Req := as.map (fun a => { lane := a.lane, va := a.addr, size := n, acc := acc })
      let g := gateBy none (m / 16) kn.cons.ctx (askerOf s) (fun r => translate s none (m / 16) kn.cons.ctx r.va r.acc) rs
      (∀ ws, g = .wait ws → exec i s = .next (ws.foldl askWalk s)) ∧
      (∀ ps, g = .park ps → ∃ t, exec i s = .next t ∧ SMap.find? t.kerns m = some { kn.discard with park := .xlat } ∧
        (t.ctx kn.cons.ctx).pageWait = true ∧ t.mem = s.mem) ∧
      (∀ f, g = .fatal f → exec i s = .next (faultMoraine s m kn f.cause f.sub f.va f.lanes f.detail)) ∧
      (∀ pas a rest, g = .go pas → (as.zip pas).filter (fun a => dramOf a.2 != some (m / 8)) = a :: rest →
        exec i s = .next (fault 0x28 (match dramOf a.2 with | some d => d | none => 0xFF) a.1.addr
          (maskOf (((as.zip pas).filter (fun a => dramOf a.2 != some (m / 8))).map (·.1.lane))))) ∧
      (∀ pas f, g = .go pas → pas.length = as.length → (∀ pa ∈ pas, dramOf pa = some (m / 8)) →
        gateBy none (m / 16) kn.cons.ctx (askerOf s) (morXl s { m := m, kn := kn }) rs = .fatal f →
        exec i s = .next (faultMoraine s m kn f.cause f.sub f.va f.lanes f.detail))) ∧
    (∀ pas, MorReaches s m kn as n acc pas →
      let used : List Nat := (kn.pages ++ as.map (fun (a : MAcc) => a.addr / 4096)).eraseDups
      let read (pa : Nat) : Nat := natOfBytes ((List.range n).map (fun j => spanByte s kn (pa + j)))
      (acc = .read → r.canon = true → ∃ t r', exec i s = .next t ∧ SMap.find? t.kerns m = some { kn with regs := r', pages := used } ∧
        t.mem = s.mem ∧ t.sys = s.sys ∧ t.l1 = s.l1 ∧ t.ctxs = s.ctxs ∧ t.waves = s.waves ∧ r'.nstat = r.nstat ∧
        (∀ w, i = .vldS w ∨ i = .vldG w → r.wrote r' w.d.toNat (fun l => (r.pr w.pred.toNat).getLsbD l)
          (fun l => BitVec.ofNat 32 (((as.zip pas).find? (fun p => p.1.lane == l)).elim 0 (fun p => read p.2)))) ∧
        (∀ w, i = .kld w → r.wroteK r' w.d.toNat (BitVec.ofNat 64 (read (pas.headD 0))))) ∧
      (acc = .write → ∃ ws : SMap Byte,
        (∀ a, SMap.find? ws a = (as.zip pas).foldl (fun o p =>
          if p.2 ≤ a ∧ a < p.2 + n then some (BitVec.ofNat 8 (morData r i p.1.lane / 256 ^ (a - p.2))) else o) (SMap.find? kn.writes a)) ∧
        (spanSectors ws ≤ 2048 → exec i s = .next (s.setKern m { kn with writes := ws, regs := r.step, pages := used })) ∧
        (2048 < spanSectors ws → exec i s = .next (fault 0x17 4 0 0))))) ∧
  (∀ (s : State) (m : Nat) (kn : Kern) (r : Req) (pa : Nat), translate s none (m / 16) kn.cons.ctx r.va r.acc = .hit pa →
    let own (j : Nat) : Prop := SMap.find? kn.writes (pa + j) ≠ none
    let x := morXl s { m := m, kn := kn } r
    (r.acc ≠ .read → x = .hit pa) ∧
    (r.acc = .read →
      (offline s pa = true → (∃ j, j < r.size ∧ ¬ own j) → x = .fault 0x29) ∧
      (offline s pa = false → (∃ j, j < r.size ∧ ¬ own j ∧ poisoned s (pa + j) 1 = true) → x = .fault 0x30) ∧
      ((∀ j, j < r.size → own j ∨ offline s pa = false ∧ poisoned s (pa + j) 1 = false) → x = .hit pa))) ∧
  (∀ (s : State) (m : Nat) (kn : Kern) (im : Image) (i : Instr) (w : MJ) (c : Bool), RunsKern s m kn →
    imageOf s kn.cons.ctx kn.cons.img = some im → morBranchRow kn.regs i = some (w, c) → i.wf = true →
    let t : Int := kn.regs.pc + w.off.toInt
    (c = false → exec i s = .next (s.setKern m { kn with regs := { kn.regs with pc := kn.regs.pc + 1 } })) ∧
    (c = true → 0 ≤ t → t < im.mcode.length → exec i s = .next (s.setKern m { kn with regs := { kn.regs with pc := t.toNat } })) ∧
    (c = true → (t < 0 ∨ (im.mcode.length : Int) ≤ t) → exec i s = .next (faultMoraine s m kn 0x17 3 0 0 0))) ∧
  (∀ (s : State) (m : Nat) (kn : Kern), RunsKern s m kn →
    let on : MRegs := { kn.regs with pc := kn.regs.pc + 1 }
    exec .moraineYield s = .next (s.setKern m { kn with regs := on, ending := 1 }) ∧
    exec .moraineExit s = .next (s.setKern m { kn with regs := on, ending := 2 }) ∧
    ∀ w : MR, (Instr.mqapp w).wf = true →
      let k := kn.cons
      let port := w.f.toNat
      (portEdge s k.ctx k.img k.node port = none → exec (.mqapp w) s = .next (faultMoraine s m kn 0x42 port 0 0 0)) ∧
      ∀ e, portEdge s k.ctx k.img k.node port = some e →
        let pend := (kn.recs.filter (fun r => r.1 == port)).length
        (e.cont = true → exec (.mqapp w) s = .next (faultMoraine s m kn 0x42 port 0 0 0)) ∧
        (e.cont = false → SMap.get 0 k.resv port ≤ pend → exec (.mqapp w) s = .next (faultMoraine s m kn 0x40 port 0 0 0)) ∧
        (e.cont = false → pend < SMap.get 0 k.resv port → 16 ≤ kn.recs.length →
          exec (.mqapp w) s = .next (faultMoraine s m kn 0x17 5 0 0 0)) ∧
        (e.cont = false → pend < SMap.get 0 k.resv port → kn.recs.length < 16 →
          exec (.mqapp w) s = .next (s.setKern m { kn with
            regs := on
            recs := kn.recs ++ [(port, (List.range (recSize s k.ctx k.img e.dst / 4)).map (fun l => kn.regs.zr w.a.toNat l))] }))) ∧
  (∀ (s : State) (m : Nat) (kn : Kern) (cause sub va : Nat) (lanes : Mask) (detail : Nat),
    (s.ctx kn.cons.ctx).st = .active →
    let t := faultMoraine s m kn cause sub va lanes detail
    (t.ctx kn.cons.ctx).st = .faulted ∧ (t.ctx kn.cons.ctx).fatal = cause ∧
    SMap.find? t.kerns m = some { kn with regs := kn.ckpt, writes := [], recs := [], pages := [], ending := 0 } ∧ t.mem = s.mem ∧
    ∃ p, t.hub.reports = s.hub.reports ++ [p] ∧ p.cause = cause ∧ p.sub = sub ∧ p.va = va ∧ p.lanes = lanes ∧
      p.pc = 4 * kn.regs.pc ∧ p.unit = (5 + m / 8) * 4096 + m % 8)

/-- Kernels as consumers: the first record of a dispatcher starts on the lowest free core of its stack with the registers of
R436; a span commits as one step, after which its writes are at their homes and its records are on their way, and YIELD leaves a
new checkpoint while EXIT ends the kernel; a kernel that stops for pre-emption goes to a save slot with its checkpoint, and
resumes from it; one of a FAULTED context keeps its core; a span whose commit meets an error or a home out of service leaves no
effect, and its fault names the word that ended it, the model's reading of log 35 (R139, R436, R439, R440, R444-R446). -/
def Obligations.KernelsStartCommitStopAndResume : Prop :=
  (∀ (s : State) (d m i : Nat) (t : Transit) (nd : NodeInfo), freeMor s d = some m →
    bestKern (kernMoves s d) = some (.start i) → (SMap.get [] s.mdisp d)[i]? = some t → nodeOf s t.ctx t.img t.node = some nd →
    SMap.sortedFrom 0 s.mdisp = true →
    ∃ r kn, exec (.moraineKernelStart d) s = .next r ∧ SMap.find? r.kerns m = some kn ∧
      SMap.get [] r.mdisp d = (SMap.get [] s.mdisp d).eraseIdx i ∧ r.mem = s.mem ∧
      kn.cons.ctx = t.ctx ∧ kn.cons.img = t.img ∧ kn.cons.node = t.node ∧ kn.cons.tag = t.rcd.tag ∧ kn.cons.recs = [t.rcd] ∧
      kn.regs.pc = nd.entry ∧ kn.regs.nstat = 0 ∧
      (∀ n l, kn.regs.zr n l = (if n * 64 + l < t.rcd.words.length then t.rcd.words.getD (n * 64 + l) 0 else 0)) ∧
      kn.regs.kr 0 = BitVec.ofNat 64 ((t.rcd.words.getD 0 0).toNat + (t.rcd.words.getD 1 0).toNat * 2 ^ 32) ∧
      kn.regs.kr 1 = argOf s t.ctx t.rcd.tag ∧ (∀ n, 2 ≤ n → kn.regs.kr n = 0) ∧
      kn.regs.pr 0 = BitVec.allOnes 64 ∧ (∀ n, 1 ≤ n → kn.regs.pr n = 0) ∧
      kn.ckpt = kn.regs ∧ kn.writes = [] ∧ kn.recs = [] ∧ kn.commits = 0 ∧ kn.ending = 0 ∧ kn.park = .no) ∧
  (∀ (s : State) (m : Nat) (kn : Kern), SMap.find? s.kerns m = some kn → kn.ending = 1 ∨ kn.ending = 2 →
    ctxRuns s kn.cons.ctx = true → s.power = true → dieRuns s (2 + m / 16) = true → s.memWf = true →
    SMap.sortedFrom 0 kn.writes = true → SMap.sortedFrom 0 s.kerns = true →
    (∀ e ∈ kn.writes, dramOf e.1 = some (m / 8)) →
    (∀ p ∈ kn.recs, (portEdge s kn.cons.ctx kn.cons.img kn.cons.node p.1).isSome = true) → homeLoss s kn.writes = none →
    ∃ r, exec (.moraineSpanCommit m) s = .next r ∧
      (∀ a, homeByte r a = spanByte s kn a) ∧
      r.transit = s.transit ++ kn.recs.zipIdx.map (fun p => Transit.mk (unitOfMoraine m) (m / 16) kn.cons.ctx kn.cons.img
        ((portEdge s kn.cons.ctx kn.cons.img kn.cons.node p.1.1).elim 0 (·.dst)) (sentRecord s p.1.2 kn.cons.tag 0 none p.2) .no) ∧
      (kn.ending = 1 → ∃ k, SMap.find? r.kerns m = some { kn with
        cons := { kn.cons with resv := k }, ckpt := kn.regs, writes := [], recs := [], pages := [], commits := kn.commits + 1, ending := 0 }) ∧
      (kn.ending = 2 → SMap.find? r.kerns m = none)) ∧
  (∀ (s : State) (m c : Nat) (kn : Kern), SMap.find? s.kerns m = some kn → kn.ending = 1 ∨ kn.ending = 2 →
    ctxRuns s kn.cons.ctx = true → s.power = true → dieRuns s (2 + m / 16) = true → homeLoss s kn.writes = some c →
    ∃ r, exec (.moraineSpanCommit m) s = .next r ∧ r.mem = s.mem ∧ r.transit = s.transit ∧
      SMap.find? r.kerns m = some kn.discard ∧ (r.ctx kn.cons.ctx).st = .faulted ∧ (r.ctx kn.cons.ctx).fatal = c ∧
      ∃ p, r.hub.reports = s.hub.reports ++ [p] ∧ p.cause = c ∧ p.pc = 4 * (kn.regs.pc - 1) ∧ p.unit = (5 + m / 8) * 4096 + m % 8) ∧
  (∀ (s : State) (m : Nat) (kn : Kern), SMap.find? s.kerns m = some kn → kn.ending = 0 →
    exec (.moraineSpanCommit m) s = .next s ∧
    (∀ slot, (s.ctx kn.cons.ctx).st ≠ .faulted → kn.stop = true → kn.park = .no → freeSlot s (m / 8) = some slot → SMap.sortedFrom 0 s.kerns = true → s.memWf = true →
      let saved : Kern := { kn with regs := kn.ckpt, writes := [], recs := [], pages := [] }
      ∃ r, exec (.moraineKernelStop m) s = .next r ∧ SMap.find? r.kerns m = none ∧
        r.savedKerns = s.savedKerns ++ [(m / 8, slot, saved)] ∧
        ∀ a, SMap.get 0 r.mem a = (if slotAddr (m / 8) slot ≤ a ∧ a < slotAddr (m / 8) slot + 8576
          then (slotBytes (fun j => Config.freeNat s.free (0x46000 + j)) saved).getD (a - slotAddr (m / 8) slot) 0 else SMap.get 0 s.mem a)) ∧
    ((s.ctx kn.cons.ctx).st = .faulted → exec (.moraineKernelStop m) s = .next (s.setKern m kn.discard)) ∧
    (kn.stop = false ∨ kn.park ≠ .no ∨ freeSlot s (m / 8) = none → (s.ctx kn.cons.ctx).st ≠ .faulted → exec (.moraineKernelStop m) s = .next s)) ∧
  (∀ (s : State) (d m i : Nat) (e : Nat × Nat × Kern), freeMor s d = some m → bestKern (kernMoves s d) = some (.back i) →
    s.savedKerns[i]? = some e → exec (.moraineKernelResume d) s = .next ({ s with
      savedKerns := s.savedKerns.eraseIdx i
      kerns := SMap.insert m { e.2.2 with stop := false, immune := some (e.2.2.commits, s.mclkOf d) } s.kerns }.count ((5 + d) * 4096 + 0x10)))

/-- A module reset returns every unit to its reset state; the fuses, the flash and host memory survive and the boot counter
rises (R39, R50, R82, R83). A die goes from RUN through QUIESCE, DRAIN, HELD and INIT to RUN, each at the event of its end or its
bound; the contexts still on it at the end of QUIESCE are faulted with F_DIE_RESET, the dirty lines of its L1s reach their homes
in DRAIN, which past its bound has failed, the records of its consumers that have not exited go back to their queues, and in HELD nothing else of it is left; a stack cut off from the
hub stays out of service (R30, R40-R44). That a context in ABORTING is only reported is log entry 29's. -/
def Obligations.ResetsOfTheModuleAndItsDies : Prop :=
  (∀ (s : State) (i : Instr), i = .pcieFundamentalReset ∨ i = .dieResetModule → ∃ r, exec i s = .next r ∧
    r.ctxs = [] ∧ r.queues = [] ∧ r.transit = [] ∧ r.teams = [] ∧ r.waves = [] ∧ r.seqs = [] ∧ r.kerns = [] ∧ r.savedKerns = [] ∧
    r.l1 = [] ∧ r.tlb1 = [] ∧ r.tlb2 = [] ∧ r.walks = [] ∧ r.dies = [] ∧ r.links = [] ∧ r.heads = [] ∧ r.vencs = [] ∧ r.power = true ∧
    r.hclk = 0 ∧ r.hub.flogWr = 0 ∧ r.hub.flogRd = 0 ∧ r.hub.reports = [] ∧ r.hub.armed = true ∧
    r.hub.errStatus = (if s.fuses.trip then 512 else 0) ∧
    r.fuses = { s.fuses with boots := s.fuses.boots + 1, trip := false } ∧ r.sys = s.sys ∧ r.msix = s.msix ∧ r.answers = s.answers ∧
    r.msgs = [] ∧ r.engines = [] ∧ r.vqs = [] ∧ r.mdisp = [] ∧ r.steals = [] ∧ r.transit = [] ∧ r.savedSeqs = []) ∧
  (∀ (s : State) (n : Nat), 2 ≤ n → exec (.dieResetCompute n) s = .next s ∧ exec (.dieResetFoundation n) s = .next s) ∧
  (∀ (s : State) (n : Nat), n < 2 →
    ((s.die n).st = .run → exec (.dieResetCompute n) s = .next (s.setDie n { s.die n with st := .quiesce, since := s.hclk })) ∧
    ((s.die n).st ≠ .run → exec (.dieResetCompute n) s = .next s) ∧
    ((s.die (2 + n)).st ≠ .run → exec (.dieResetFoundation n) s = .next s) ∧
    ((s.die (2 + n)).st = .run → ∃ r, exec (.dieResetFoundation n) s = .next r ∧ r = { s with dies := r.dies } ∧
      (r.die (2 + n)).st = .quiesce ∧ (r.die (2 + n)).since = s.hclk ∧ (r.die n).follow = true ∧
      (r.die n).st = (if (s.die n).st = .run then .quiesce else (s.die n).st) ∧
      ∀ d, d ≠ n → d ≠ 2 + n → r.die d = s.die d)) ∧
  (∀ (s : State) (d : Nat) (i : Instr), d < 4 → (s.die d).st = .quiesce → (∀ e, e < 4 → e ≠ d → (s.die e).st ≠ .quiesce) →
    i = .quiesceComplete ∨ i = .quiesceTimeout →
    let ends : Bool := if i = .quiesceTimeout then decide ((s.die d).since + 65536 ≤ s.hclk) else dieEmpty s d
    let cs := onCompute s (d % 2) ++ (if d < 2 then [] else onFoundation s (d % 2))
    (ends = false → exec i s = .next s) ∧
    (ends = true → ∃ r, exec i s = .next r ∧ (r.die d).st = .drain ∧ (r.die d).since = s.hclk ∧
      (∀ c ∈ cs, (s.ctx c).st ≠ .faulted → (s.ctx c).st ≠ .aborting → (r.ctx c).st = .faulted ∧ (r.ctx c).fatal = 0x32) ∧
      (∀ c ∈ cs, (s.ctx c).st = .faulted ∨ (s.ctx c).st = .aborting → r.ctx c = s.ctx c) ∧
      (∀ c ∈ cs, (r.die d).hit.contains (if (s.ctx c).st = .faulted then c + 32 else c) = true) ∧
      (∀ c, c ∉ cs → r.ctx c = s.ctx c) ∧ (∀ e, e ≠ d → r.die e = s.die e) ∧
      r = { s with dies := r.dies, ctxs := r.ctxs })) ∧
  (∀ (s : State) (d : Nat) (i : Instr) (failed : Bool), d < 4 → (s.die d).st = .drain →
    (failed = false ∧ i = .drainComplete d ∧ s.hclk < (s.die d).since + 262144 ∧ drainWaits s (d % 2) = false) ∨
    (failed = true ∧ (s.die d).since + 262144 ≤ s.hclk ∧
      (i = .drainComplete d ∨ i = .drainTimeout ∧ ∀ e, e < 4 → e ≠ d → (s.die e).st ≠ .drain)) →
    ∃ r, exec i s = .next r ∧ (r.die d).st = .held ∧ (r.die d).since = s.hclk ∧ (failed = true → (r.die d).fail = true) ∧
      (∀ e ∈ r.l1, l1Core e.1 / 96 ≠ d % 2) ∧ (∀ w ∈ r.waves, stackOfCore (coreOfWave w.1) ≠ d % 2) ∧
      (∀ t ∈ r.teams, t.2.st = .written ∨ stackOfCore t.2.core ≠ d % 2) ∧ (∀ e ∈ r.engines, e.1 / 24 ≠ d % 2) ∧
      (∀ q ∈ r.seqs, q.1 / 24 ≠ d % 2) ∧ (∀ e ∈ r.tlb1, stackOfCore e.1 ≠ d % 2) ∧
      (∀ e ∈ r.vqs, e.1 / 96 = d % 2 → e.2.tex = [] ∧ e.2.hold = []) ∧
      (∀ k v, SMap.find? s.vqs k = some v → ∃ v', SMap.find? r.vqs k = some v' ∧ v'.ras = v.ras ∧ v'.trv = v.trv) ∧
      (2 ≤ d → (∀ k ∈ r.kerns, k.1 / 16 ≠ d % 2) ∧ (∀ q ∈ r.queues, q.2.half (d % 2) = Half.empty) ∧
        (∀ m ∈ r.mdisp, m.1 / 2 ≠ d % 2) ∧ (∀ e ∈ r.claims, e.1 % 2 ≠ d % 2)) ∧
      (d < 2 → ∀ t ∈ s.teams, t.2.st ≠ .written → stackOfCore t.2.core = d → ∀ q,
        SMap.find? s.queues (qidOf s t.2.cons.ctx t.2.cons.img t.2.cons.node) = some q →
        ∃ q', SMap.find? r.queues (qidOf s t.2.cons.ctx t.2.cons.img t.2.cons.node) = some q' ∧
          ∀ w ∈ computeWaves s t.2, ∀ x ∈ w.2.recs, x ∈ (q'.half d).recs) ∧
      (s.homesUp → failed = false → d < 2 ∨ (s.die d).fail = false →
        r.hub.reports = s.hub.reports ++ (s.die d).hit.map (fun m => { reportOf (m % 32) ((1 + d) * 4096) 0xFFFF 0 (.of 0x32 0 0) with
          flags := (if (s.die d).fail then 2 else 0) + if 32 ≤ m then 4 else 0 })) ∧
      (s.homesUp → failed = false → s.inOrder = true → ∀ e ∈ s.l1, l1Core e.1 / 96 = d % 2 → e.2.st = .m → (∀ f ∈ s.l1, f.2.st ≠ .u) →
        ∀ j, j < 128 → homeByte r (l1Line e.1 * 128 + j) =
          (if e.2.dirty.getLsbD j then e.2.data.extractLsb' (8 * j) 8 else homeByte s (l1Line e.1 * 128 + j)))) ∧
  (∀ (s : State) (d : Nat), 4 ≤ d ∨ (s.die d).st ≠ .drain ∨ (s.hclk < (s.die d).since + 262144 ∧ drainWaits s (d % 2) = true) →
    exec (.drainComplete d) s = .next s) ∧
  (∀ (s : State) (d : Nat), 4 ≤ d → exec (.initComplete d) s = .next s) ∧
  (∀ s : State, (∀ e, e < 4 → (s.die e).st = .drain → s.hclk < (s.die e).since + 262144) → exec .drainTimeout s = .next s) ∧
  (∀ (s : State), (∀ d, d < 4 → heldOver s d = false) → exec .heldExpiry s = .next s) ∧
  (∀ (s : State) (n : Nat), n < 2 → ∃ r, exec .heldExpiry s = .next r ∧ r = { s with dies := r.dies } ∧
    ((s.die n).st = .held → (s.die n).since + 4096 ≤ s.hclk → linkDown s (1 + n) = false → (s.die n).follow = false →
      (r.die n).st = .init ∧ (r.die n).since = s.hclk) ∧
    ((s.die (2 + n)).st = .held → ((s.die n).st = .held ∧ (s.die n).since + 4096 ≤ s.hclk) ∨ (s.die n).st = .init →
      (s.die (2 + n)).since + 4096 ≤ s.hclk →
      linkDown s (1 + n) = false →
      (r.die n).st = .init ∧ (r.die (2 + n)).st = .init ∧ (r.die (2 + n)).since = s.hclk) ∧
    ((s.die (2 + n)).st ≠ .held → (s.die n).follow = true → r.die n = s.die n) ∧
    ((s.die n).st = .held → s.hclk < (s.die n).since + 4096 → r.die n = s.die n ∧ r.die (2 + n) = s.die (2 + n)) ∧
    (linkDown s (1 + n) = true → r.die n = s.die n ∧ r.die (2 + n) = s.die (2 + n))) ∧
  (∀ (s : State) (d : Nat), d < 4 → SMap.sortedFrom 0 s.dies = true →
    ((s.die d).st ≠ .init → exec (.initComplete d) s = .next s) ∧
    (linkDown s (1 + d % 2) = true → exec (.initComplete d) s = .next s) ∧
    ((s.die d).st = .init → d < 2 → (s.die d).follow = true → exec (.initComplete d) s = .next s) ∧
    ((s.die d).st = .init → (2 ≤ d ∨ (s.die d).follow = false) → linkDown s (1 + d % 2) = false →
      ∃ r, exec (.initComplete d) s = .next r ∧
      (s.hub.held = [] → r = { s with dies := r.dies }) ∧ (r.die d).st = .run ∧
      (2 ≤ d → (s.die (d - 2)).st = .init → (r.die (d - 2)).st = .run ∧ (r.die (d - 2)).follow = false)))

/-- A flit retry counts in HUB_LINK_RETRY, to 65,535 at most, and the last of a flit's takes the link to retraining, which ends
with the link up, or after 1,048,576 HCLK down with its stack's dies in a reset (R29, R30, R79). Firmware changes the ACLK point
only as the lock allows, and the tree then stands for 20,000 HCLK at most, a context that waits for the lock takes it, and a lower point for power or heat breaks the locks above
it; a thermal trip takes the power (R31, R48-R50, R63). The firmware's images run only if every check passes, a running one has
keys of its boot, which sign its reports until they are used up, and the fused minimum never falls (R81-R83). How keys are drawn,
the form of the transcript and what the flash's own failure is are log entry 33's. -/
def Obligations.LinksClocksPowerAndFirmware : Prop :=
  (∀ (s : State) (l : Nat) (out : Bool), l ≤ 2 →
    (SMap.get .up s.links l = .up → ∃ r, exec (.linkFlitRetry l out) s = .next r ∧
      SMap.get 0 r.hub.retry l = min 65535 (SMap.get 0 s.hub.retry l + 1) ∧
      SMap.get .up r.links l = (if out then .training s.hclk else .up) ∧
      (∀ k, k ≠ l → SMap.get .up r.links k = SMap.get .up s.links k ∧ SMap.get 0 r.hub.retry k = SMap.get 0 s.hub.retry k) ∧
      r = { s with links := r.links, hub := { s.hub with retry := r.hub.retry } }) ∧
    (SMap.get .up s.links l ≠ .up → exec (.linkFlitRetry l out) s = .next s)) ∧
  (∀ (s : State) (l : Nat) (out : Bool), 2 < l → exec (.linkFlitRetry l out) s = .next s) ∧
  (∀ (s : State) (l : Nat),
    (∀ t, SMap.get .up s.links l = .training t → SMap.sortedFrom 0 s.links = true →
      (s.hclk < t + 1048576 → ∃ r, exec (.linkRetrainDone l) s = .next r ∧
        SMap.get .up r.links l = .up ∧ r.hub.errStatus.testBit 3 = true ∧ r.dies = s.dies) ∧
      (t + 1048576 ≤ s.hclk → exec (.linkRetrainDone l) s = .next s)) ∧
    ((∀ t, SMap.get .up s.links l ≠ .training t) → exec (.linkRetrainDone l) s = .next s)) ∧
  (∀ (s : State), ∃ r, exec .linkRetrainTimeout s = .next r ∧ ∀ l, l ≤ 2 →
    (∀ t, SMap.get .up s.links l = .training t → t + 1048576 ≤ s.hclk → SMap.get .up r.links l = .down ∧
      r.hub.errStatus.testBit 4 = true ∧ (1 ≤ l → (s.die (1 + l)).st = .run → (r.die (1 + l)).st = .quiesce)) ∧
    ((∀ t, SMap.get .up s.links l = .training t → s.hclk < t + 1048576) →
      SMap.get .up r.links l = SMap.get .up s.links l ∧ (1 ≤ l → r.die (1 + l) = s.die (1 + l)))) ∧
  (∀ (s : State) (p : Nat), 16 ≤ p → p ≤ 64 → s.power = true →
    let moved (s : State) (p : Nat) : State := { s with moving := some p, stopAt := if s.moving.isSome then s.stopAt else s.hclk }
    (s.lock = 0 → (∃ e ∈ s.ctxs, e.2.st = .active ∧ e.2.clklock ≠ 0) →
      (∀ e ∈ s.ctxs, e.2.st = .active → e.2.clklock ≠ 0 → e.2.clklock = p) →
      exec (.aclkPointChange p) s = .next (moved s p)) ∧
    (s.lock = 0 → (∃ e ∈ s.ctxs, e.2.st = .active ∧ e.2.clklock ≠ 0) →
      (∀ e ∈ s.ctxs, e.2.st = .active → e.2.clklock ≠ p) → exec (.aclkPointChange p) s = .next s) ∧
    (s.lock = 0 → (∀ e ∈ s.ctxs, e.2.st = .active → e.2.clklock = 0) →
      exec (.aclkPointChange p) s = .next (moved s p)) ∧
    (s.lock ≠ 0 → exec (.aclkPointChange p) s = .next (if p = s.lock then moved s p else s))) ∧
  (∀ (s : State) (p : Nat), p < 16 ∨ 64 < p ∨ s.power = false → exec (.aclkPointChange p) s = .next s) ∧
  (∀ s : State, s.moving = none → exec .aclkPointChangeDone s = .next s ∧ pointDue s = s) ∧
  (∀ s : State, s.moving.isSome = true → (s.hclk < s.stopAt + 20000 → pointDue s = s) ∧
    (s.stopAt + 20000 ≤ s.hclk → exec .aclkPointChangeDone s = .next (pointDue s))) ∧
  (∀ (s : State) (c : Nat), (s.ctx c).st ≠ .waitClock → exec (.clockLockAcquire c) s = .next s) ∧
  (∀ (s : State) (p : Nat), s.moving = some p →
    (s.lock = 0 ∨ s.lock ≠ p → exec .aclkPointChangeDone s = .next { s with point := p, moving := none }) ∧
    (s.lock ≠ 0 → s.lock = p → ∃ r, exec .aclkPointChangeDone s = .next r ∧ r.point = p ∧ r.moving = none ∧ r.lock = 0 ∧
      ∀ c, (s.ctx c).st = .waitClock → (s.ctx c).clklock = p → (r.ctx c).st = .active)) ∧
  (∀ (s : State) (c : Nat), (s.ctx c).st = .waitClock → s.lock = 0 → (s.ctx c).clklock ≠ 0 →
    ((∀ e ∈ s.ctxs, e.2.st = .active → e.2.clklock = 0) → ∃ r, exec (.clockLockAcquire c) s = .next r ∧
      (s.point = (s.ctx c).clklock → s.moving = none → (r.ctx c).st = .active ∧ r.moving = none) ∧
      (s.point ≠ (s.ctx c).clklock ∨ s.moving ≠ none → (r.ctx c).st = .waitClock ∧ r.lock = (s.ctx c).clklock ∧
        r.moving = some (s.ctx c).clklock)) ∧
    (∀ e ∈ s.ctxs, e.2.st = .active → e.2.clklock ≠ 0 → (∀ f ∈ s.ctxs, f.2.st = .active → f.2.clklock ≠ 0 → f.2.clklock = e.2.clklock) →
      (e.2.clklock = (s.ctx c).clklock → ∃ r, exec (.clockLockAcquire c) s = .next r ∧ (r.ctx c).st = .active) ∧
      (e.2.clklock ≠ (s.ctx c).clklock → exec (.clockLockAcquire c) s = .next s))) ∧
  (∀ (s : State) (i : Instr) (b d : Nat), (i = .powerLimitExceeded ∧ b = 6) ∨ (i = .thermalAction d ∧ d < 4 ∧ b = 5) →
    s.power = true → 16 < s.point → ∃ r p, exec i s = .next r ∧ 16 ≤ p ∧ p < s.point ∧ r.moving = some p ∧
      r.hub.errStatus.testBit b = true ∧ r.mem = s.mem ∧ r.waves = s.waves ∧
      ∀ c, (r.ctx c).st = (s.ctx c).st ∧ ((s.ctx c).st = .active → p < (s.ctx c).clklock →
        (r.ctx c).lockBroken = true ∧ r.hub.errStatus.testBit 7 = true)) ∧
  (∀ s : State, s.power = false ∨ s.point ≤ 16 → exec .powerLimitExceeded s = .next s) ∧
  (∀ (s : State) (d : Nat), s.power = false ∨ 9 < d → exec (.thermalAction d) s = .next s ∧ exec (.thermalTrip d) s = .next s) ∧
  (∀ (s : State) (d : Nat), s.power = true → d < 4 → s.point ≤ 16 →
    ∃ r, exec (.thermalAction d) s = .next r ∧ r.hub.errStatus.testBit 5 = true ∧ r.point = s.point ∧ r.moving = s.moving) ∧
  (∀ (s : State) (d : Nat), s.power = true → d ≤ 9 →
    (4 ≤ d → ∃ r, exec (.thermalAction d) s = .next r ∧ d ∈ r.paced ∧ r.hub.errStatus.testBit 5 = true ∧ r.point = s.point ∧
      r.moving = s.moving) ∧
    exec (.thermalTrip d) s = .next { s with power := false, fuses := { s.fuses with trip := true } }) ∧
  (∀ (s : State) (g : Nat),
    (SMap.get 1 s.ratio g = 2 → (∃ t ∈ s.teams, t.2.core = g ∧ t.2.migrate = true ∧ (t.2.st = .stopping ∨ t.2.st = .stopped)) →
      ∃ r, exec (.quarterThrottle g) s = .next r ∧ SMap.get 1 r.ratio g = 4 ∧ (∀ h, h ≠ g → SMap.get 1 r.ratio h = SMap.get 1 s.ratio h) ∧
        r.hub.errStatus.testBit 5 = true ∧
        ∀ w ∈ coreWaves s g, (s.ctx w.2.ctx).st = .active → (s.ctx w.2.ctx).clklock ≠ 0 →
          (r.ctx w.2.ctx).lockBroken = true ∧ r.hub.errStatus.testBit 7 = true) ∧
    (SMap.get 1 s.ratio g ≠ 2 ∨ (∀ t ∈ s.teams, t.2.core = g → t.2.migrate = true → t.2.st ≠ .stopping ∧ t.2.st ≠ .stopped) → exec (.quarterThrottle g) s = .next s)) ∧
  (∀ (f : Fuses) (m : SMap Byte),
    let get (o n : Nat) : List Byte := (List.range n).map (fun j => SMap.get 0 m (o + j))
    let num (o n : Nat) : Nat := natOfBytes (get o n)
    let ke := get 0x80 97
    let kl := get 0x100 56
    let digest := sha384 (get 0 0x80 ++ get 0x1000 (num 0x14 4))
    let form : Prop := num 0 4 = 0x4E4C4657 ∧ num 4 4 = 1 ∧ num 0x14 4 % 4096 = 0 ∧ num 0x14 4 ≤ 0x4000000 ∧
      (∀ b ∈ get 0x18 0x68, b = 0) ∧ ∀ b ∈ get 0x8EC 0x714, b = 0
    let keys : Prop := sha384 ke = f.keyE ∧ sha384 kl = f.keyL
    (¬ form → checkFw f m = .inl 1) ∧ (form → ¬ keys → checkFw f m = .inl 2) ∧
    (form → keys → num 0x10 4 < f.minSvn → checkFw f m = .inl 3) ∧
    (form → keys → f.minSvn ≤ num 0x10 4 → ecdsaVerifies ke digest (get 0x140 96) = false → checkFw f m = .inl 4) ∧
    (form → keys → f.minSvn ≤ num 0x10 4 → ecdsaVerifies ke digest (get 0x140 96) = true →
      (lmsVerifies 20 kl digest (get 0x200 1772) = false → checkFw f m = .inl 5) ∧
      (lmsVerifies 20 kl digest (get 0x200 1772) = true →
        checkFw f m = .inr { svn := num 0x10 4, version := BitVec.ofNat 64 (num 8 8), digest := digest }))) ∧
  (∀ (s : State),
    let runs (h : Hub) (i : FwImage) : Hub := { h with
      fwState := 1, fwFail := 0, svn := i.svn, version := i.version, digest := i.digest, keys := bootKeys s.fuses }
    (s.hub.fwState ≠ 0 → exec .firmwareBoot s = .next s) ∧
    (s.hub.fwState = 0 → ∃ h, exec .firmwareBoot s = .next { s with hub := h } ∧
      ((s.fuses.flash ≠ [] ∧ h = { s.hub with fwState := 2, fwFail := 6 }) ∨
        h = (match checkFw s.fuses s.fuses.flash with
          | .inl n => { s.hub with fwState := 2, fwFail := n }
          | .inr i => runs s.hub i))) ∧
    (s.hub.fwState ≠ 2 → exec .fwLoad s = .next s) ∧
    (s.hub.fwState = 2 → exec .fwLoad s = .next (match checkFw s.fuses s.hub.staging with
      | .inl n => { s with hub := { s.hub with fwFail := n } }
      | .inr i => { s with hub := runs s.hub i, fuses := { s.fuses with flash := if s.hub.flashWrite then s.hub.staging else s.fuses.flash } })) ∧
    (exec .raiseSvn s = .next (if s.hub.fwState = 1 then
      { s with fuses := { s.fuses with minSvn := max s.fuses.minSvn s.hub.svn } } else s))) ∧
  (∀ (s : State) (t : List Byte),
    (∀ k, s.hub.keys = some k → s.hub.fwState = 1 → s.hub.reportsDone < 32768 → ∃ a, exec (.attestationRequest t) s = .next { s with
        hub := { s.hub with doe := s.hub.doe ++ [some a], reportsDone := s.hub.reportsDone + 1 } } ∧
      a.digest = s.hub.digest ∧ a.svn = s.hub.svn ∧ a.harvest = [harvestVal s 0, harvestVal s 1] ∧
      ∃ n x, a.ecdsa = ecdsaSign k.ecdsa n (transcriptHash s t) ∧
        a.block0xF0 = lmsSign 15 k.seed k.lmsId s.hub.reportsDone x (transcriptHash s t)) ∧
    (s.hub.keys = none ∨ s.hub.fwState ≠ 1 ∨ 32768 ≤ s.hub.reportsDone →
      exec (.attestationRequest t) s = .next { s with hub := { s.hub with doe := s.hub.doe ++ [none] } })) ∧
  (∀ f : Fuses, (1048576 ≤ f.boots → bootKeys f = none) ∧ (f.boots < 1048576 → bootKeys f ≠ none))

/-- A host write that R79 refuses has no effect but HUB_ERR_STATUS and HUB_ERR_LAST, with the lowest sub-code it meets;
REGISTER_WRITE sets the writable fields of its register and no other state; the aperture, of the size the host gave it, reads and
writes coherent memory and answers all ones over reserved addresses; an interrupt is sent as its vector's message, or is pending
while it is masked (R12, R13, R46, R51-R53, R59-R61, R64, R78-R80). That a range of two registers is judged by the first is log
entry 32's, the layout of an entry of the vector table is PCI Express's, log entry 7's, and that the lines an aperture write
reaches are clean in their home cache after it is log entry 12's. -/
def Obligations.HostWritesAndTheAperture : Prop :=
  (∀ (s : State) (w : HostWrite) (n : Nat) (i : Instr), i ∈ [Instr.registerWrite w, .ringDoorbell w, .ctxEnable w, .ctxDisable w,
      .tlbInvalidate w, .flogRdWrite w, .flogConfigWrite w, .displayEnable w, .displayDisable w, .videoSessionEnable w] →
    writeErr s w = some n → ∃ r, exec i s = .next r ∧ r.hub.errStatus.testBit 0 = true ∧
      (s.hub.errStatus % 2 = 0 → r.hub.errLast = n * 2 ^ 32 + w.off % 2 ^ 25) ∧ (s.hub.errStatus % 2 ≠ 0 → r.hub.errLast = s.hub.errLast) ∧
      r = { s with hub := { s.hub with errStatus := r.hub.errStatus, errLast := r.hub.errLast }, msix := r.msix }) ∧
  (∀ (s : State) (w : HostWrite), (wReg w = none → writeErr s w = some 2) ∧
    (∀ r, wReg w = some r →
      let x := wValue w
      let v := if isAction r then x else wMerged w (regVal s r)
      let tail (p : Ctx → Prop) : Prop := ∃ c, r = .ctx c .tail ∧ p (s.ctx c)
      let past (c : Ctx) (a : BitVec 32) : Prop := ringSize c.ringLog < (BitVec.ofNat 32 v - a).toNat
      let c1 : Prop := (x &&& (2 ^ 64 - 1 - regFields r)) ≠ 0 ∨ valueReserved r v = true
      let c3 : Prop := stateForbids s r v x = true
      let c4 : Prop := w.relaxed = true ∧ tail (fun _ => True)
      let c5 : Prop := tail (fun c => past c c.head ∨ past c c.tail)
      let c6 : Prop := tail (fun c => c.st = .disabled ∨ c.st = .faulted ∨ c.st = .aborting)
      let c7 : Prop := (if w.wide then w.off % 8 else w.off % 4) ≠ 0 ∨ (isAction r = true ∧ w.wide = false)
      (c1 → writeErr s w = some 1) ∧ (¬ c1 → c3 → writeErr s w = some 3) ∧ (¬ c1 → ¬ c3 → c4 → writeErr s w = some 4) ∧
      (¬ c1 → ¬ c3 → ¬ c4 → c5 → writeErr s w = some 5) ∧ (¬ c1 → ¬ c3 → ¬ c4 → ¬ c5 → c6 → writeErr s w = some 6) ∧
      (¬ c1 → ¬ c3 → ¬ c4 → ¬ c5 → ¬ c6 → c7 → writeErr s w = some 7)) ∧
    (∀ r, wReg w = some r →
      ((wValue w &&& (2 ^ 64 - 1 - regFields r)) ≠ 0 → writeErr s w = some 1) ∧
      (w.off % 4 ≠ 0 ∨ (w.wide = true ∧ w.off % 8 ≠ 0) ∨ (isAction r = true ∧ w.wide = false) →
        ∃ n, writeErr s w = some n ∧ n ≤ 7 ∧ n ≠ 2) ∧
      (writeErr s w = none → ∀ v, v = (if isAction r then wValue w else wMerged w (regVal s r)) →
        valueReserved r v = false ∧ stateForbids s r v (wValue w) = false))) ∧
  (∀ (s : State) (w : HostWrite) (c : Nat) (k : CReg), writeErr s w = none → wReg w = some (.ctx c k) →
    let v := wMerged w (regVal s (.ctx c k))
    let x := s.ctx c
    exec (.registerWrite w) s = .next (s.setCtx c (match k with
      | .ctl => { x with
          period := v / 2 ^ 48 % 2 ^ 16, slice := v / 2 ^ 32 % 2 ^ 16, prio := v / 2 ^ 8 % 16,
          lastInt := if x.period = 0 ∧ v / 2 ^ 48 % 2 ^ 16 ≠ 0 then s.hclk / 2048 else x.lastInt,
          ran := if x.period = 0 ∧ v / 2 ^ 48 % 2 ^ 16 ≠ 0 then false else x.ran }
      | .nbv => { x with nbv := v }
      | .filter => { x with filter := v }
      | .clklock => { x with clklock := v }
      | .ptBase => { x with ptRoot := v }
      | .ringBase => { x with ringBase := v }
      | .ringCfg => { x with ringLog := v }
      | .scb => { x with dbgScb := v % 2 == 1 }
      | .status => { x with lockBroken := x.lockBroken && !(wValue w &&& wBits w).testBit 10 }
      | .head => x
      | .tail => x
      | .cmd => x
      | .retired => x))) ∧
  (∀ (s : State) (w : HostWrite) (r : Reg), writeErr s w = none → wReg w = some r →
    let v := wMerged w (regVal s r)
    (r = .errStatus → ∃ t, exec (.registerWrite w) s = .next t ∧ t = { s with hub := { s.hub with errStatus := t.hub.errStatus } } ∧
      ∀ b, b ≤ 10 → t.hub.errStatus.testBit b = (s.hub.errStatus.testBit b && !(wValue w &&& wBits w).testBit b)) ∧
    (r = .sysOffset → exec (.registerWrite w) s = .next { s with hub := { s.hub with sysOffset := BitVec.ofNat 64 v } }) ∧
    (r = .apBase → exec (.registerWrite w) s = .next { s with hub := { s.hub with apBase := BitVec.ofNat 64 v } }) ∧
    (r = .fwCtl → exec (.registerWrite w) s = .next { s with hub := { s.hub with flashWrite := (wValue w).testBit 2 } }) ∧
    (r = .snapCtl → exec (.registerWrite w) s = .next { s with hub := { s.hub with
      snaptCtx := BitVec.ofNat 32 (wValue w / 2 ^ 32), snapClass := wValue w / 2 ^ 8 % 2 ^ 8 } }) ∧
    (r = .time ∨ r = .errLast ∨ r = .errCorr ∨ r = .linkRetry ∨ r = .flogWr ∨ r = .tlbStatus ∨ r = .fwStatus ∨ r = .snapStatus ∨
      (∃ n, r = .harvest n ∨ r = .fusedLo n ∨ r = .fusedHi n ∨ r = .bank n ∨ ∃ j, r = .l2p n j) →
      exec (.registerWrite w) s = .next s)) ∧
  (∀ (s : State) (l v : Nat), s.power = true → 30 ≤ l → l ≤ 38 →
    actStep (.barSize l) s = .next { s with hub := { s.hub with barLog := l } } ∧
    (s.msix = [v] →
      (vecMasked s v = true → (deliverMsix s).msgs = s.msgs ∧ v ∈ (deliverMsix s).hub.pba) ∧
      (vecMasked s v = false → deliverMsix s =
        { s with msix := [], msgs := s.msgs ++ [(vecNum s (16 * v) 8, vecNum s (16 * v + 8) 4)] }))) ∧
  (∀ (s : State) (o n : Nat), 0 < n → n ≤ 8 → o + n ≤ 2 ^ s.hub.barLog → (∀ l, linkBars s l = false) →
    let pa := s.hub.apBase.toNat / 2 ^ s.hub.barLog * 2 ^ s.hub.barLog + o
    (s.hub.fwState = 2 → o < 0x4000000 → exec (.apertureRead o n) s = .next { s with
      answers := s.answers ++ [BitVec.ofNat 64 (natOfBytes ((List.range n).map (fun j => SMap.get 0 s.hub.staging (o + j))))] }) ∧
    (inStaging s o = false → touchesReserved pa n = true → ∃ r, exec (.apertureRead o n) s = .next r ∧
      r.answers = s.answers ++ [BitVec.ofNat 64 (2 ^ (8 * n) - 1)] ∧ r.hub.errStatus.testBit 0 = true ∧ r.mem = s.mem ∧
      (s.hub.errStatus % 2 = 0 → r.hub.errLast = 8 * 2 ^ 32 + o % 2 ^ 25)) ∧
    (inStaging s o = false → touchesReserved pa n = false → offline s pa = true ∨ poisoned s pa n = true →
      ∃ r v p, exec (.apertureRead o n) s = .next r ∧ r.answers = s.answers ++ [v] ∧ r.hub.reports = s.hub.reports ++ [p] ∧
        p.cause = (if offline s pa then 0x29 else 0x30) ∧ p.ctx = 0xFF ∧ r.mem = s.mem) ∧
    (inStaging s o = false → touchesReserved pa n = false → s.homesUp → s.inOrder = true → pa + n ≤ 2 ^ 48 → noParts s (pa / 128) → noParts s ((pa + n - 1) / 128) →
      ∃ r, exec (.apertureRead o n) s = .next r ∧ r.answers = s.answers ++ [BitVec.ofNat 64 (natOfBytes (coherentBytes s pa n))] ∧
        (∀ a, ¬ pendingPart s a → coherentByte r a = coherentByte s a) ∧ r.ctxs = s.ctxs ∧ r.waves = s.waves)) ∧
  (∀ (s : State) (o : Nat) (bs : List Byte), bs ≠ [] → bs.length ≤ 4096 → o + bs.length ≤ 2 ^ s.hub.barLog →
    (∀ l, linkBars s l = false) →
    let pa := s.hub.apBase.toNat / 2 ^ s.hub.barLog * 2 ^ s.hub.barLog + o
    (s.hub.fwState = 2 → o < 0x4000000 → SMap.sortedFrom 0 s.hub.staging = true → ∃ r, exec (.apertureWrite o bs) s = .next r ∧
      r = { s with hub := { s.hub with staging := r.hub.staging } } ∧
      ∀ a, SMap.get 0 r.hub.staging a = (if o ≤ a ∧ a < o + bs.length then bs.getD (a - o) 0 else SMap.get 0 s.hub.staging a)) ∧
    (inStaging s o = false → touchesReserved pa bs.length = true → ∃ r, exec (.apertureWrite o bs) s = .next r ∧ r.mem = s.mem ∧
      r.sys = s.sys ∧ r.hub.errStatus.testBit 0 = true) ∧
    (inStaging s o = false → touchesReserved pa bs.length = false → offline s pa = true → ∃ r p, exec (.apertureWrite o bs) s = .next r ∧
      r.hub.reports.getLast? = some p ∧ p.cause = 0x29 ∧ p.ctx = 0xFF) ∧
    (inStaging s o = false → touchesReserved pa bs.length = false → s.homesUp → s.inOrder = true → pa + bs.length ≤ 2 ^ 48 →
      (∀ e ∈ s.l1, l1Core e.1 < 192) →
      ∃ r, exec (.apertureWrite o bs) s = .next r ∧ (∀ j, j < bs.length → coherentByte r (pa + j) = bs.getD j 0) ∧
        (∀ a, (a < pa ∨ pa + bs.length ≤ a) → ¬ pendingPart s a → coherentByte r a = coherentByte s a) ∧ r.ctxs = s.ctxs ∧
        (SMap.sortedFrom 0 s.l2old = true → ∀ j, j < bs.length → SMap.find? r.l2old ((pa + j) / 128) = none)))

/-- A doorbell gives a context its work: IDLE becomes ACTIVE, or WAIT_CLOCK while its lock is not to be had; CTX_CTL.EN moves it
between DISABLED and IDLE; STOP faults it with F_HOST_STOP and drops what is parked, ABORT releases all it holds and ends in IDLE
with HEAD at TAIL, and REPLAY lets what is parked go on; an invalidation leaves no matching entry in any TLB, and no span that used one, once
the context's copies are performed (R59, R60, R62-R64, R69-R71, R114, R180, R197). That it waits for every copy of the context
is log entry 11's; that ABORT clears FATAL_CAUSE, and that its end drops images that are loading or unloading, are log entry 28's. -/
def Obligations.ContextsFollowTheirCommands : Prop :=
  (∀ (s : State) (w : HostWrite) (c : Nat), writeErr s w = none → wReg w = some (.ctx c .tail) →
    let v := BitVec.ofNat 32 (wMerged w (s.ctx c).tail.toNat)
    ∃ r, exec (.ringDoorbell w) s = .next r ∧
      (s.hub.fwState ≠ 2 → (s.ctx c).st ≠ .disabled → (r.ctx c).tail = v ∧
        ((s.ctx c).st ≠ .idle ∨ v = (s.ctx c).head → (r.ctx c).st = (s.ctx c).st) ∧
        ((s.ctx c).st = .idle → v ≠ (s.ctx c).head →
          ((s.ctx c).clklock = 0 → (r.ctx c).st = .active) ∧
          ((s.ctx c).clklock ≠ 0 → (r.ctx c).st = .active ∨ (r.ctx c).st = .waitClock) ∧
          ((s.ctx c).clklock ≠ 0 → s.lock = 0 → (∀ e ∈ s.ctxs, e.2.st ≠ .active) →
            (s.point = (s.ctx c).clklock → s.moving = none → (r.ctx c).st = .active) ∧
            (s.point ≠ (s.ctx c).clklock → (r.ctx c).st = .waitClock ∧ r.moving = some (s.ctx c).clklock))))) ∧
  (∀ (s : State) (w : HostWrite) (c : Nat), writeErr s w = none → wReg w = some (.ctx c .ctl) → SMap.sortedFrom 0 s.ctxs = true →
    let v := wMerged w (regVal s (.ctx c .ctl))
    ((s.ctx c).st = .disabled → v % 2 = 1 → ∃ r, exec (.ctxEnable w) s = .next r ∧ r.ctx c = { s.ctx c with
      st := .idle, loads := 0, period := v / 2 ^ 48 % 2 ^ 16, slice := v / 2 ^ 32 % 2 ^ 16, prio := v / 2 ^ 8 % 16,
      lastInt := if (s.ctx c).period = 0 ∧ v / 2 ^ 48 % 2 ^ 16 ≠ 0 then s.hclk / 2048 else (s.ctx c).lastInt,
      ran := if (s.ctx c).period = 0 ∧ v / 2 ^ 48 % 2 ^ 16 ≠ 0 then false else (s.ctx c).ran } ∧
      r = { s with ctxs := r.ctxs }) ∧
    ((s.ctx c).st = .idle → v % 2 = 0 → ∃ r, exec (.ctxDisable w) s = .next r ∧ (r.ctx c).st = .disabled ∧ (r.ctx c).images = [] ∧
      (∀ q ∈ r.queues, q.2.ctx ≠ c) ∧ r = { s with ctxs := r.ctxs, queues := r.queues } ∧ ∀ d, d ≠ c → r.ctx d = s.ctx d)) ∧
  (∀ (s : State) (c : Nat),
    ((s.ctx c).st = .active ∨ (s.ctx c).st = .waitClock → ∃ r p, exec (.stop c) s = .next r ∧ (r.ctx c).st = .faulted ∧
      (r.ctx c).fatal = 0x70 ∧ (r.ctx c).pageWait = false ∧ r.hub.reports = s.hub.reports ++ [p] ∧ p.cause = 0x70 ∧ p.ctx = c ∧
      (∀ w ∈ r.waves, w.2.ctx = c → w.2.park = .no) ∧ (∀ k ∈ r.kerns, k.2.cons.ctx = c → k.2.park = .no) ∧
      (∀ l ∈ r.longs, l.ctx = c → l.park = .no) ∧ r.mem = s.mem ∧ ∀ d, d ≠ c → r.ctx d = s.ctx d) ∧
    ((s.ctx c).st ≠ .active → (s.ctx c).st ≠ .waitClock → exec (.stop c) s = .next s) ∧
    ((s.ctx c).st = .faulted → exec (.abort c) s = .next (s.setCtx c { s.ctx c with st := .aborting, fatal := 0 })) ∧
    ((s.ctx c).st ≠ .faulted → exec (.abort c) s = .next s) ∧
    ((s.ctx c).st = .active → ∃ r, exec (.replay c) s = .next r ∧ (r.ctx c).st = .active ∧ (r.ctx c).pageWait = false ∧
      (r.ctx c).seen = [] ∧ (∀ w ∈ r.waves, w.2.ctx = c → w.2.park = .no) ∧ (∀ l ∈ r.longs, l.ctx = c → l.park = .no) ∧
      (∀ t ∈ r.transit, t.ctx = c → t.park = .no) ∧ (∀ f ∈ r.wfault, f.ctx ≠ c) ∧ r.mem = s.mem) ∧
    ((s.ctx c).st ≠ .active → exec (.replay c) s = .next s)) ∧
  (∀ s : State, SMap.sortedFrom 0 s.ctxs = true → ∃ r, exec .abortReleaseDone s = .next r ∧ r.mem = s.mem ∧ ∀ c,
    ((s.ctx c).st = .aborting → (r.ctx c).st = .idle ∧ (r.ctx c).head = (s.ctx c).tail ∧ (r.ctx c).launches = [] ∧
      (r.ctx c).tokens = 65536 ∧ (r.ctx c).images = (s.ctx c).images.filter (fun i => i.2.st == .loaded) ∧
      (∀ w ∈ r.waves, w.2.ctx ≠ c) ∧ (∀ t ∈ r.teams, t.2.cons.ctx ≠ c) ∧ (∀ q ∈ r.seqs, q.2.cons.ctx ≠ c) ∧
      (∀ k ∈ r.kerns, k.2.cons.ctx ≠ c) ∧ (∀ t ∈ r.transit, t.ctx ≠ c)) ∧
    ((s.ctx c).st ≠ .aborting → r.ctx c = s.ctx c)) ∧
  (∀ (s : State) (w : HostWrite), writeErr s w = none → wReg w = some .tlbInval → (wValue w).testBit 63 = true →
    exec (.tlbInvalidate w) s = .next { s with hub := { s.hub with
      inval := some (wValue w / 2 ^ 58 % 32, wValue w / 2 ^ 55 % 8, wValue w / 2 ^ 12 % 2 ^ 40 * 4096) } }) ∧
  (∀ s : State, s.hub.inval = none → exec .tlbInvalidateDone s = .next s) ∧
  (∀ (s : State) (c size va : Nat), s.hub.inval = some (c, size, va) → copyInFlight s c = true → exec .tlbInvalidateDone s = .next s) ∧
  (∀ (s : State) (c size va : Nat), s.hub.inval = some (c, size, va) → size ≤ 5 → copyInFlight s c = false →
    let n := [0x1000, 0x10000, 0x200000, 0x40000000, 0x100000000, 2 ^ 52].getD size 0
    let lo := if size = 5 then 0 else va / n * n
    let hit (e : TlbE) : Bool := e.ctx == c && decide (e.va < lo + n ∧ lo < e.va + e.size)
    let used (p : Nat) : Bool := decide (p * 4096 < lo + n ∧ lo < p * 4096 + 4096)
    ∃ r, exec .tlbInvalidateDone s = .next r ∧ r.hub.inval = none ∧ r.mem = s.mem ∧ r.ctxs = s.ctxs ∧
      (∀ m kn, SMap.find? s.kerns m = some kn →
        SMap.find? r.kerns m = some (if kn.cons.ctx = c ∧ kn.pages.any used then kn.discard else kn)) ∧
      (∀ f, f ∈ r.wfault ↔ f ∈ s.wfault ∧ ¬ (f.ctx = c ∧ used f.page = true)) ∧ ∀ g,
      SMap.find? r.tlb1 g = (SMap.find? s.tlb1 g).map (·.filter (fun e => !hit e)) ∧
      SMap.find? r.tlb2 g = (SMap.find? s.tlb2 g).map (·.filter (fun e => !hit e)))

/-- A report that reaches the hub becomes the next 64-byte entry of the fault log, is held among 256, or stays with its unit; an
entry raises vector 0; reading on and new rings let held entries be written; and an armed trigger of its class fires once, with
the entry's number (R72-R74, R76). That an entry is held while its ring's home is out of service is log entry 32's. -/
def Obligations.ReportsReachTheLogAndTheSnapshot : Prop :=
  (∀ (s : State) (i : Nat) (p : Report), s.hub.reports[i]? = some p →
    (arrives s i p = false → exec (.faultReport i) s = .next s) ∧
    (arrives s i p = true →
      let hit := fires s p
      let q : Report := { p with time := some s.hclk, snap := hit }
      let n := s.hub.flogWr.toNat
      let seq := (n + s.hub.held.length) % 2 ^ 32
      (s.hub.held = [] → 0 < logRoom s → ∃ r, exec (.faultReport i) s = .next r ∧
        (s.homesUp → r.hub.reports = s.hub.reports.eraseIdx i) ∧ r.hub.flogWr = s.hub.flogWr + 1 ∧ r.hub.held = [] ∧ (∃ ms, r.msix = s.msix ++ ms ++ [0]) ∧ r.ctxs = s.ctxs ∧
        (let pa := s.hub.flogBase + 64 * (n % 2 ^ s.hub.flogLog)
         regionOf pa ≠ .reserved → pa + 64 ≤ 2 ^ 48 → s.memWf = true → s.hub.flogLog ≠ 0 → s.homesUp →
           homeBytes r pa 64 = entryBytes n q)) ∧
      (s.hub.held ≠ [] ∨ logRoom s = 0 → s.hub.held.length < 256 → ∃ r, exec (.faultReport i) s = .next r ∧
        r.hub.reports = s.hub.reports.eraseIdx i ∧ r.hub.held = s.hub.held ++ [q] ∧ r.hub.flogWr = s.hub.flogWr ∧
        r.hub.errStatus.testBit 10 = true ∧ r.mem = s.mem) ∧
      (s.hub.held ≠ [] ∨ logRoom s = 0 → 256 ≤ s.hub.held.length → exec (.faultReport i) s = .next s) ∧
      (s.hub.held ≠ [] ∨ 0 < logRoom s → s.hub.held.length < 256 → ∃ r, exec (.faultReport i) s = .next r ∧
        (hit = true → r.hub.armed = false ∧ r.hub.taken = true ∧ r.hub.snapSeq = seq ∧ r.hub.snapCause = p.cause ∧
          r.hub.snapCtx = p.ctx % 32 ∧ r.hub.snapSrc = (if p.cause = 0x82 then 3 else 2)) ∧
        (hit = false → r.hub.armed = s.hub.armed ∧ r.hub.bank = s.hub.bank ∧ r.hub.snapSeq = s.hub.snapSeq)))) ∧
  (∀ (seq : Nat) (r : Report), entryBytes seq r = bytesOf 2 r.cause ++ bytesOf 1 r.ctx ++
    bytesOf 1 (r.flags + if r.snap then 8 else 0) ++ bytesOf 4 seq ++ bytesOf 8 r.va ++ bytesOf 8 (r.time.getD 0) ++
    bytesOf 2 r.unit ++ bytesOf 2 r.wave ++ bytesOf 4 r.sub ++ bytesOf 8 r.pc ++ bytesOf 8 r.lanes.toNat ++ bytesOf 16 r.detail) ∧
  (∀ (s : State) (w : HostWrite), writeErr s w = none →
    let v (r : Reg) : Nat := wMerged w (regVal s r)
    (wReg w = some .flogRd → s.homesUp → ∃ r, exec (.flogRdWrite w) s = .next r ∧ r.hub.flogRd = BitVec.ofNat 32 (v .flogRd) ∧
      let room := (if s.hub.flogLog = 0 then 0 else 2 ^ s.hub.flogLog) - (s.hub.flogWr - r.hub.flogRd).toNat
      r.hub.held = s.hub.held.drop room ∧
      r.hub.flogWr = s.hub.flogWr + BitVec.ofNat 32 (min room s.hub.held.length) ∧ r.ctxs = s.ctxs) ∧
    (wReg w = some .flogBase → ∃ r, exec (.flogConfigWrite w) s = .next r ∧ r.hub.flogBase = v .flogBase ∧
      r.hub.flogRd = s.hub.flogRd ∧ r.hub.flogLog = s.hub.flogLog) ∧
    (wReg w = some .flogCfg → ∃ r, exec (.flogConfigWrite w) s = .next r ∧ r.hub.flogLog = v .flogCfg ∧
      r.hub.flogRd = s.hub.flogRd ∧ r.hub.flogBase = s.hub.flogBase)) ∧
  (∀ s : State,
    (s.hub.armed = true → ∃ r, exec .snapFire s = .next r ∧ r.hub.armed = false ∧ r.hub.taken = true ∧ r.hub.snapSrc = 1 ∧
      r.hub.bank = latch s ∧ r = { s with hub := r.hub }) ∧
    (s.hub.armed = false → exec .snapFire s = .next s) ∧
    exec .snapRearm s = .next { s with hub := { s.hub with armed := true } })

/-- The life of a launch: the hub reads and checks the entry at HEAD and puts the launch in flight, or faults with the lowest
sub-code of R67; a load runs the steps of R113; the entry feed sends record i of the descriptor, dealt over the core set; a
drained node's matching conditional edges deliver; a launch whose work has retired writes DONE, counts in RETIRED, raises its
vector and goes, and one whose held records lack only room for 1,048,576 HCLK is F_GRAPH_STALL (R59, R67, R68, R111-R114, R132,
R133, R136, R139, R140). A SERIAL launch waits until
nothing of its context is in flight and what the L1s hold has a way home (R29, R211). The header's words that R114 leaves open
are log entry 26's, and that a load keeps the core it was dealt first is log entry 19's. -/
def Obligations.LaunchesFromTheRingToRetirement : Prop :=
  (∀ (s : State) (c : Nat),
    ((s.ctx c).st ≠ .active ∨ (s.ctx c).head = (s.ctx c).tail ∨ 8 ≤ (s.ctx c).launches.length → exec (.launchRead c) s = .next s) ∧
    ((s.ctx c).st = .active → (s.ctx c).head ≠ (s.ctx c).tail → (s.ctx c).launches.length < 8 → (s.ctx c).ringLog ≠ 0 →
      let va := (s.ctx c).ringBase + 64 * ((s.ctx c).head.toNat % 2 ^ (s.ctx c).ringLog)
      let fault (f : Nat) : Report := if f = 1 ∨ f = 2 ∨ f = 0x24 ∨ f = 0x25 then hubReport c 0x71 f va 0 else hubReport c f 0 va 0
      (∀ p ps, hubGate s 0 c va 64 .read (askHub c) = .park (p :: ps) → exec (.launchRead c) s = .next (s.fatal (fault p.1))) ∧
      (∀ f v, hubGate s 0 c va 64 .read (askHub c) = .fatal f v → exec (.launchRead c) s = .next (s.fatal (fault f))) ∧
      (∀ pas s1 bs, hubGate s 0 c va 64 .read (askHub c) = .go pas → hubRead s pas = (s1, bs) →
        (leAt bs 0x38 4).testBit 1 = true → (s.ctx c).launches ≠ [] ∨ (∃ g ∈ l1Cores s1, releaseWaits s1 g = true) →
        exec (.launchRead c) s = .next s1) ∧
      (∀ pas s1 bs, hubGate s 0 c va 64 .read (askHub c) = .go pas → hubRead s pas = (s1, bs) →
        (leAt bs 0x38 4).testBit 1 = false ∨ ((s.ctx c).launches = [] ∧ ∀ g ∈ l1Cores s1, releaseWaits s1 g = false) →
        (∀ n, leAt bs 0 8 ≠ 0 → launchFault s1 bs (imageAt s1 c (leAt bs 0 8)) = some n →
          (∀ id im, imageAt s1 c (leAt bs 0 8) = some (id, im) → loadPending s1 c id = false) →
          exec (.launchRead c) s = .next (s1.fatal (hubReport c 0x72 n va 0))) ∧
        (∀ id im, leAt bs 0 8 ≠ 0 → imageAt s1 c (leAt bs 0 8) = some (id, im) → loadPending s1 c id = false →
          launchFault s1 bs (some (id, im)) = none → ∃ r tag l, exec (.launchRead c) s = .next r ∧ launchOf s c tag = none ∧ tag < 8 ∧
            launchOf r c tag = some l ∧ (r.ctx c).head = (s.ctx c).head + 1 ∧ l.kind = .graph ∧ l.img = id ∧
            l.entryVA = leAt bs 8 8 ∧ l.entryN = leAt bs 0x10 4 ∧ l.entryNode = leAt bs 0x14 2 ∧
            l.arg = BitVec.ofNat 64 (leAt bs 0x20 8) ∧ l.doneVA = leAt bs 0x28 8 ∧ l.fed = 0 ∧ l.results = [] ∧
            l.mmrev = im.mmrev ∧ l.stallFrom = none ∧ r.transit = s.transit ∧ ((leAt bs 0x38 4).testBit 1 = false → r.mem = s1.mem)) ∧
        (∀ n, leAt bs 0 8 = 0 → requestFault s1 c bs = some n → (n = 1 ∨ leAt bs 8 8 ≠ 0) →
          exec (.launchRead c) s = .next (s1.fatal (hubReport c 0x72 n va 0))) ∧
        (∀ id im, leAt bs 0 8 = 0 → leAt bs 8 8 = 0 → requestFault s1 c bs = none →
          imageAt s1 c (leAt bs 0x20 8 / 4096 * 4096) = some (id, im) → loadPending s1 c id = false →
          (s1.ctx c).images.any (fun e => e.2.addr == leAt bs 0x20 8 / 4096 * 4096 && loadPending s1 c e.1) = false →
          ∃ r tag l, exec (.launchRead c) s = .next r ∧ launchOf s c tag = none ∧ launchOf r c tag = some l ∧ l.kind = .unload ∧
            l.img = id ∧ (r.ctx c).head = (s.ctx c).head + 1 ∧ (r.ctx c).images = SMap.modify id (fun i => { i with st := .unloading }) (s.ctx c).images))))
  ∧
  (∀ (s : State) (c tag : Nat) (l : Launch) (im : Image), nextLoad s = some (c, tag, l) → imageOf s c l.img = some im →
    (∀ t, l.entryNode = 0 → loadWrite s c im.addr (imageHeader s l none 0xFFFFFFFF 0 (s.ctx c).loads 0 0) = .ok t →
      exec .graphLoad s = .next (updLaunch t c tag (fun l => { l with entryNode := 1 }))) ∧
    (∀ f va, l.entryNode = 0 → loadWrite s c im.addr (imageHeader s l none 0xFFFFFFFF 0 (s.ctx c).loads 0 0) = .walk f va →
      exec .graphLoad s = .next (s.fatal (hubReport c 0x71 f im.addr 0))) ∧
    (∀ s1 hd s2 bs, l.entryNode ≠ 0 → loadRead s c l.entryVA 64 = .ok (s1, hd) → headErr hd = none →
      loadRead s1 c l.entryVA (cheadOf hd).length = .ok (s2, bs) →
      (∀ e t, checkContainer s2 c im.addr bs = .inl e →
        loadWrite s2 c im.addr (imageHeader s2 l (some (cheadOf hd)) e.1 e.2 (s2.ctx c).loads 0 0) = .ok t →
        exec .graphLoad s = .next (loadDone t c tag)) ∧
      (∀ t s3 s4 s5, checkContainer s2 c im.addr bs = .inr t →
        let dir := freeDir s2 t.nodes.length
        let ps := placeClauses (im.addr + 4096) (allClauses (segsOf t.words 0 []) t.safes t.nodes)
        let used := ps.foldl (fun n p => n + p.2.size) 4096
        ∀ mbase, dir.length = t.nodes.length → morainePlace s2 (4 * t.mcode.length) = some mbase → used ≤ t.head.isize →
        loadWrite s2 c (im.addr + 4096) (ps.flatMap (clauseBytes ps)) = .ok s3 → copyData bs t c t.plan s3 = (s4, .ok ()) →
        loadWrite s4 c im.addr (imageHeader s4 l (some t.head) 0 0 ((s4.ctx c).loads + 1) used 0) = .ok s5 →
        ∃ r im', exec .graphLoad s = .next r ∧ imageOf r c l.img = some im' ∧ im'.st = .loaded ∧ im'.addr = im.addr ∧
          im'.seq = (s5.ctx c).loads + 1 ∧ (r.ctx c).loads = (s5.ctx c).loads + 1 ∧ im'.nodes = t.nodes.map (nodeInfo t ps) ∧
          im'.edges = t.edges ∧ im'.mcode = t.mcode ∧ im'.mbase = mbase ∧ im'.plan = t.plan.map (fun p => (p.kind, p.tier, p.va, p.size)) ∧
          r.mem = (placeSection s5 mbase t.mcode).mem))) ∧
  (∀ (s : State) (c tag : Nat) (l : Launch), launchOf s c tag = some l →
    (mayRetire s c l = false ∨ l.doneParked = true ∨ (s.ctx c).st ≠ .active → exec (.graphRetire c tag) s = .next s) ∧
    ((s.ctx c).st = .active → l.doneParked = false → mayRetire s c l = true → l.kind = .graph → SMap.sortedFrom 0 (s.ctx c).launches = true →
      (∀ k, linkBars s k = false) → (l.doneVA = 0 ∨ ∃ pa, hubGate (releaseAll s) 0 c l.doneVA 8 .write (askTag c tag) = .go [(pa, 8)]) →
      ∃ r, exec (.graphRetire c tag) s = .next r ∧ launchOf r c tag = none ∧ (r.ctx c).retired = (s.ctx c).retired + 1 ∧
        r.msix = s.msix ++ (if l.irq then [2 + c] else []) ∧
        ((s.ctx c).launches = [(tag, l)] → (s.ctx c).head = (s.ctx c).tail → (r.ctx c).st = .idle) ∧
        (∀ pa, l.doneVA ≠ 0 → hubGate (releaseAll s) 0 c l.doneVA 8 .write (askTag c tag) = .go [(pa, 8)] → s.inOrder = true → s.homesUp → pa + 8 ≤ 2 ^ 48 →
          homeBytes r pa 8 = bytesOf 8 l.doneVal.toNat)) ∧
    (mayRetire s c l = true → l.kind = .graph → total l.queued = 0 ∧ total l.running = 0 ∧ total l.unret = 0 ∧ feedDone l = true) ∧
    (l.kind = .unload → l.fed = 0 → (s.ctx c).st = .active → l.doneVA = 0 → SMap.sortedFrom 0 (s.ctx c).launches = true →
      SMap.sortedFrom 0 (s.ctx c).images = true →
      (∀ k ∈ (s.ctx c).launches, k.2.kind = .graph → k.2.img ≠ l.img) → l.entryN = 1 → (∀ k, linkBars s k = false) →
      ∃ r, exec (.graphUnload c tag) s = .next r ∧ imageOf r c l.img = none ∧ launchOf r c tag = none ∧
        (r.ctx c).retired = (s.ctx c).retired + 1 ∧ ∀ q ∈ r.queues, q.2.ctx = c → q.2.img ≠ l.img)) ∧
  (∀ s : State, (∀ x ∈ s.ctxs, ∀ l ∈ x.2.launches, ∀ t, l.2.stallFrom = some t → s.hclk < t + 1048576) → exec .graphStall s = .next s) ∧
  (∀ s : State, ∃ r, exec .graphStall s = .next r ∧ ∀ c tag l t, launchOf s c tag = some l → runnable s c = true → l.kind = .graph →
    total l.running = 0 → l.stallFrom = some t → t + 1048576 ≤ s.hclk → heldRecs s c tag ≠ [] → onlyRoom s c tag = true →
    (r.ctx c).st = .faulted ∧ (r.ctx c).fatal = 0x46) ∧
  (∀ (s : State) (c tag : Nat) (l : Launch), launchOf s c tag = some l → launchOf (noteStalls s) c tag = some { l with
    stallFrom := if stalls s c tag l then some (l.stallFrom.getD s.hclk) else none }) ∧
  (∀ (s : State) (c tag : Nat) (l : Launch) (nd : NodeInfo) (q : Queue), launchOf s c tag = some l →
    nodeOf s c l.img l.entryNode = some nd → SMap.find? s.queues (qidOf s c l.img l.entryNode) = some q →
    (nd.qcap ≤ q.occ + q.rv → exec (.entryFeedRecord c tag) s = .next s) ∧
    (∀ st load pas s1 bs, (s.ctx c).st = .active → l.kind = .graph → feedDone l = false → l.feedParked = false → q.occ + q.rv < nd.qcap →
      let size := recSize s c l.img l.entryNode
      let deal := coreSet s l 0 ++ coreSet s l 1
      let j := l.fed / (nd.width * nd.team)
      let dealt : Option Nat := match l.dealt with
        | some (n, g) => if n = j then some g else deal[j % deal.length]?
        | none => deal[j % deal.length]?
      (nd.kind = 0 → ∃ g, dealt = some g ∧ st = g / 96 ∧ load = some (g, j)) →
      (nd.kind ≠ 0 → deal ≠ [] ∧ st = (if coreSet s l 0 ≠ [] then 0 else 1) ∧ load = none) →
      hubGate s 0 c (l.entryVA + l.fed * size) size .read (askTag c tag) = .go pas → hubRead s pas = (s1, bs) →
      ∃ r l', exec (.entryFeedRecord c tag) s = .next r ∧ launchOf r c tag = some l' ∧ l'.fed = l.fed + 1 ∧
        l'.dealt = load.map (fun p => (p.2, p.1)) ∧
        r.transit = s.transit ++ [Transit.mk (0x20000 + c * 8 + tag) st c l.img l.entryNode
          { sentRecord s (recWords size bs) tag 0 none 0 with entry := some l.fed, load := load } .no])) ∧
  (∀ (s : State) (c tag n : Nat) (l : Launch) (im : Image), launchOf s c tag = some l → imageOf s c l.img = some im →
    l.kind = .graph → (s.ctx c).st = .active → cedgesFrom im n ≠ [] →
    (l.delivered.contains n = true ∨ (closureOf im l n).drained = false → exec (.conditionalDelivery c tag n) s = .next s) ∧
    (l.delivered.contains n = false → (closureOf im l n).drained = true →
      let result := SMap.get 0 l.results n
      let hit := (cedgesFrom im n).filter (fun e => result &&& e.mask == e.value)
      ∃ r l', exec (.conditionalDelivery c tag n) s = .next r ∧ launchOf r c tag = some l' ∧ n ∈ l'.delivered ∧
        r.transit = s.transit ++ hit.zipIdx.map (fun p => Transit.mk (0x30000 + n) 0 c l.img p.1.dst
          (sentRecord s (recWords (recSize s c l.img p.1.dst) (bytesOf 4 result.toNat ++ bytesOf 2 n)) tag 0 none p.2) .no)))

/-- A record that arrives goes to the first place that R118 allows, its queue's own half, the other, or the far segment, or to
a moraine dispatcher or a video session; halves get slots, are filled from the far segment and give their slots up; batches that
lingered stay eligible; and a dispatcher starts the first candidate of R131 on a free place, or steals the other stack's in the
steps of R134 (R10, R28, R118-R126, R131, R134, R141, R142, R152, R156, R402). Which free place a record takes, where in a page
it lies, and that an evicted half's records go behind those already in the far segment are log entry 19's. -/
def Obligations.RecordsArriveWaitAndStart : Prop :=
  (∀ (s : State) (i : Nat) (t : Transit), s.transit[i]? = some t →
    (overtakes s i t = true ∨ t.park ≠ .no ∨ (s.ctx t.ctx).st = .aborting → exec (.recordArrival i) s = .next s) ∧
    (overtakes s i t = false → t.park = .no → (s.ctx t.ctx).st ≠ .aborting → (∀ l, linkBars s l = false) →
      (kindOf s t.ctx t.img t.node = 4 → ∀ pa n l, hubGate s t.stack t.ctx (recAddr t.rcd) 1 .read (askRec t.rcd.id) = .go ((pa, n) :: l) →
        (∀ d, dramOf pa = some d → exec (.recordArrival i) s = .next { s with
          transit := s.transit.eraseIdx i
          mdisp := SMap.set [] d (SMap.get [] s.mdisp d ++ [{ t with rcd := { t.rcd with arr := s.aclk } }]) s.mdisp }) ∧
        (dramOf pa = none → (s.ctx t.ctx).st = .active → ∃ r, exec (.recordArrival i) s = .next r ∧ (r.ctx t.ctx).st = .faulted ∧
          r.transit.length = s.transit.length ∧ (r.ctx t.ctx).fatal = 0x2A)) ∧
      (kindOf s t.ctx t.img t.node = 5 →
        let n := (t.rcd.words.getD 3 0).toNat % 32
        exec (.recordArrival i) s = .next { s with
          transit := s.transit.eraseIdx i
          vencs := SMap.set Venc.reset n { s.venc n with queue := (s.venc n).queue ++ [t] } s.vencs }) ∧
      (kindOf s t.ctx t.img t.node ≤ 3 → ∀ q nd, SMap.find? s.queues (qidOf s t.ctx t.img t.node) = some q →
        nodeOf s t.ctx t.img t.node = some nd → t.stack ≤ 1 → t.rcd.page = none →
        let qid := qidOf s t.ctx t.img t.node
        let mapped (sk : Nat) : Bool := (q.half sk).st == .mapped
        let open_ (sk : Nat) : Bool := mapped sk && halfRoom s q sk
        let coming := (s.transit.filter (fun u => u.ctx == t.ctx && u.img == t.img && u.node == t.node)).length
        let goesFar : Bool := (!mapped 0 && !mapped 1) || decide (nd.qcap ≤ q.occ - coming) || (!open_ 0 && !open_ 1)
        (goesFar = false → let sk := if open_ t.stack then t.stack else 1 - t.stack
          ∃ r q' x, exec (.recordArrival i) s = .next r ∧ r.transit = s.transit.eraseIdx i ∧ SMap.find? r.queues qid = some q' ∧
            (q'.half sk).recs = (q.half sk).recs ++ [x] ∧ x = { t.rcd with blk := x.blk, page := none, arr := s.aclk, lodged := s.aclk } ∧
            (∃ b, x.blk = some (sk, b)) ∧ q'.half (1 - sk) = q.half (1 - sk) ∧ q'.far = q.far ∧ r.ctxs = s.ctxs) ∧
        (goesFar = true → ∀ k, spillPlace s q = some k →
          ∃ r q' x, exec (.recordArrival i) s = .next r ∧ r.transit = s.transit.eraseIdx i ∧ SMap.find? r.queues qid = some q' ∧
            q'.far = q.far ++ [x] ∧ x = { t.rcd with blk := none, page := some k, arr := s.aclk } ∧ q'.half0 = q.half0 ∧ q'.half1 = q.half1 ∧
            q'.pages = SMap.insert k 1 q.pages ∧ r.ctxs = s.ctxs ∧
            ∀ im base len v pa w e g, imageOf s q.ctx q.img = some im → im.spill = some (base, len) →
              let va := base + 4096 * (k / 4096) + k % 4096 * recSize s q.ctx q.img q.node
              walkFrom s va .write 4 (s.ctx q.ctx).ptRoot = .page v pa w e g → s.inOrder = true → s.homesUp →
              pa + (va - v) + 4 * t.rcd.words.length ≤ 2 ^ 48 →
              homeBytes r (pa + (va - v)) (4 * t.rcd.words.length) = recBytes t.rcd.words) ∧
        (goesFar = true → spillPlace s q = none → (s.ctx t.ctx).st = .active →
          ∃ r, exec (.recordArrival i) s = .next r ∧ (r.ctx t.ctx).st = .faulted ∧ (r.ctx t.ctx).fatal = 0x33 ∧
            r.queues = s.queues)))) ∧
  (∀ (s : State) (q : Queue),
    (∀ k, spillPlace s q = some k →
      (roomIn s q ≠ [] → k / 4096 ∈ q.pageList ∧ k % 4096 < perBlock s q ∧ SMap.find? q.pages k = none) ∧
      (roomIn s q = [] → freePage s q.ctx q.img = some (k / 4096) ∧ k % 4096 = 0)) ∧
    (spillPlace s q = none ↔ roomIn s q = [] ∧ freePage s q.ctx q.img = none)) ∧
  (∀ (s : State) (qid sk : Nat) (q : Queue), SMap.find? s.queues qid = some q → sk ≤ 1 →
    let claimed : Bool := s.claims.any (fun e => e.2 == qid * 2 + sk + 1)
    let now (st : HalfSt) (r : State) : Prop := r = { s with queues := r.queues, claims := r.claims } ∧
      SMap.find? r.queues qid = some (q.setHalf sk { q.half sk with st := st, since := s.hclk })
    ((q.half sk).st ≠ .unmapped ∨ wantsHalf s q sk = false ∨ claimed = true → exec (.halfMap qid sk) s = .next s) ∧
    ((q.half sk).st = .unmapped → wantsHalf s q sk = true → claimed = false →
      (slotsUsed s sk < 512 → ∃ r, exec (.halfMap qid sk) s = .next r ∧ now .mapping r ∧ r.claims = s.claims) ∧
      (512 ≤ slotsUsed s sk →
        (∀ v, slotSource s q.ctx sk = .evict v → ∃ r, exec (.halfMap qid sk) s = .next r ∧
          SMap.get 0 r.claims (v * 2 + sk) = qid * 2 + sk + 1 ∧ ∀ u, SMap.find? s.queues v = some u →
            SMap.find? r.queues v = some (u.setHalf sk { u.half sk with st := .evicting, since := s.hclk })) ∧
        (slotSource s q.ctx sk = .exhausted → ∃ r, exec (.halfMap qid sk) s = .next r ∧
          (r.ctx q.ctx).st = .faulted ∧ (r.ctx q.ctx).fatal = 0x33) ∧
        (slotSource s q.ctx sk = .nothing → exec (.halfMap qid sk) s = .next s))) ∧
    ((q.half sk).st = .mapping → q.far = [] ∨ perBlock s q ≤ (q.half sk).recs.length →
      ∃ r, exec (.halfMappingDone qid sk) s = .next r ∧ now .mapped r) ∧
    ((q.half sk).st ≠ .mapping ∨ (q.far ≠ [] ∧ (q.half sk).recs.length < perBlock s q) → exec (.halfMappingDone qid sk) s = .next s) ∧
    (∀ x rest, q.far = x :: rest → (q.half sk).st = .mapped ∨ ((q.half sk).st = .mapping ∧ (q.half sk).recs.length < perBlock s q) →
      halfRoom s q sk = true → pathWaits s 2 sk = false → ∃ r q' y, exec (.farSegmentMoveIn qid sk) s = .next r ∧ SMap.find? r.queues qid = some q' ∧
        q'.far = rest ∧ (q'.half sk).recs = (q.half sk).recs ++ [y] ∧ y.words = x.words ∧ y.tag = x.tag ∧ y.depth = x.depth ∧
        y.parent = x.parent ∧ y.id = x.id ∧ y.page = x.page ∧ y.arr = x.arr ∧ q'.pages = q.pages) ∧
    (q.far = [] ∨ pathWaits s 2 sk = true → exec (.farSegmentMoveIn qid sk) s = .next s) ∧
    ((q.half sk).st ≠ .evicting ∨ pathWaits s sk 2 = true → exec (.halfEvictDone qid sk) s = .next s) ∧
    ((q.half sk).st = .evicting → pathWaits s sk 2 = false → SMap.get 0 s.claims (qid * 2 + sk) = 0 → (spillRecs s qid (q.half sk).recs).2 = [] →
      ∃ r q', exec (.halfEvictDone qid sk) s = .next r ∧ SMap.find? r.queues qid = some q' ∧ (q'.half sk).st = .unmapped ∧
        (q'.half sk).recs = [] ∧ q'.far.map (fun x => (x.id, x.words)) = (q.far ++ (q.half sk).recs).map (fun x => (x.id, x.words)) ∧
        (q'.half (1 - sk)).recs = (q.half (1 - sk)).recs ∧ r.ctxs = s.ctxs) ∧
    ((q.half sk).st = .evicting → pathWaits s sk 2 = false → (spillRecs s qid (q.half sk).recs).2 ≠ [] → (s.ctx q.ctx).st = .active ∨ (s.ctx q.ctx).st = .faulted → ∃ r, exec (.halfEvictDone qid sk) s = .next r ∧
      (r.ctx q.ctx).st = .faulted)) ∧
  (∀ s : State, ∃ r, exec .lingerExpiry s = .next r ∧ r = { s with queues := r.queues } ∧
    ∀ qid q, SMap.find? s.queues qid = some q → ∃ q', SMap.find? r.queues qid = some q' ∧ q' = { q with lingered := q'.lingered } ∧
      (∀ i ∈ q.lingered, i ∈ q'.lingered) ∧
      ∀ nd sk k r0 rest, nodeOf s q.ctx q.img q.node = some nd → nd.kind = 0 → sk ≤ 1 →
        k ∈ groupKeys (hasCont s q.ctx q.img q.node) ((q.half sk).recs.filter (·.load.isNone)) →
        (r0 :: rest) ∈ halfBatches s q nd sk k → (r0 :: rest).length < nd.width → r0.lodged + nd.linger ≤ s.aclk → r0.id ∈ q'.lingered) ∧
  (∀ (s : State) (sk : Nat),
    ((∀ c g, bestMove (movesOf s sk) ≠ some (.team c g)) → exec (.teamStart sk) s = .next s) ∧
    ((∀ c k, bestMove (movesOf s sk) ≠ some (.prog c k)) → exec (.sequencerProgramStart sk) s = .next s) ∧
    (∀ c g nd, bestMove (movesOf s sk) = some (.team c g) → nodeAt s c = some nd →
      (carveWaits s c g = false → exec (.teamStart sk) s = .next (startTeam s c g)) ∧
      (carveWaits s c g = true → exec (.teamStart sk) s = .next s)) ∧
    (∀ c k nd x rest, bestMove (movesOf s sk) = some (.prog c k) → nodeAt s c = some nd → c.recs = x :: rest →
      ∃ r sq, exec (.sequencerProgramStart sk) s = .next r ∧ SMap.find? r.seqs k = some sq ∧ sq.h = nd.entry ∧ sq.i = 0 ∧ sq.run = none ∧
        sq.cons.recs = c.recs ∧ sq.cons.ctx = c.ctx ∧ sq.cons.node = c.node ∧ sq.cons.tag = c.tag ∧ sq.tiles = [] ∧ sq.acc = [] ∧
        sq.tok = [] ∧ sq.queue = [] ∧ sq.grp = none ∧ sq.nstat = 0 ∧ sq.mctl = false ∧
        (∀ j, SMap.get 0 sq.q j = (if 2 * j < x.words.length then
          BitVec.ofNat 64 ((x.words.getD (2 * j) 0).toNat + (x.words.getD (2 * j + 1) 0).toNat * 2 ^ 32) else 0))) ∧
    (∀ qid c, sk ≤ 1 → s.steals.find? (fun t => t.sk == sk && t.qid == qid) = none →
      (nothingToStart s sk = true → stealable s qid (1 - sk) = some c → (placeFor s c sk).isSome = true →
        roomFor s c.ctx c.img c.node c.recs = true → ∃ r, exec (.batchSteal sk qid) s = .next r ∧ r.teams = s.teams ∧ r.waves = s.waves ∧
          r = { takeRoom s c.ctx c.img c.node c.recs with steals := s.steals ++ [Steal.mk sk qid c.ctx c.img c.node c.tag c.recs false] }) ∧
      (nothingToStart s sk = false → exec (.batchSteal sk qid) s = .next s)) ∧
    (∀ qid t q, s.steals.find? (fun t => t.sk == sk && t.qid == qid) = some t → SMap.find? s.queues qid = some q →
      (t.crossed = false → (∀ x ∈ t.recs, x ∈ (q.half (1 - sk)).recs) → (∀ l, linkBars s l = false) →
        ∃ r q', exec (.batchSteal sk qid) s = .next r ∧ { t with crossed := true } ∈ r.steals ∧ t ∉ r.steals ∧
          SMap.find? r.queues qid = some q' ∧ (∀ x ∈ t.recs, x ∉ (q'.half (1 - sk)).recs) ∧ q'.rv = q.rv) ∧
      (t.crossed = false → (∃ x ∈ t.recs, ∀ y ∈ (q.half (1 - sk)).recs, y.id ≠ x.id) →
        ∃ r, exec (.batchSteal sk qid) s = .next r ∧ t ∉ r.steals ∧ r.teams = s.teams ∧
          r = { giveRoom s t.ctx t.img t.node t.recs with steals := r.steals }) ∧
      (∀ nd g, t.crossed = true → nodeOf s t.ctx t.img t.node = some nd → placeFor s t.cand sk = some g → runnable s t.ctx = true →
        ∃ r id x, exec (.batchSteal sk qid) s = .next r ∧ t ∉ r.steals ∧ SMap.find? r.teams id = some x ∧ x.core = g ∧
          x.cons.recs = t.recs ∧ x.cons.ctx = t.ctx ∧ x.cons.node = t.node ∧ x.cons.tag = t.tag ∧ x.st = .running))) ∧
  (∀ (s : State) (c : Cand) (g : Nat) (nd : NodeInfo), nodeAt s c = some nd →
    let per := if nd.access.isSome then 2 else 1
    c.batches.length * per ≤ (freeSlots s g).length →
    ∃ id t, SMap.find? (startTeam s c g).teams id = some t ∧ t.core = g ∧ t.st = .running ∧ t.cons.recs = c.recs ∧
      t.cons.ctx = c.ctx ∧ t.cons.node = c.node ∧ t.cons.tag = c.tag ∧ t.mem = [] ∧ t.sems = [] ∧
      t.waves = (freeSlots s g).take (c.batches.length * per) ∧
      ∀ j bs, c.batches[j]? = some bs → ∃ w, SMap.find? (startTeam s c g).waves ((freeSlots s g).getD (per * j) 0) = some w ∧
        w.team = id ∧ w.n = bs.length ∧ w.idx = j ∧ w.recs = bs ∧ w.access = false ∧ w.v = [] ∧ w.w = [] ∧ w.run = none ∧
        w.getM 0 = lowMask bs.length ∧ w.nstat = 0 ∧ w.spcount = 0 ∧
        w.pcs = (List.range bs.length).map (fun l => (l, { h := nd.entry, i := 0, wait := none, ret := [] })))

/-- Budgets charge every interval in which a context ran and stop it when its slice is used up; of what waits for a place alone
the first that needs a victim stops work of lower priority; a team whose waves have all stopped is stopped, is written out to its
place in the save region when its core is needed, and resumes with its threads where they were, those asleep on a line awake; a
team migrates off a hot core, and a group of programs stops and resumes together (R143-R145, R173-R177, R318, R429, R433, R444,
R445). That PERIOD 0 clears BUDGET_EXHAUSTED, and that every interval that has ended is charged at once, however long one step is,
are log entry 21's; the bytes of saved state are log entry 20's. -/
def Obligations.BudgetsPreemptionAndResumption : Prop :=
  (∀ (s : State) (c : Nat) (x : Ctx) (i : Instr), i = .budgetCharge ∨ i = .budgetPeriodStart → s.ctxs = [(c, x)] → x ≠ Ctx.reset →
    SMap.sortedFrom 0 s.seqs = true → SMap.sortedFrom 0 s.teams = true → SMap.sortedFrom 0 s.kerns = true →
    let n := s.hclk / 2048
    let k := n / x.period * x.period
    let on := running s c
    (x.period = 0 → ∃ r, exec i s = .next r ∧ r = { s with ctxs := r.ctxs } ∧ r.ctx c = { x with budgetOut := false }) ∧
    (x.period ≠ 0 → n ≤ x.lastInt → ∃ r, exec i s = .next r ∧ (x.budgetOut = false → r = { s with ctxs := r.ctxs }) ∧
      r.ctx c = { x with ran := (r.ctx c).ran } ∧
      (x.slice ≠ 0 → x.slice < x.period → on = true → (r.ctx c).ran = true)) ∧
    (x.period ≠ 0 → x.slice ≠ 0 → x.slice < x.period → x.lastInt < n → k ≤ x.lastInt →
      let charged := x.charged + (if x.ran || on then 1 else 0) + (if on then n - x.lastInt - 1 else 0)
      ∃ r, exec i s = .next r ∧ (r.ctx c).charged = charged ∧ (r.ctx c).lastInt = n ∧ (r.ctx c).ran = on ∧
        (r.ctx c).budgetOut = (x.budgetOut || decide (x.slice ≤ charged)) ∧ (r.ctx c).st = x.st ∧
        (x.budgetOut = true ∨ x.slice ≤ charged →
          (∀ t y, SMap.find? s.teams t = some y → y.cons.ctx = c → teamVictim s y = true →
            ∃ y', SMap.find? r.teams t = some y' ∧ y'.st ≠ .running) ∧
          (∀ t y, SMap.find? s.teams t = some y → y.cons.ctx = c → fitsSave s y = false → SMap.find? r.teams t = some y) ∧
          (∀ k q, SMap.find? s.seqs k = some q → q.cons.ctx = c → q.park = .no → SMap.find? r.seqs k = none) ∧
          (∀ m kn, SMap.find? s.kerns m = some kn → kn.cons.ctx = c →
            ∃ b, SMap.find? r.kerns m = some { kn with stop := b } ∧ (kn.stop = true → b = true) ∧
              (kernMay s m kn = false → b = kn.stop) ∧
              (kn.park = .no → kn.isImmune (s.mclkOf (m / 8)) = false →
                (s.savedKerns.filter (fun e => e.1 == m / 8)).length + (s.kerns.filter (fun k => k.1 / 8 == m / 8)).length ≤ 4032 →
                b = true))) ∧
        (charged < x.slice → x.budgetOut = false → r.teams = s.teams ∧ r.seqs = s.seqs ∧ r.kerns = s.kerns)) ∧
    (x.period ≠ 0 → x.slice ≠ 0 → x.slice < x.period → x.lastInt < k →
      let charged := if on then n - k else 0
      ∃ r, exec i s = .next r ∧ (r.ctx c).charged = charged ∧ (r.ctx c).lastInt = n ∧ (r.ctx c).ran = on ∧
        (r.ctx c).budgetOut = decide (x.slice ≤ charged) ∧ (r.ctx c).st = x.st ∧ (r.ctx c).prio = x.prio) ∧
    (x.period ≠ 0 → x.slice = 0 ∨ x.period ≤ x.slice → x.lastInt < n → ∃ r, exec i s = .next r ∧
      (x.budgetOut = false ∨ x.lastInt < k → r = { s with ctxs := r.ctxs }) ∧
      (r.ctx c).budgetOut = (decide (k ≤ x.lastInt) && x.budgetOut))) ∧
  (∀ (s : State) (sk : Nat), sk ≤ 1 → ∃ r, exec (.priorityPreemption sk) s = .next r ∧
    (∀ pre c post, sortBy (fun (c : Cand) => orderKey s c.ctx c.node c.recs) (wants s sk) = pre ++ c :: post →
      (∀ a ∈ pre, preemptFor s a sk = none) →
      (kindOf s c.ctx c.img c.node = 0 → r.mem = s.mem ∧ ∀ t ∈ teamVictims s c sk,
        (∃ x, (t, x) ∈ s.teams ∧ (s.ctx x.cons.ctx).prio < (s.ctx c.ctx).prio) ∧
        ∀ x, SMap.find? s.teams t = some x → ∃ x', SMap.find? r.teams t = some x' ∧ x'.st ≠ .running ∧ x'.cons = x.cons) ∧
      (∀ k q, kindOf s c.ctx c.img c.node = 3 → progVictim s c sk = some k → SMap.find? s.seqs k = some q → SMap.sortedFrom 0 s.seqs = true →
        SMap.find? r.seqs k = none ∧
        (q.grp = none → q.gets = [] → ∃ q', r.savedSeqs = s.savedSeqs ++ [q'] ∧ q'.cons = q.cons ∧ q'.q = q.q ∧ q'.acc = q.acc ∧
          q'.tiles = q.tiles ∧ q'.queue = q.queue ∧ ∀ o len, q'.place = some (o, len) →
            (List.range (progBytes q').length).map (fun j => SMap.get 0 r.mem (saveBase q.stack + o + j)) = progBytes q') ∧
        (∀ g, q.grp = some g → ∀ e ∈ groupOf s q.cons.ctx g.key, SMap.find? r.seqs e.1 = none))) ∧
    (∀ d m kn, d = 2 * sk ∨ d = 2 * sk + 1 → kernVictim s d = some m → SMap.find? s.kerns m = some kn →
      SMap.find? r.kerns m = some { kn with stop := true }) ∧
    (wants s sk = [] → kernVictim s (2 * sk) = none → kernVictim s (2 * sk + 1) = none → r = s)) ∧
  (∀ s : State, ∃ r, exec .teamStop s = .next r ∧ r.mem = s.mem ∧
    (∀ t x, SMap.find? s.teams t = some x → x.st = .stopping → allStopped s x = true →
      ∃ x', SMap.find? r.teams t = some x' ∧ x' = { x with st := .stopped } ∧ (∀ l ∈ r.longs, l.team = t → l.captured = true) ∧
        ∀ m ∈ r.mons, m.wave ∉ x.waves) ∧
    (∀ t x, SMap.find? s.teams t = some x → x.st ≠ .stopping → SMap.find? r.teams t = some x) ∧
    ((∀ t ∈ s.teams, t.2.st ≠ .stopping) → r = s)) ∧
  (∀ (s : State) (t : Nat) (x : Team), SMap.find? s.teams t = some x →
    (x.st = .stopped → fitsSave s x = true → x.migrate = true ∨ needed s x = true → releaseWaits s x.core = false →
      let f := fenceTeam s x
      let out := x.waves.filterMap (fun v => (SMap.find? f.waves v).map (fun w => (v, w)))
      ∃ r o n, exec (.teamWriteOut t) s = .next r ∧ (∀ w ∈ r.waves, w.1 ∉ x.waves) ∧
        savePlace s (stackOfCore x.core) (saveSize s x) = some (o, n) ∧
        SMap.find? r.teams t = some { x with st := .written, waves := [], region := none, saved := out, place := some (o, n) } ∧
        let at_ := saveBase (stackOfCore x.core) + o
        let bs := teamBytes f x (out.map (·.2))
        (s.memWf = true → ∀ j, j < bs.length → SMap.get 0 r.mem (at_ + j) = bs.getD j 0) ∧
        ∀ a, a < at_ ∨ at_ + bs.length ≤ a → SMap.get 0 r.mem a = SMap.get 0 f.mem a) ∧
    (x.st ≠ .stopped ∨ (x.migrate = false ∧ (needed s x = false ∨ fitsSave s x = false)) ∨
        (fitsSave s x = true ∧ releaseWaits s x.core = true) → exec (.teamWriteOut t) s = .next s) ∧
    (x.st = .stopped → x.migrate = true → fitsSave s x = false → ∃ r, exec (.teamWriteOut t) s = .next r ∧ r.teams = s.teams ∧
      r.waves = s.waves ∧ 2 ≤ SMap.get 1 r.ratio x.core ∧
      (SMap.get 1 s.ratio x.core < 2 → r.hub.errStatus.testBit 5 = true)) ∧
    (x.st = .running ∨ x.st = .stopping → x.migrate = false → ∃ r x', exec (.thermalMigration t) s = .next r ∧
      SMap.find? r.teams t = some x' ∧ x' = { x with st := .stopping, migrate := true } ∧ r.hub.errStatus.testBit 5 = true ∧
      (teamInRegion s x = true → 2 ≤ SMap.get 1 r.ratio x.core ∧ r.hub.errStatus.testBit 8 = true) ∧
      (teamInRegion s x = false → fitsSave s x = false → 2 ≤ SMap.get 1 r.ratio x.core) ∧
      (SMap.get 1 r.ratio x.core ≤ max 2 (SMap.get 1 s.ratio x.core)) ∧
      (teamInRegion s x = false → fitsSave s x = true → r.ratio = s.ratio)) ∧
    (x.migrate = true ∨ (x.st ≠ .running ∧ x.st ≠ .stopping) → exec (.thermalMigration t) s = .next s) ∧
    (∀ sk g nd, bestMove (movesOf s sk) = some (.teamBack t g) → nodeOf s x.cons.ctx x.cons.img x.cons.node = some nd →
      x.st ≠ .written ∨ releaseWaits s g = false →
      let same (w w' : Wave) : Prop := w'.m = w.m ∧ w'.tok = w.tok ∧ w'.nstat = w.nstat ∧ w'.stopped = false ∧ w'.team = w.team ∧
        (∀ e ∈ w'.v, e ∈ w.v) ∧ (∀ e ∈ w'.w, e ∈ w.w) ∧ w'.pcs.map (·.1) = w.pcs.map (·.1) ∧
        ∀ l p, SMap.find? w.pcs l = some p → ∃ p', SMap.find? w'.pcs l = some p' ∧
          p' = { p with wait := p'.wait } ∧ ((∀ y z, p.wait ≠ some (.line y z)) → p'.wait = p.wait) ∧
          ((∃ y z, p.wait = some (.line y z)) → p'.wait = none)
      ∃ r x', exec (.consumerResume sk) s = .next r ∧ SMap.find? r.teams t = some x' ∧ x'.st = .running ∧ x'.core = g ∧
        x'.cons = x.cons ∧ x'.mem = x.mem ∧ x'.sems = x.sems ∧ x'.saved = [] ∧
        (x.st = .stopped → ∀ v w, v ∈ x.waves → SMap.find? s.waves v = some w → ∃ w', SMap.find? r.waves v = some w' ∧ same w w') ∧
        (x.st = .written → (x.saved.map (·.1)).Nodup → x.saved.length ≤ (freeSlots s g).length →
          ∀ j v w, x.saved[j]? = some (v, w) → ∃ w', SMap.find? r.waves ((freeSlots s g).getD j 0) = some w' ∧ same w w'))) ∧
  (∀ (s : State) (sk i k : Nat) (q : Seq) (ks : List Nat), bestMove (movesOf s sk) = some (.progBack i k) → s.savedSeqs[i]? = some q →
    groupPlaces s (savedGroup s q) [] = some ks →
    ∃ r, exec (.consumerResume sk) s = .next r ∧ r = { s with savedSeqs := r.savedSeqs, seqs := r.seqs } ∧
      r.savedSeqs = (s.savedSeqs.zipIdx.filter (fun p => !(savedGroup s q).any (fun m => m.2 == p.2))).map (·.1) ∧
      ∀ (j : Nat) (p : Seq × Nat) (n : Nat), (savedGroup s q)[j]? = some p → ks[j]? = some n → SMap.find? r.seqs n = some ({ (p.1 : Seq) with cyc := s.aclk, place := none } : Seq)) ∧
  (∀ (s : State) (sk : Nat), (∀ t g, bestMove (movesOf s sk) ≠ some (.teamBack t g)) → (∀ i k, bestMove (movesOf s sk) ≠ some (.progBack i k)) →
    exec (.consumerResume sk) s = .next s)

/-- A port takes the ready wave that began longest ago; an operation that completes, on an edge its core receives, writes its
registers and lowers its token, and what of it is still in flight on them is contested (the bytes a copy sends home:
CopiesLocksAndPrefetches); a wave past its bounds faults; waves move between the register file and firn as R163-R165 say; sleepers
wake; and a walk that ends fills the TLBs of the unit that asked, or leaves its fault. That a wave waiting at issue inside a clause
is parked too and when it could go on, and the time of a transfer, are the model's readings (log entry 16); so are who is answered
when misses share a walk and which pages the pool holds (log entry 11) (R32, R149-R151, R163-R167, R171, R172, R193-R198, R218,
R291, R293, R318). -/
def Obligations.CoresSelectCompleteAndWake : Prop :=
  (∀ (s : State) (g p : Nat), (4 ≤ p ∨ edgeHere s g = false ∨ ∃ w ∈ coreWaves s g, ∃ c, w.2.run = some c ∧ c.port = p) →
    exec (.clauseSelect g p) s = .next s) ∧
  (∀ (s : State) (g p v : Nat) (wv : Wave) (at_ : Nat × Nat × Mask), p < 4 → edgeHere s g = true → SMap.sortedFrom 0 s.waves = true →
    (∀ w ∈ coreWaves s g, ∀ c, w.2.run = some c → c.port ≠ p) → (v, wv) ∈ coreWaves s g → headRun wv = some at_ →
    (∀ u ∈ coreWaves s g, u.1 ≠ v → offered s u.1 u.2 = .not ∨ (∃ k, offered s u.1 u.2 = .walk k) ∨ wv.begun < u.2.begun ∨
      (wv.begun = u.2.begun ∧ v < u.1)) →
    (∀ hd, offered s v wv = .clause hd → ∃ r w, exec (.clauseSelect g p) s = .next r ∧ SMap.find? r.waves v = some w ∧
      w.run = some (Clause.mk at_.1 hd.count hd.cls at_.2.1 at_.2.2 [] [] p false 0) ∧
      w.begun = s.aclk ∧ w.spcount = (if hd.s = true then 0 else wv.spcount) ∧ w.pcs = wv.pcs ∧ w.v = wv.v ∧ w.w = wv.w ∧
      w.m = wv.m ∧ r.mem = s.mem ∧ r.ctxs = s.ctxs) ∧
    (∀ f, offered s v wv = .bad f → ∃ r w, exec (.clauseSelect g p) s = .next r ∧ (r.ctx wv.ctx).st = .faulted ∧
      (r.ctx wv.ctx).fatal = f.cause ∧ SMap.find? r.waves v = some w ∧ w = { wv with stopped := true }) ∧
    (∀ cause, offered s v wv = .park cause → ∃ r w, exec (.clauseSelect g p) s = .next r ∧ (r.ctx wv.ctx).st = .active ∧
      (r.ctx wv.ctx).pageWait = true ∧ SMap.find? r.waves v = some w ∧ w = { wv with park := .xlat, notReadySince := s.aclk })) ∧
  (∀ (s : State) (g p : Nat), p < 4 → edgeHere s g = true → (∀ w ∈ coreWaves s g, ∀ c, w.2.run = some c → c.port ≠ p) →
    ∃ r, exec (.clauseSelect g p) s = .next r ∧ r.mem = s.mem ∧
      ∀ u ∈ coreWaves s g, ∀ ws, (u.2.res = .parked → pickWave s u.1 u.2 = .walk ws) → (u.2.res ≠ .parked → offered s u.1 u.2 = .walk ws) →
        ∀ k ∈ ws, k ∈ r.walks ∨ 128 + 4096 ≤ (walkPages r).length) ∧
  (∀ (s : State) (v i : Nat) (wv : Wave) (o : PendOp), SMap.find? s.waves v = some wv → wv.ops.find? (fun o => o.id == i) = some o →
    (coreEdges s (coreOfWave v) < o.earliest ∨ edgeHere s (coreOfWave v) = false ∨ (o.kind = .store ∧ entering s v = true) →
      exec (.tokenComplete (.wave v) i) s = .next s) ∧
    (o.earliest ≤ coreEdges s (coreOfWave v) → edgeHere s (coreOfWave v) = true →
      o.kind = .regs ∨ (o.kind = .store ∧ entering s v = false) ∨ (∃ b c, o.kind = .copy true [] b c) → wv.pcs ≠ [] → SMap.sortedFrom 0 wv.v = true → SMap.sortedFrom 0 wv.w = true →
      SMap.sortedFrom 0 wv.tok = true → (o.regs.map (·.key)).Nodup → ∃ r w, exec (.tokenComplete (.wave v) i) s = .next r ∧
        SMap.find? r.waves v = some w ∧ w.ops = (wv.ops.filter (fun p => p.id != i)).map (PendOp.contest (o.regs.map (·.key))) ∧
        w.pcs = wv.pcs ∧ w.m = wv.m ∧ w.nstat = wv.nstat ∧
        (∀ k, w.getTok k = (if o.tok = some k then wv.getTok k - 1 else wv.getTok k)) ∧
        (∀ x ∈ o.regs, x.contested = false → (x.key < 0x4000 → SMap.get 0 w.v x.key = x.val) ∧
          (0x4000 ≤ x.key → SMap.get 0 w.w (x.key - 0x4000) = x.val)) ∧
        (∀ x ∈ o.regs, x.contested = true → x.key < 0x4000 → SMap.get 0 w.v x.key = x.val ∨ SMap.get 0 w.v x.key = SMap.get 0 wv.v x.key) ∧
        (∀ k, (∀ x ∈ o.regs, x.key ≠ k) → k < 0x4000 → SMap.get 0 w.v k = SMap.get 0 wv.v k) ∧
        (∀ k, (∀ x ∈ o.regs, x.key ≠ 0x4000 + k) → SMap.get 0 w.w k = SMap.get 0 wv.w k) ∧
        r.mem = s.mem ∧ r.sys = s.sys ∧ r.l1 = s.l1 ∧ r.ctxs = s.ctxs)) ∧
  (∀ (s : State) (k i : Nat) (q : Seq) (g : QGet), SMap.find? s.seqs k = some q → q.gets.find? (fun g => g.id == i) = some g →
    SMap.sortedFrom 0 q.q = true → ∃ r q', exec (.tokenComplete (.seq k) i) s = .next r ∧ r = { s with seqs := r.seqs } ∧
      SMap.find? r.seqs k = some q' ∧ q' = { q with q := q'.q, tok := q'.tok, gets := q'.gets } ∧
      q'.gets = (q.gets.filter (fun h => h.id != i)).map (fun h => if h.q = g.q then { h with contested := true } else h) ∧
      (g.contested = false → SMap.get 0 q'.q g.q = g.val) ∧ (∀ j, j ≠ g.q → SMap.get 0 q'.q j = SMap.get 0 q.q j)) ∧
  (∀ (s : State) (v p : Nat) (aw cw : Wave) (o : PendOp) (slots : List Nat), SMap.find? s.waves v = some aw →
    aw.ops.find? (fun o => o.isPush) = some o → aw.ops.find? (fun q => q.id == o.id) = some o → o.kind = .push slots → aw.pair = some p → p ≠ v → SMap.find? s.waves p = some cw →
    (edgeHere s (coreOfWave p) = false → exec (.qwinEntryReady v) s = .next s) ∧
    (edgeHere s (coreOfWave p) = true → pendingPops cw = [] → aw.pcs ≠ [] → SMap.sortedFrom 0 cw.v = true → (o.regs.map (·.key)).Nodup →
    ∃ r w a, exec (.qwinEntryReady v) s = .next r ∧ SMap.find? r.waves p = some w ∧ SMap.find? r.waves v = some a ∧
      (∀ x ∈ o.regs, SMap.get 0 w.v x.key = x.val) ∧ (∀ k, (∀ x ∈ o.regs, x.key ≠ k) → SMap.get 0 w.v k = SMap.get 0 cw.v k) ∧
      (∀ e ∈ slots, SMap.get 0 w.qready e = 1) ∧ w.qc = cw.qc ∧ w.w = cw.w ∧ a.ops = aw.ops.filter (fun q => q.id != o.id) ∧ a.v = aw.v)) ∧
  (∀ s : State, ∃ r, exec .safepointBound s = .next r ∧ r.mem = s.mem ∧ (∀ v x, wctxOf s v (·.run) = some x → x.wv.stopped = false →
      4096 ≤ x.wv.spcount → x.cl.i < x.cl.count → x.cl.run ≠ 0 → ctxRuns s x.wv.ctx = true →
      (r.ctx x.wv.ctx).st = .faulted ∧ (r.ctx x.wv.ctx).fatal = 0x34) ∧
    ((∀ w ∈ s.waves, w.2.spcount < 4096) → r = s)) ∧
  (∀ s : State, ∃ r, exec .npBound s = .next r ∧ r.mem = s.mem ∧ r.waves = s.waves ∧ (∀ v wv t, SMap.find? s.waves v = some wv →
      wv.np = some t → t + 65536 ≤ coreEdges s (coreOfWave v) → ctxRuns s wv.ctx = true →
      (r.ctx wv.ctx).st = .faulted ∧ (r.ctx wv.ctx).fatal = 0x35) ∧
    ((∀ w ∈ s.waves, ∀ t, w.2.np = some t → coreEdges s (coreOfWave w.1) < t + 65536) → r = s)) ∧
  (∀ (s : State) (v : Nat) (wv : Wave), SMap.find? s.waves v = some wv →
    let g := coreOfWave v
    let idle (w : Nat × Wave) : Prop := w.2.res = .resident ∧ (∀ c, w.2.run = some c → c.port = 4) ∧ isReady s w.1 w.2 = false
    let longest : Prop := ∀ w ∈ coreWaves s g, idle w → (wv.hint = true ∧ w.2.hint = false) ∨
      (wv.hint = w.2.hint ∧ wv.notReadySince ≤ w.2.notReadySince)
    let bytes (nd : NodeInfo) : Nat := (if wv.access then 64 else nd.vregs) * nd.width * 4
    (∀ u uw nd, nextRecall s g = some (u, uw) → 524288 < residentBytes s g + allocWave s uw → idle (v, wv) → longest →
      nodeOf s wv.ctx wv.img wv.node = some nd → ∃ till, exec (.wavePark v) s = .next (s.setWave v { wv with res := .parking till }) ∧
        s.aclk ≤ till ∧ till ≤ s.aclk + ceilDiv (bytes nd) 256) ∧
    (nextRecall s g = none → exec (.wavePark v) s = .next s) ∧
    (∀ nd, nextRecall s g = some (v, wv) → residentBytes s g + allocWave s wv ≤ 524288 → nodeOf s wv.ctx wv.img wv.node = some nd →
      ∃ till, exec (.waveRecall v) s = .next (s.setWave v { wv with res := .recalling till }) ∧
        s.aclk ≤ till ∧ till ≤ s.aclk + ceilDiv (bytes nd) 256) ∧
    (∀ u uw, nextRecall s g = some (u, uw) → u ≠ v ∨ 524288 < residentBytes s g + allocWave s uw → exec (.waveRecall v) s = .next s) ∧
    (∃ r w, exec .firnTransferDone s = .next r ∧ r = { s with waves := r.waves } ∧ SMap.find? r.waves v = some w ∧
      w = { wv with res := w.res } ∧ (∀ t, wv.res = .parking t → t ≤ s.aclk → w.res = .parked) ∧
      (∀ t, wv.res = .recalling t → t < s.aclk → w.res = .resident) ∧ (wv.res = .resident ∨ wv.res = .parked → w = wv))) ∧
  (∀ (s : State) (v l : Nat) (wv : Wave) (p : PcE), SMap.find? s.waves v = some wv → SMap.find? wv.pcs l = some p →
    (∀ a b, p.wait = some (.line a b) → ∃ r w, exec (.waitlineWake v l) s = .next r ∧ SMap.find? r.waves v = some w ∧
      SMap.find? w.pcs l = some { p with wait := none } ∧ (∀ k, k ≠ l → SMap.find? w.pcs k = SMap.find? wv.pcs k) ∧ w.v = wv.v ∧
      (∀ m ∈ r.mons, m.wave ≠ v ∨ m.lane ≠ l) ∧ r.mem = s.mem) ∧
    ((∀ a b, p.wait ≠ some (.line a b)) → exec (.waitlineWake v l) s = .next s)) ∧
  (∀ s : State, ∃ r, exec .waitlineTimeout s = .next r ∧ r.mem = s.mem ∧
    (∀ m ∈ s.mons, m.at_ + 1048576 ≤ coreEdges s m.core → ∀ wv p, SMap.find? r.waves m.wave = some wv →
      SMap.find? wv.pcs m.lane = some p → ∀ a b, p.wait ≠ some (.line a b)) ∧
    ((∀ m ∈ s.mons, coreEdges s m.core < m.at_ + 1048576) → r = s)) ∧
  (∀ (s : State) (i : Nat) (w : Walk), s.walks[i]? = some w →
    let same (u : Walk) : Bool := u.ctx == w.ctx && u.page == w.page
    (((s.walks.map (fun u => (u.ctx, u.page))).eraseDups).take 128).contains (w.ctx, w.page) = true → (∀ l, linkBars s l = false) →
    (∀ e ∈ s.l1, e.2.st ≠ .u) →
    let b : State := { s with walks := s.walks.filter (fun u => !same u) }
    ∃ r, exec (.pageWalk i) s = .next r ∧ r.walks = b.walks ∧ r.mem = s.mem ∧ r.ctxs = s.ctxs ∧
      (s.walks.filter same = [w] →
        (∀ va pa n wr x, walkFrom b (w.page * 4096) w.acc 4 (b.ctx w.ctx).ptRoot = .page va pa n wr x →
          let e : TlbE := { ctx := w.ctx, va := va, size := n, pa := pa, w := wr, x := x }
          e ∈ SMap.get [] r.tlb2 w.stack ∧ (∀ g, w.core = some g → e ∈ SMap.get [] r.tlb1 g) ∧ r.wfault = s.wfault) ∧
        (∀ c, walkFrom b (w.page * 4096) w.acc 4 (b.ctx w.ctx).ptRoot = .fault c → r.tlb2 = s.tlb2 ∧ r.tlb1 = s.tlb1 ∧
          ∃ f ∈ r.wfault, f.ctx = w.ctx ∧ f.page = w.page ∧ f.acc = w.acc ∧ f.cause = c ∧ f.who = w.who))) ∧
  (∀ (s : State) (va : Nat) (acc : Acc) (level table v pa n : Nat) (w x : Bool), walkFrom s va acc level table = .page v pa n w x →
    offline s table = false ∧ n ∈ [0x1000, 0x10000, 0x200000, 0x40000000, 0x100000000] ∧ v = va / n * n ∧ pa % n = 0 ∧ rangeBad pa n = false ∧
    (acc = .write → w = true) ∧ (acc = .fetch → x = true))

/-- The sampler takes the next entry of its four cores in turn and writes, for every lane, the four channels that its texels
give, on an edge its core receives or, where this is none, as its operation completes; the rasteriser appends one record for every covered quad, in the visiting order; the traversal unit emits a hit or a miss
as the record stands at an empty stack, and parks a record whose node fetch faults. Wrong descriptors and records, and records
past the reservation, fault (R32, R33, R253, R254, R256-R259, R261, R262, R265-R269, R271, R274). -/
def Obligations.EnginesSampleRasteriseAndTraverse : Prop :=
  (∀ (s : State) (k : Nat), engineOn s k = false →
    exec (.texOperation k) s = .next s ∧ exec (.rasterTriangle k) s = .next s ∧ exec (.traversalOperation k) s = .next s) ∧
  (∀ (s : State) (k : Nat), (∀ j, j < 4 → texNext s k j = none) → exec (.texOperation k) s = .next s) ∧
  (∀ (s : State) (k i w op pc form ch mode c d at_ : Nat) (ta sa : DWord) (lanes : List (Nat × List Word)), engineOn s k = true → i < 4 →
    let j := ((s.engine k).lastT + 1 + i) % 4
    let it : EItem := .tex w op pc form ch ta sa mode c lanes d at_
    (∀ n, n < i → texNext s k (((s.engine k).lastT + 1 + n) % 4) = none) → texNext s k j = some it →
    let descs := (ta.toNat, 32) :: (if form = 2 then [] else [(sa.toNat, 16)])
    let reads := lanes.flatMap (fun l => descs.map (fun e => { lane := l.1, va := e.1, size := e.2, acc := .read : Req }))
    let aligned : Prop := ta.toNat % 32 = 0 ∧ (form = 2 ∨ sa.toNat % 16 = 0)
    (¬ aligned → (s.ctx c).st = .active → ∃ r, exec (.texOperation k) s = .next r ∧ (r.ctx c).st = .faulted ∧ (r.ctx c).fatal = 0x66 ∧ r.waves = s.waves ∧
      r.mem = s.mem) ∧
    (aligned → ∀ ps, engineGate s k c reads (askOp op) = .park ps → ∃ r, exec (.texOperation k) s = .next r ∧
      SMap.find? (r.engine k).parkT j = some (it, .xlat) ∧ (r.ctx c).pageWait = true ∧ r.waves = s.waves ∧ r.mem = s.mem) ∧
    (aligned → ∀ ws, engineGate s k c reads (askOp op) = .wait ws → ∃ r, exec (.texOperation k) s = .next r ∧ r = { s with walks := r.walks }) ∧
    (aligned → ∀ (ph : Nat → Nat) (t : Texture) (sm : Sampler) (wv : Wave) (o : PendOp),
      engineGate s k c reads (askOp op) = .go (reads.map (fun r => ph r.va)) → (∀ e ∈ s.l1, e.2.st ≠ .u) → lanes ≠ [] → (lanes.map (·.1)).Nodup →
      (∀ l ∈ lanes, l.1 < 64) → d + 3 < 256 → textureOf (homeBytes s (ph ta.toNat) 32) = some t →
      samplerOf (if form = 2 then List.replicate 16 0 else homeBytes s (ph sa.toNat) 16) = some sm →
      let layer (a : List Word) : Nat := min (a.getD 2 0).toNat (t.layers - 1)
      let texels := texReqs t (lanes.map (fun l => (l.1, layer l.2, texPlan s form mode t sm l.1 l.2)))
      engineGate s k c texels (askOp op) = .go (texels.map (fun r => ph r.va)) → SMap.find? s.waves w = some wv → wv.pcs ≠ [] →
      wv.ops.find? (fun o => o.id == op) = some o → o.isPush = false → (o.regs.map (·.key)).Nodup → SMap.sortedFrom 0 wv.v = true →
      let channel (l : Nat × List Word) (n : Nat) : Word :=
        let plan := texPlan s form mode t sm l.1 l.2
        let value (p : Rat × TexRef) : List XR := match p.2 with
          | some (lv, i, j) => channels t.fmt (lateSrgb mode t.fmt) (homeBytes s (ph (t.addr lv (layer l.2) i j)) (texelBytes t.fmt))
          | none => List.replicate 4 (.fin (if sm.border then 1 else 0))
        BitVec.ofNat 32 ((texResult form ch mode t plan ((plan.getD []).map value)).getD n 0)
      ∃ r w', exec (.texOperation k) s = .next r ∧ SMap.find? r.waves w = some w' ∧ r.mem = s.mem ∧ r.ctxs = s.ctxs ∧
        (edgeHere s (coreOfWave w) = true →
          w'.ops = (wv.ops.filter (fun p => p.id != op)).map (PendOp.contest (o.regs.map (·.key))) ∧
          (∀ l ∈ lanes, ∀ n, n < 4 → ∀ x ∈ o.regs, x.key = vKey (d + n) l.1 → x.contested = false →
            SMap.get 0 w'.v x.key = channel l n) ∧
          (∀ key, key < 0x4000 → (∀ x ∈ o.regs, x.key ≠ key) → SMap.get 0 w'.v key = SMap.get 0 wv.v key)) ∧
        (edgeHere s (coreOfWave w) = false → w'.v = wv.v ∧ w'.ops.map (·.id) = wv.ops.map (·.id) ∧
          ∀ p ∈ w'.ops, p.id = op → p.kind = .regs ∧
            ∀ l ∈ lanes, ∀ n, n < 4 → ∀ x ∈ p.regs, x.key = vKey (d + n) l.1 → x.val = channel l n))) ∧
  (∀ (s : State) (k : Nat), takeInput s k 1 (s.engine k).lastR = none → exec (.rasterTriangle k) s = .next s) ∧
  (∀ (s b : State) (k j : Nat) (c : Cons), engineOn s k = true → takeInput s k 1 (s.engine k).lastR = some (j, b, c) →
    (b.ctx c.ctx).st = .active → SMap.sortedFrom 0 c.resv = true →
    (triOf (inputBytes c) = none → ∃ r, exec (.rasterTriangle k) s = .next r ∧ (r.ctx c.ctx).st = .faulted ∧ (r.ctx c.ctx).fatal = 0x65 ∧
      r.transit = b.transit ∧ r.mem = b.mem) ∧
    (∀ t, triOf (inputBytes c) = some t →
      let quads := t.emits (inputBytes c)
      (∀ e, portEdge b c.ctx c.img c.node 0 = some e → quads.length ≤ SMap.get 0 c.resv 0 → ∃ r, exec (.rasterTriangle k) s = .next r ∧
        r.mem = b.mem ∧ r.waves = b.waves ∧ (r.ctx c.ctx).st = (b.ctx c.ctx).st ∧
        r.transit.map (fun t => (t.ctx, t.img, t.node, t.rcd.tag, t.rcd.words)) =
          b.transit.map (fun t => (t.ctx, t.img, t.node, t.rcd.tag, t.rcd.words)) ++
            quads.map (fun q => (c.ctx, c.img, e.dst, c.tag, recWords (recSize b c.ctx c.img e.dst) q))) ∧
      (portEdge b c.ctx c.img c.node 0 = none ∧ quads ≠ [] ∨ SMap.get 0 c.resv 0 < quads.length →
        ∃ r, exec (.rasterTriangle k) s = .next r ∧ (r.ctx c.ctx).st = .faulted ∧ (r.ctx c.ctx).fatal = 0x40 ∧ r.mem = b.mem))) ∧
  (∀ (s : State) (k : Nat), (s.engine k).ready = [] → 32 < (s.engine k).parkV.length ∨ takeInput s k 2 (s.engine k).lastV = none →
    exec (.traversalOperation k) s = .next s) ∧
  (∀ (s b : State) (k j : Nat) (c : Cons) (r0 : Rec), engineOn s k = true → (s.engine k).ready = [] → (s.engine k).parkV.length ≤ 32 →
    takeInput s k 2 (s.engine k).lastV = some (j, b, c) → c.recs = [r0] → (b.ctx c.ctx).st = .active →
    (travBad r0.words = true → ∃ r, exec (.traversalOperation k) s = .next r ∧ (r.ctx c.ctx).st = .faulted ∧ (r.ctx c.ctx).fatal = 0x69 ∧
      r.transit = b.transit ∧ r.mem = b.mem) ∧
    (∀ e, r0.words.length = 64 → bAt r0.words 0x69 = 0 → refType (qAt r0.words 0x20) = 0 →
      refBad (refWithLevel (qAt r0.words 0x20) 0) = false → portEdge b c.ctx c.img c.node 1 = some e → SMap.get 0 c.resv 1 ≠ 0 →
      ∃ r t, exec (.traversalOperation k) s = .next r ∧ r.transit = b.transit ++ [t] ∧ t.ctx = c.ctx ∧ t.node = e.dst ∧ t.rcd.tag = c.tag ∧
        t.rcd.words = recWords (recSize b c.ctx c.img e.dst) (recBytes (travOut (setB (travStart r0.words) 0x68 0) 1)) ∧ r.mem = b.mem)) ∧
  (∀ ws : List Word, ws.length = 64 → bAt ws 0x69 = 0 → refBad (qAt ws 0x20) = false →
    let a := travStart ws
    a.length = 64 ∧ wAt a 0x40 = 0x7F800000 ∧ wAt a 0x44 = 0 ∧ wAt a 0x48 = 0 ∧ qAt a 0x4C = 0 ∧ bAt a 0x54 = 0 ∧ qAt a 0x58 = 0 ∧
      qAt a 0x60 = 0 ∧ bAt a 0x68 = 1 ∧ refAddr (qAt a 0x78) = refAddr (qAt ws 0x20) ∧ refType (qAt a 0x78) = refType (qAt ws 0x20) ∧
      refLevel (qAt a 0x78) = 0 ∧ a.take 16 = ws.take 16) ∧
  (∀ (s : State) (k : Nat) (c : Cons) (ws : List Word) (rest : List (Cons × List Word)), engineOn s k = true →
    (s.engine k).ready = (c, ws) :: rest → bAt ws 0x69 ≠ 2 ∨ qAt ws 0x60 = 0 → SMap.sortedFrom 0 s.engines = true →
    let b := setEngine s k { s.engine k with ready := rest }
    (bAt ws 0x68 = 0 →
      let port := if bAt ws 0x54 = 0 then 1 else 0
      (∀ e, portEdge s c.ctx c.img c.node port = some e → SMap.get 0 c.resv port ≠ 0 → ∃ r t, exec (.traversalOperation k) s = .next r ∧
        r.transit = s.transit ++ [t] ∧ t.ctx = c.ctx ∧ t.node = e.dst ∧ t.rcd.tag = c.tag ∧ (r.engine k).ready = rest ∧ r.mem = s.mem ∧
        t.rcd.words = recWords (recSize s c.ctx c.img e.dst) (recBytes (travOut ws port))) ∧
      (SMap.get 0 c.resv port = 0 → (s.ctx c.ctx).st = .active → ∃ r, exec (.traversalOperation k) s = .next r ∧
        (r.ctx c.ctx).st = .faulted ∧ (r.ctx c.ctx).fatal = 0x40 ∧ r.transit = s.transit ∧ r.mem = s.mem)) ∧
    (∀ ps, let e := qAt ws (0x78 + 8 * (bAt ws 0x68 - 1))
      bAt ws 0x68 ≠ 0 → refType e ≠ 0 → refLevel e = 0 → refBad e = false →
      hubGate b (k / 24) c.ctx (refAddr e) (nodeSize (refType e)) .read c.asker = .park ps → ∃ r, exec (.traversalOperation k) s = .next r ∧
        (r.engine k).parkV = (s.engine k).parkV ++ [(c, ws)] ∧ (r.engine k).ready = rest ∧ (r.ctx c.ctx).pageWait = true ∧
        r.transit = s.transit ∧ r.mem = s.mem) ∧
    (bAt ws 0x68 ≠ 0 → let e := qAt ws (0x78 + 8 * (bAt ws 0x68 - 1))
      refLevel e = 0 ∨ refType e = 3 ∨ refType e = 4 → refBad e = true → (s.ctx c.ctx).st = .active →
      ∃ r, exec (.traversalOperation k) s = .next r ∧ (r.ctx c.ctx).st = .faulted ∧ (r.ctx c.ctx).fatal = 0x67 ∧ r.transit = s.transit ∧
        r.mem = s.mem))

/-- A head's settings are locked and checked while it is enabled, a vertical blank latches the surface, a frame is scanned out
row by row and counted, black from the pixel at which a translation faults; a session's frame is checked, encoded and written into its ring byte
by byte, FRAMES before WR before the completion record, and stalls while the ring is full. That the vector goes out at every blank,
the form of FP16 output, the planes of a surface and the encoder are the model's (log entries 30 and 31) (R84-R89). -/
def Obligations.DisplayAndVideoFollowTheirRegisters : Prop :=
  (∀ (s : State) (w : HostWrite) (h : Nat) (k : DReg), writeErr s w = none → wReg w = some (.disp h k) →
    SMap.sortedFrom 0 s.heads = true →
    let v := BitVec.ofNat 64 (wMerged w (regVal s (.disp h k)))
    let d := s.head h
    let put (e : Head) (o : Host.Outcome State Fault Refusal) : Prop :=
      ∃ r, o = .next r ∧ r.head h = e ∧ r = { s with heads := r.heads } ∧ ∀ j, j ≠ h → r.head j = s.head j
    (k = .ctl → put { d with ctl := v, stopping := false } (exec (.displayEnable w) s) ∧
      put { d with ctl := v, stopping := d.ctl.getLsbD 0 && !v.getLsbD 0 } (exec (.displayDisable w) s) ∧
      (d.ctl.getLsbD 0 = true → v.toNat / 2 = d.ctl.toNat / 2) ∧
      (d.ctl.getLsbD 0 = false → v.getLsbD 0 = true → displayOk d v.toNat = true)) ∧
    (k = .surf → put { d with surf := v } (exec (.registerWrite w) s)) ∧
    (k = .status → put { d with flip := d.flip && !(wValue w &&& wBits w).testBit 32 } (exec (.registerWrite w) s)) ∧
    (k = .timing → d.ctl.getLsbD 0 = false ∧ put { d with timing := v } (exec (.registerWrite w) s)) ∧
    (k = .pixclk → d.ctl.getLsbD 0 = false ∧ put { d with pixclk := v } (exec (.registerWrite w) s)) ∧
    (k = .sync → d.ctl.getLsbD 0 = false ∧ put { d with sync := v } (exec (.registerWrite w) s)) ∧
    (k = .pitch → d.ctl.getLsbD 0 = false ∧ put { d with pitch := v } (exec (.registerWrite w) s))) ∧
  (∀ (s : State) (h : Nat), SMap.sortedFrom 0 s.heads = true →
    let d := s.head h
    (d.ctl.getLsbD 0 = true → ∃ r, exec (.displayVblank h) s = .next r ∧ r.head h = { d with latched := d.surf.toNat, flip := true } ∧
      r.msix = s.msix ++ [34 + h] ∧ r = { s with heads := r.heads, msix := r.msix } ∧ ∀ j, j ≠ h → r.head j = s.head j) ∧
    (d.ctl.getLsbD 0 = false → exec (.displayVblank h) s = .next s ∧
      (d.stopping = false → exec (.displayScanoutFrame h) s = .next s)) ∧
    (d.ctl.getLsbD 0 = true ∨ d.stopping = true → (∀ l, linkBars s l = false) →
      let fmt := d.ctl.toNat / 2 ^ 8 % 8
      let c := d.ctl.toNat / 2 ^ 11 % 32
      let width := d.timing.toNat / 2 ^ 48
      let rows := d.timing.toNat / 2 ^ 16 % 2 ^ 16
      let size := if fmt = 2 then 8 else 4
      (∃ r, exec (.displayScanoutFrame h) s = .next r ∧ (r.head h).frames = d.frames + 1 ∧ (r.head h).stopping = false ∧
        (r.head h).ctl = d.ctl ∧ (r.head h).flip = d.flip ∧ r.waves = s.waves) ∧
      (∀ line : Nat → List Byte, (∀ y, y < rows → loadRead s c (d.latched + y * d.pitch.toNat) (width * size) = .ok (s, line y)) →
        ∃ r, exec (.displayScanoutFrame h) s = .next r ∧ r = { s with heads := r.heads, counts := r.counts } ∧
          (r.head h).shown = (List.range rows).flatMap (fun y => rowOut s.free fmt width (line y))) ∧
      (∀ (line : Nat → List Byte) (y cause va : Nat) (bs : List Byte), causeKind cause = .parks → y < rows →
        let row := d.latched + y * d.pitch.toNat
        let before := (va - row) / size
        (∀ z, z < y → loadRead s c (d.latched + z * d.pitch.toNat) (width * size) = .ok (s, line z)) →
        loadRead s c row (width * size) = .walk cause va → loadRead s c row (before * size) = .ok (s, bs) →
        ∃ r, exec (.displayScanoutFrame h) s = .next r ∧
          (r.head h).shown = (List.range y).flatMap (fun z => rowOut s.free fmt width (line z)) ++ rowOut s.free fmt before bs ++
            List.replicate ((rows - y) * width - before) 0 ∧
          (r.ctx c).st = (s.ctx c).st ∧ va / 4096 ∈ (r.ctx c).seen ∧ r.mem = s.mem))) ∧
  (∀ (free fmt n : Nat) (bs : List Byte), fmt ≠ 2 →
    rowOut free fmt n bs = (List.range n).map (fun x => natOfBytes ((bs.drop (4 * x)).take 4))) ∧
  (∀ (s : State) (w : HostWrite) (n : Nat), writeErr s w = none → wReg w = some (.venc n) → SMap.sortedFrom 0 s.vencs = true →
    let v := wMerged w (regVal s (.venc n))
    (v.testBit 63 = true → (s.venc n).reg.getLsbD 63 = false → vencTotal s n v ≤ 4200000000) ∧
    ((s.venc n).reg.getLsbD 63 = true → v % 2 ^ 63 = (s.venc n).reg.toNat % 2 ^ 63) ∧
    ∃ r, exec (.videoSessionEnable w) s = .next r ∧ r.venc n = { s.venc n with reg := BitVec.ofNat 64 v } ∧
      r = { s with vencs := r.vencs } ∧ ∀ m, m ≠ n → r.venc m = s.venc m) ∧
  (∀ (s : State) (n : Nat),
    ((s.venc n).cur = none → nextFrame s (s.venc n) = none → exec (.videoFrame n) s = .next s) ∧
    (∀ f, (s.venc n).cur = some f → f.begun = true ∨ (s.venc n).park ≠ .no ∨ ctxRuns s f.cons.ctx = false →
      exec (.videoFrame n) s = .next s)) ∧
  (∀ (s b : State) (n i : Nat) (t : Transit) (k : Cons), (s.venc n).cur = none → nextFrame s (s.venc n) = some (i, t) →
    SMap.sortedFrom 0 s.vencs = true → k.recs = [t.rcd] →
    takeCons (setVenc s n { s.venc n with queue := (s.venc n).queue.eraseIdx i }) t.ctx t.img t.node t.rcd.tag [t.rcd] = (b, k) →
    let bs := recBytes t.rcd.words
    let num (o len : Nat) : Nat := natOfBytes ((bs.drop o).take len)
    let ring := num 0x10 8
    let frame : VFrame :=
      { cons := k, begun := false, key := false, size := 0, start := 0, frames := 0, next := 0, rd := 0, left := [] }
    (∀ e, frameErr b k.ctx bs = some e → (b.ctx k.ctx).st = .active → ∃ r p, exec (.videoFrame n) s = .next r ∧
      (r.venc n).cur = none ∧ (r.ctx k.ctx).st = .faulted ∧ (r.ctx k.ctx).fatal = 0x6A ∧ r.hub.reports = b.hub.reports ++ [p] ∧
      p.cause = 0x6A ∧ p.sub = e ∧ r.mem = b.mem) ∧
    (frameErr b k.ctx bs = none →
      (∀ cause va, loadRead b k.ctx ring 64 = .walk cause va → causeKind cause = .parks → ∃ r, exec (.videoFrame n) s = .next r ∧
        r.venc n = { b.venc n with cur := some frame, stalled := false, park := .xlat } ∧ (r.ctx k.ctx).pageWait = true ∧ r.mem = b.mem) ∧
      (∀ hd, loadRead b k.ctx ring 64 = .ok (b, hd) → vheadBad hd = true → (b.ctx k.ctx).st = .active → ∃ r p,
        exec (.videoFrame n) s = .next r ∧ (r.venc n).cur = none ∧ (r.ctx k.ctx).fatal = 0x6A ∧
        r.hub.reports = b.hub.reports ++ [p] ∧ p.sub = 4 ∧ r.mem = b.mem) ∧
      ∃ (ycc : Bool) (size : Nat), (size = 1 ∨ size = 2) ∧ ∀ hd px, loadRead b k.ctx ring 64 = .ok (b, hd) → vheadBad hd = false →
        readPlanes k.ctx (surfPlanes ycc size (num 8 4) (num 0 8) (bits (b.venc n).reg.toNat 36 9) (bits (b.venc n).reg.toNat 27 9)) b [] =
          .ok (b, px) →
        ∃ key : Bool, (num 0x0D 1 % 2 = 1 → key = true) ∧ exec (.videoFrame n) s = .next (frameWrite b n ring { frame with
          begun := true, key := key, size := natOfBytes (hd.take 8), start := natOfBytes ((hd.drop 8).take 8),
          next := natOfBytes ((hd.drop 8).take 8), frames := natOfBytes ((hd.drop 0x18).take 4),
          rd := natOfBytes ((hd.drop 0x10).take 8), left := Config.videoEncode (b.venc n).reg.toNat key (num 0x18 4) px }))) ∧
  (∀ (bs : List Byte) (s : State) (c : Nat),
    let num (o len : Nat) : Nat := natOfBytes ((bs.drop o).take len)
    let reg := (s.venc (num 0x0C 1)).reg
    (frameErr s c bs = some 1 ↔ 32 ≤ num 0x0C 1 ∨ reg.getLsbD 63 = false) ∧
    (frameErr s c bs = none → reg.toNat / 2 ^ 58 % 32 = c ∧ num 0x0D 1 < 2 ∧ num 0x0E 2 = 0 ∧ num 0x1C 4 = 0 ∧ num 0x10 8 % 4096 = 0)) ∧
  (∀ (s b : State) (n ring : Nat) (f : VFrame),
    let room := f.size - (f.next + 2 ^ 64 - f.rd) % 2 ^ 64
    streamWrite s f.cons.ctx ring f.size f.next (f.left.take room) = .ok b →
    (room < f.left.length → ∃ r, frameWrite s n ring f = r ∧ r.msix = b.msix ++ [38] ∧ r.mem = b.mem ∧
      r.venc n = { b.venc n with
        cur := some { f with next := (f.next + room) % 2 ^ 64, left := f.left.drop room }, stalled := true }) ∧
    (f.left.length ≤ room → ∀ b1 b2 e,
      let next := (f.next + f.left.length) % 2 ^ 64
      let count := (f.frames + 1) % 2 ^ 32
      loadWrite b f.cons.ctx (ring + 0x18) (bytesOf 4 count) = .ok b1 → loadWrite b1 f.cons.ctx (ring + 8) (bytesOf 8 next) = .ok b2 →
      SMap.sortedFrom 0 b2.vencs = true → portEdge b2 f.cons.ctx f.cons.img f.cons.node 0 = some e →
      ∃ t, (frameWrite s n ring f).transit = b2.transit ++ [t] ∧ t.ctx = f.cons.ctx ∧ t.node = e.dst ∧ t.rcd.tag = f.cons.tag ∧
        t.rcd.words = recWords (recSize b2 f.cons.ctx f.cons.img e.dst)
          (bytesOf 8 ring ++ bytesOf 8 f.start ++ bytesOf 4 ((next + 2 ^ 64 - f.start) % 2 ^ 64) ++ bytesOf 1 n ++
            bytesOf 1 (if f.key then 1 else 0) ++ bytesOf 2 0 ++ bytesOf 4 count ++ bytesOf 4 0) ∧
        (frameWrite s n ring f).mem = b2.mem ∧ (frameWrite s n ring f).venc n = { b2.venc n with cur := none, stalled := false })) ∧
  (∀ s : State, (∀ m, m < 32 → (s.venc m).cur = none ∨ (s.venc m).stalled = false) → exec .videoRdPoll s = .next s) ∧
  (∀ (s : State) (n : Nat) (f : VFrame) (bs : List Byte), n < 32 → (s.venc n).cur = some f → (s.venc n).stalled = true →
    ctxRuns s f.cons.ctx = true → (∀ m, m < 32 → m ≠ n → (s.venc m).stalled = false) → SMap.sortedFrom 0 s.vencs = true →
    loadRead s f.cons.ctx (frameRing f + 0x10) 8 = .ok (s, bs) →
    let g : VFrame := { f with rd := natOfBytes bs }
    (g.size ≤ (g.next + 2 ^ 64 - g.rd) % 2 ^ 64 → ∃ r, exec .videoRdPoll s = .next r ∧ r.venc n = { s.venc n with cur := some g } ∧
      r = { s with vencs := r.vencs }) ∧
    ((g.next + 2 ^ 64 - g.rd) % 2 ^ 64 < g.size →
      exec .videoRdPoll s = .next (frameWrite (setVenc s n { s.venc n with cur := some g, stalled := false }) n (frameRing f) g)))
end

