-- ==== Sys2Proof/Laws/SMap.lean ====
section
/-!
SUPPORT. The sparse map: reading after inserting, setting, erasing and changing, and the canonical form that every one of
them keeps.
-/

namespace Sys2Proof

set_option Elab.async false

variable {α : Type}

@[simp] theorem SMap.find?_nil (k : Nat) : SMap.find? ([] : SMap α) k = none := rfl

@[simp] theorem SMap.find?_insert (m : SMap α) (k : Nat) (v : α) : SMap.find? (SMap.insert k v m) k = some v := by
  induction m with
  | nil => simp [SMap.insert, SMap.find?]
  | cons e m ih =>
    obtain ⟨j, u⟩ := e
    by_cases h1 : k < j
    · simp [SMap.insert, SMap.find?, h1]
    · by_cases h2 : k = j
      · subst h2; simp [SMap.insert, SMap.find?]
      · simp [SMap.insert, SMap.find?, h1, h2, Ne.symm h2, ih]

theorem SMap.find?_insert_ne (m : SMap α) {k j : Nat} (v : α) (h : j ≠ k) :
    SMap.find? (SMap.insert k v m) j = SMap.find? m j := by
  induction m with
  | nil => simp [SMap.insert, SMap.find?, Ne.symm h]
  | cons e m ih =>
    obtain ⟨i, u⟩ := e
    by_cases h1 : k < i
    · simp [SMap.insert, SMap.find?, h1, Ne.symm h]
    · by_cases h2 : k = i
      · subst h2; simp [SMap.insert, SMap.find?, Ne.symm h]
      · simp [SMap.insert, SMap.find?, h1, h2, ih]

theorem SMap.sortedFrom_mono {m : SMap α} {a b : Nat} (h : a ≤ b) (hs : SMap.sortedFrom b m = true) :
    SMap.sortedFrom a m = true := by
  cases m with
  | nil => rfl
  | cons e m => obtain ⟨j, u⟩ := e; simp [SMap.sortedFrom] at hs ⊢; exact ⟨by omega, hs.2⟩

theorem SMap.find?_of_sortedFrom {m : SMap α} {lo k : Nat} (hs : SMap.sortedFrom lo m = true) (hk : k < lo) :
    SMap.find? m k = none := by
  induction m generalizing lo with
  | nil => rfl
  | cons e m ih =>
    obtain ⟨j, u⟩ := e
    simp [SMap.sortedFrom] at hs
    simp [SMap.find?, show j ≠ k by omega, ih hs.2 (show k < j + 1 by omega)]

theorem SMap.find?_erase {m : SMap α} {lo : Nat} (hs : SMap.sortedFrom lo m = true) (k : Nat) :
    SMap.find? (SMap.erase k m) k = none := by
  induction m generalizing lo with
  | nil => rfl
  | cons e m ih =>
    obtain ⟨j, u⟩ := e
    simp [SMap.sortedFrom] at hs
    by_cases h : k = j
    · subst h; simp [SMap.erase]; exact SMap.find?_of_sortedFrom hs.2 (by omega)
    · simp [SMap.erase, h, SMap.find?, Ne.symm h, ih hs.2]

theorem SMap.find?_erase_ne (m : SMap α) {k j : Nat} (h : j ≠ k) : SMap.find? (SMap.erase k m) j = SMap.find? m j := by
  induction m with
  | nil => rfl
  | cons e m ih =>
    obtain ⟨i, u⟩ := e
    by_cases h1 : k = i
    · subst h1; simp [SMap.erase, SMap.find?, Ne.symm h]
    · simp [SMap.erase, h1, SMap.find?, ih]

/-- Reading back what was set, in a canonical map. -/
theorem SMap.get_set [DecidableEq α] {d : α} {m : SMap α} (hw : SMap.wf d m = true) (k : Nat) (v : α) :
    SMap.get d (SMap.set d k v m) k = v := by
  simp [SMap.wf] at hw
  by_cases h : v = d
  · subst h; simp [SMap.set, SMap.get, SMap.find?_erase hw.1]
  · simp [SMap.set, h, SMap.get]

theorem SMap.get_set_ne [DecidableEq α] (d : α) (m : SMap α) {k j : Nat} (v : α) (h : j ≠ k) :
    SMap.get d (SMap.set d k v m) j = SMap.get d m j := by
  unfold SMap.set; split
  · simp [SMap.get, SMap.find?_erase_ne m h]
  · simp [SMap.get, SMap.find?_insert_ne m v h]

theorem SMap.sortedFrom_insert {m : SMap α} {lo k : Nat} (v : α) (hs : SMap.sortedFrom lo m = true) (hk : lo ≤ k) :
    SMap.sortedFrom lo (SMap.insert k v m) = true := by
  induction m generalizing lo with
  | nil => simp [SMap.insert, SMap.sortedFrom, hk]
  | cons e m ih =>
    obtain ⟨j, u⟩ := e
    simp [SMap.sortedFrom] at hs
    by_cases h1 : k < j
    · simp [SMap.insert, h1, SMap.sortedFrom, hk, hs.2]
    · by_cases h2 : k = j
      · subst h2; simp [SMap.insert, SMap.sortedFrom, hk, hs.2]
      · simp [SMap.insert, h1, h2, SMap.sortedFrom, hs.1, ih hs.2 (by omega)]

theorem SMap.sortedFrom_erase {m : SMap α} {lo : Nat} (k : Nat) (hs : SMap.sortedFrom lo m = true) :
    SMap.sortedFrom lo (SMap.erase k m) = true := by
  induction m generalizing lo with
  | nil => rfl
  | cons e m ih =>
    obtain ⟨j, u⟩ := e
    simp [SMap.sortedFrom] at hs
    by_cases h : k = j
    · simp [SMap.erase, h]; exact SMap.sortedFrom_mono (by omega) hs.2
    · simp [SMap.erase, h, SMap.sortedFrom, hs.1, ih hs.2]

theorem SMap.mem_insert {m : SMap α} {k : Nat} {v : α} {e : Nat × α} (h : e ∈ SMap.insert k v m) : e = (k, v) ∨ e ∈ m := by
  induction m with
  | nil => simpa [SMap.insert] using h
  | cons f m ih =>
    obtain ⟨j, u⟩ := f
    unfold SMap.insert at h
    split at h
    · simpa using h
    · split at h
      · simp at h; tauto
      · simp at h
        rcases h with h | h
        · exact .inr (by simp [h])
        · exact (ih h).imp id (by simp; tauto)

theorem SMap.mem_erase {m : SMap α} {k : Nat} {e : Nat × α} (h : e ∈ SMap.erase k m) : e ∈ m := by
  induction m with
  | nil => simp [SMap.erase] at h
  | cons f m ih =>
    obtain ⟨j, u⟩ := f
    unfold SMap.erase at h
    split at h
    · simp [h]
    · simp at h ⊢; exact h.imp id ih

@[simp] theorem SMap.wf_nil [DecidableEq α] (d : α) : SMap.wf d ([] : SMap α) = true := rfl

/-- Setting a key keeps the canonical form. -/
theorem SMap.wf_set [DecidableEq α] {d : α} {m : SMap α} (hw : SMap.wf d m = true) (k : Nat) (v : α) :
    SMap.wf d (SMap.set d k v m) = true := by
  simp only [SMap.wf, Bool.and_eq_true, List.all_eq_true, decide_eq_true_eq] at hw ⊢
  unfold SMap.set; split
  · exact ⟨SMap.sortedFrom_erase k hw.1, fun e he => hw.2 e (SMap.mem_erase he)⟩
  · next h => exact ⟨SMap.sortedFrom_insert v hw.1 (Nat.zero_le k), fun e he => by
      rcases SMap.mem_insert he with rfl | he
      · exact h
      · exact hw.2 e he⟩

/-- Reading back what was set, where each key is listed once. -/
theorem SMap.get_set_sorted [DecidableEq α] {d : α} {m : SMap α} (hs : SMap.sortedFrom 0 m = true) (k : Nat) (v : α) :
    SMap.get d (SMap.set d k v m) k = v := by
  by_cases h : v = d
  · subst h; simp [SMap.set, SMap.get, SMap.find?_erase hs]
  · simp [SMap.set, h, SMap.get]

/-- Setting a key keeps the order. -/
theorem SMap.sortedFrom_set [DecidableEq α] {d : α} {m : SMap α} (hs : SMap.sortedFrom 0 m = true) (k : Nat) (v : α) :
    SMap.sortedFrom 0 (SMap.set d k v m) = true := by
  unfold SMap.set; split
  · exact SMap.sortedFrom_erase k hs
  · exact SMap.sortedFrom_insert v hs (Nat.zero_le k)

/-- Changing what a key holds keeps the order. -/
theorem SMap.sortedFrom_modify {m : SMap α} {lo : Nat} (k : Nat) (f : α → α) (hs : SMap.sortedFrom lo m = true) :
    SMap.sortedFrom lo (SMap.modify k f m) = true := by
  induction m generalizing lo with
  | nil => rfl
  | cons e m ih =>
    obtain ⟨j, u⟩ := e
    simp [SMap.sortedFrom] at hs
    by_cases h : j = k
    · subst h; simp [SMap.modify, SMap.sortedFrom, hs]
    · simp [SMap.modify, h, SMap.sortedFrom, hs.1, ih hs.2]

theorem SMap.sortedFrom_map {β : Type} {m : SMap α} {lo : Nat} (f : Nat × α → β) (hs : SMap.sortedFrom lo m = true) :
    SMap.sortedFrom lo (m.map (fun e => (e.1, f e)) : SMap β) = true := by
  induction m generalizing lo with
  | nil => rfl
  | cons e m ih =>
    obtain ⟨j, u⟩ := e
    simp [SMap.sortedFrom] at hs ⊢
    exact ⟨hs.1, ih hs.2⟩

theorem SMap.sortedFrom_filter {m : SMap α} {lo : Nat} (p : Nat × α → Bool) (hs : SMap.sortedFrom lo m = true) :
    SMap.sortedFrom lo (m.filter p : SMap α) = true := by
  induction m generalizing lo with
  | nil => rfl
  | cons e m ih =>
    obtain ⟨j, u⟩ := e
    simp [SMap.sortedFrom] at hs
    by_cases h : p (j, u) = true
    · simp [List.filter, h, SMap.sortedFrom, hs.1, ih hs.2]
    · simp [List.filter, h]; exact SMap.sortedFrom_mono (by omega) (ih hs.2)

/-- Two parts in order stand in order, one after the other. -/
theorem SMap.sortedFrom_append {m n : SMap α} {lo b : Nat} (hm : SMap.sortedFrom lo m = true) (hl : ∀ e ∈ m, e.1 < b)
    (hn : SMap.sortedFrom b n = true) (hb : lo ≤ b) : SMap.sortedFrom lo (m ++ n) = true := by
  induction m generalizing lo with
  | nil => exact SMap.sortedFrom_mono hb hn
  | cons e m ih =>
    simp only [SMap.sortedFrom, Bool.and_eq_true, decide_eq_true_eq, List.cons_append] at hm ⊢
    exact ⟨hm.1, ih hm.2 (fun f hf => hl f (by simp [hf])) (hl e (by simp))⟩

/-- What stands at or above a key. -/
theorem SMap.sortedFrom_filter_from {m : SMap α} {lo : Nat} (hs : SMap.sortedFrom lo m = true) (b : Nat) :
    SMap.sortedFrom b (m.filter (fun e => decide (b ≤ e.1))) = true := by
  induction m generalizing lo with
  | nil => rfl
  | cons e m ih =>
    simp only [SMap.sortedFrom, Bool.and_eq_true, decide_eq_true_eq] at hs
    rw [List.filter_cons]
    split
    · rename_i h
      simp only [decide_eq_true_eq] at h
      simp only [SMap.sortedFrom, Bool.and_eq_true, decide_eq_true_eq]
      exact ⟨h, SMap.sortedFrom_filter _ hs.2⟩
    · exact ih hs.2

theorem SMap.find?_modify (m : SMap α) (k : Nat) (f : α → α) : SMap.find? (SMap.modify k f m) k = (SMap.find? m k).map f := by
  induction m with
  | nil => rfl
  | cons e m ih =>
    obtain ⟨j, u⟩ := e
    by_cases h : j = k
    · simp [SMap.modify, SMap.find?, h]
    · simp [SMap.modify, SMap.find?, h, ih]

theorem SMap.find?_modify_ne (m : SMap α) {k j : Nat} (f : α → α) (h : j ≠ k) :
    SMap.find? (SMap.modify k f m) j = SMap.find? m j := by
  induction m with
  | nil => rfl
  | cons e m ih =>
    obtain ⟨i, u⟩ := e
    by_cases h1 : i = k
    · simp [SMap.modify, SMap.find?, h1, Ne.symm h]
    · simp [SMap.modify, SMap.find?, h1, ih]

/-- A listed entry is found in a sorted map. -/
theorem SMap.find?_of_mem {m : SMap α} {lo k : Nat} {v : α} (hs : SMap.sortedFrom lo m = true) (h : (k, v) ∈ m) :
    SMap.find? m k = some v := by
  induction m generalizing lo with
  | nil => simp at h
  | cons e m ih =>
    obtain ⟨j, u⟩ := e
    simp [SMap.sortedFrom] at hs
    simp at h
    rcases h with ⟨rfl, rfl⟩ | h
    · simp [SMap.find?]
    · have hf := ih hs.2 h
      have : j ≠ k := by
        intro hj
        have := SMap.find?_of_sortedFrom hs.2 (show k < j + 1 by omega)
        simp [this] at hf
      simp [SMap.find?, this, hf]

theorem SMap.mem_of_find? {m : SMap α} {k : Nat} {v : α} (h : SMap.find? m k = some v) : (k, v) ∈ m := by
  induction m with
  | nil => simp at h
  | cons e m ih =>
    obtain ⟨j, u⟩ := e
    by_cases hj : j = k
    · simp [SMap.find?, hj] at h; simp [hj, h]
    · simp [SMap.find?, hj] at h; simp [ih h]

end Sys2Proof
end

