-- ==== Sys2Proof/Laws/State.lean ====
section
/-!
SUPPORT. What the updates of a state leave as it was: one lemma for each field and each update, by rfl.
-/

namespace Sys2Proof.Machine

@[simp] theorem State.setCtx_sched (s : State) (c : Nat) (x : Ctx) : (s.setCtx c x).sched = s.sched := rfl
@[simp] theorem State.setCtx_cur (s : State) (c : Nat) (x : Ctx) : (s.setCtx c x).cur = s.cur := rfl
@[simp] theorem State.setCtx_issue (s : State) (c : Nat) (x : Ctx) : (s.setCtx c x).issue = s.issue := rfl
@[simp] theorem State.setCtx_free (s : State) (c : Nat) (x : Ctx) : (s.setCtx c x).free = s.free := rfl
@[simp] theorem State.setCtx_nextId (s : State) (c : Nat) (x : Ctx) : (s.setCtx c x).nextId = s.nextId := rfl
@[simp] theorem State.setCtx_hclk (s : State) (c : Nat) (x : Ctx) : (s.setCtx c x).hclk = s.hclk := rfl
@[simp] theorem State.setCtx_aclk (s : State) (c : Nat) (x : Ctx) : (s.setCtx c x).aclk = s.aclk := rfl
@[simp] theorem State.setCtx_mclk (s : State) (c : Nat) (x : Ctx) : (s.setCtx c x).mclk = s.mclk := rfl
@[simp] theorem State.setCtx_point (s : State) (c : Nat) (x : Ctx) : (s.setCtx c x).point = s.point := rfl
@[simp] theorem State.setCtx_moving (s : State) (c : Nat) (x : Ctx) : (s.setCtx c x).moving = s.moving := rfl
@[simp] theorem State.setCtx_stopAt (s : State) (c : Nat) (x : Ctx) : (s.setCtx c x).stopAt = s.stopAt := rfl
@[simp] theorem State.setCtx_missed (s : State) (c : Nat) (x : Ctx) : (s.setCtx c x).missed = s.missed := rfl
@[simp] theorem State.setCtx_ratio (s : State) (c : Nat) (x : Ctx) : (s.setCtx c x).ratio = s.ratio := rfl
@[simp] theorem State.setCtx_power (s : State) (c : Nat) (x : Ctx) : (s.setCtx c x).power = s.power := rfl
@[simp] theorem State.setCtx_paced (s : State) (c : Nat) (x : Ctx) : (s.setCtx c x).paced = s.paced := rfl
@[simp] theorem State.setCtx_lock (s : State) (c : Nat) (x : Ctx) : (s.setCtx c x).lock = s.lock := rfl
@[simp] theorem State.setCtx_dies (s : State) (c : Nat) (x : Ctx) : (s.setCtx c x).dies = s.dies := rfl
@[simp] theorem State.setCtx_links (s : State) (c : Nat) (x : Ctx) : (s.setCtx c x).links = s.links := rfl
@[simp] theorem State.setCtx_fuses (s : State) (c : Nat) (x : Ctx) : (s.setCtx c x).fuses = s.fuses := rfl
@[simp] theorem State.setCtx_hub (s : State) (c : Nat) (x : Ctx) : (s.setCtx c x).hub = s.hub := rfl
@[simp] theorem State.setCtx_heads (s : State) (c : Nat) (x : Ctx) : (s.setCtx c x).heads = s.heads := rfl
@[simp] theorem State.setCtx_vencs (s : State) (c : Nat) (x : Ctx) : (s.setCtx c x).vencs = s.vencs := rfl
@[simp] theorem State.setCtx_msix (s : State) (c : Nat) (x : Ctx) : (s.setCtx c x).msix = s.msix := rfl
@[simp] theorem State.setCtx_msgs (s : State) (c : Nat) (x : Ctx) : (s.setCtx c x).msgs = s.msgs := rfl
@[simp] theorem State.setCtx_answers (s : State) (c : Nat) (x : Ctx) : (s.setCtx c x).answers = s.answers := rfl
@[simp] theorem State.setCtx_queues (s : State) (c : Nat) (x : Ctx) : (s.setCtx c x).queues = s.queues := rfl
@[simp] theorem State.setCtx_transit (s : State) (c : Nat) (x : Ctx) : (s.setCtx c x).transit = s.transit := rfl
@[simp] theorem State.setCtx_mdisp (s : State) (c : Nat) (x : Ctx) : (s.setCtx c x).mdisp = s.mdisp := rfl
@[simp] theorem State.setCtx_claims (s : State) (c : Nat) (x : Ctx) : (s.setCtx c x).claims = s.claims := rfl
@[simp] theorem State.setCtx_steals (s : State) (c : Nat) (x : Ctx) : (s.setCtx c x).steals = s.steals := rfl
@[simp] theorem State.setCtx_teams (s : State) (c : Nat) (x : Ctx) : (s.setCtx c x).teams = s.teams := rfl
@[simp] theorem State.setCtx_waves (s : State) (c : Nat) (x : Ctx) : (s.setCtx c x).waves = s.waves := rfl
@[simp] theorem State.setCtx_carve (s : State) (c : Nat) (x : Ctx) : (s.setCtx c x).carve = s.carve := rfl
@[simp] theorem State.setCtx_mem (s : State) (c : Nat) (x : Ctx) : (s.setCtx c x).mem = s.mem := rfl
@[simp] theorem State.setCtx_l2old (s : State) (c : Nat) (x : Ctx) : (s.setCtx c x).l2old = s.l2old := rfl
@[simp] theorem State.setCtx_l2clean (s : State) (c : Nat) (x : Ctx) : (s.setCtx c x).l2clean = s.l2clean := rfl
@[simp] theorem State.setCtx_sys (s : State) (c : Nat) (x : Ctx) : (s.setCtx c x).sys = s.sys := rfl
@[simp] theorem State.setCtx_l1 (s : State) (c : Nat) (x : Ctx) : (s.setCtx c x).l1 = s.l1 := rfl
@[simp] theorem State.setCtx_tlb1 (s : State) (c : Nat) (x : Ctx) : (s.setCtx c x).tlb1 = s.tlb1 := rfl
@[simp] theorem State.setCtx_tlb2 (s : State) (c : Nat) (x : Ctx) : (s.setCtx c x).tlb2 = s.tlb2 := rfl
@[simp] theorem State.setCtx_walks (s : State) (c : Nat) (x : Ctx) : (s.setCtx c x).walks = s.walks := rfl
@[simp] theorem State.setCtx_wfault (s : State) (c : Nat) (x : Ctx) : (s.setCtx c x).wfault = s.wfault := rfl
@[simp] theorem State.setCtx_mons (s : State) (c : Nat) (x : Ctx) : (s.setCtx c x).mons = s.mons := rfl
@[simp] theorem State.setCtx_poison (s : State) (c : Nat) (x : Ctx) : (s.setCtx c x).poison = s.poison := rfl
@[simp] theorem State.setCtx_longs (s : State) (c : Nat) (x : Ctx) : (s.setCtx c x).longs = s.longs := rfl
@[simp] theorem State.setCtx_vqs (s : State) (c : Nat) (x : Ctx) : (s.setCtx c x).vqs = s.vqs := rfl
@[simp] theorem State.setCtx_engines (s : State) (c : Nat) (x : Ctx) : (s.setCtx c x).engines = s.engines := rfl
@[simp] theorem State.setCtx_seqs (s : State) (c : Nat) (x : Ctx) : (s.setCtx c x).seqs = s.seqs := rfl
@[simp] theorem State.setCtx_savedSeqs (s : State) (c : Nat) (x : Ctx) : (s.setCtx c x).savedSeqs = s.savedSeqs := rfl
@[simp] theorem State.setCtx_rngs (s : State) (c : Nat) (x : Ctx) : (s.setCtx c x).rngs = s.rngs := rfl
@[simp] theorem State.setCtx_kerns (s : State) (c : Nat) (x : Ctx) : (s.setCtx c x).kerns = s.kerns := rfl
@[simp] theorem State.setCtx_savedKerns (s : State) (c : Nat) (x : Ctx) : (s.setCtx c x).savedKerns = s.savedKerns := rfl
@[simp] theorem State.setCtx_counts (s : State) (c : Nat) (x : Ctx) : (s.setCtx c x).counts = s.counts := rfl

@[simp] theorem State.setDie_sched (s : State) (d : Nat) (x : Die) : (s.setDie d x).sched = s.sched := rfl
@[simp] theorem State.setDie_cur (s : State) (d : Nat) (x : Die) : (s.setDie d x).cur = s.cur := rfl
@[simp] theorem State.setDie_issue (s : State) (d : Nat) (x : Die) : (s.setDie d x).issue = s.issue := rfl
@[simp] theorem State.setDie_free (s : State) (d : Nat) (x : Die) : (s.setDie d x).free = s.free := rfl
@[simp] theorem State.setDie_nextId (s : State) (d : Nat) (x : Die) : (s.setDie d x).nextId = s.nextId := rfl
@[simp] theorem State.setDie_hclk (s : State) (d : Nat) (x : Die) : (s.setDie d x).hclk = s.hclk := rfl
@[simp] theorem State.setDie_aclk (s : State) (d : Nat) (x : Die) : (s.setDie d x).aclk = s.aclk := rfl
@[simp] theorem State.setDie_mclk (s : State) (d : Nat) (x : Die) : (s.setDie d x).mclk = s.mclk := rfl
@[simp] theorem State.setDie_point (s : State) (d : Nat) (x : Die) : (s.setDie d x).point = s.point := rfl
@[simp] theorem State.setDie_moving (s : State) (d : Nat) (x : Die) : (s.setDie d x).moving = s.moving := rfl
@[simp] theorem State.setDie_stopAt (s : State) (d : Nat) (x : Die) : (s.setDie d x).stopAt = s.stopAt := rfl
@[simp] theorem State.setDie_missed (s : State) (d : Nat) (x : Die) : (s.setDie d x).missed = s.missed := rfl
@[simp] theorem State.setDie_ratio (s : State) (d : Nat) (x : Die) : (s.setDie d x).ratio = s.ratio := rfl
@[simp] theorem State.setDie_power (s : State) (d : Nat) (x : Die) : (s.setDie d x).power = s.power := rfl
@[simp] theorem State.setDie_paced (s : State) (d : Nat) (x : Die) : (s.setDie d x).paced = s.paced := rfl
@[simp] theorem State.setDie_lock (s : State) (d : Nat) (x : Die) : (s.setDie d x).lock = s.lock := rfl
@[simp] theorem State.setDie_links (s : State) (d : Nat) (x : Die) : (s.setDie d x).links = s.links := rfl
@[simp] theorem State.setDie_fuses (s : State) (d : Nat) (x : Die) : (s.setDie d x).fuses = s.fuses := rfl
@[simp] theorem State.setDie_hub (s : State) (d : Nat) (x : Die) : (s.setDie d x).hub = s.hub := rfl
@[simp] theorem State.setDie_heads (s : State) (d : Nat) (x : Die) : (s.setDie d x).heads = s.heads := rfl
@[simp] theorem State.setDie_vencs (s : State) (d : Nat) (x : Die) : (s.setDie d x).vencs = s.vencs := rfl
@[simp] theorem State.setDie_msix (s : State) (d : Nat) (x : Die) : (s.setDie d x).msix = s.msix := rfl
@[simp] theorem State.setDie_msgs (s : State) (d : Nat) (x : Die) : (s.setDie d x).msgs = s.msgs := rfl
@[simp] theorem State.setDie_answers (s : State) (d : Nat) (x : Die) : (s.setDie d x).answers = s.answers := rfl
@[simp] theorem State.setDie_ctxs (s : State) (d : Nat) (x : Die) : (s.setDie d x).ctxs = s.ctxs := rfl
@[simp] theorem State.setDie_queues (s : State) (d : Nat) (x : Die) : (s.setDie d x).queues = s.queues := rfl
@[simp] theorem State.setDie_transit (s : State) (d : Nat) (x : Die) : (s.setDie d x).transit = s.transit := rfl
@[simp] theorem State.setDie_mdisp (s : State) (d : Nat) (x : Die) : (s.setDie d x).mdisp = s.mdisp := rfl
@[simp] theorem State.setDie_claims (s : State) (d : Nat) (x : Die) : (s.setDie d x).claims = s.claims := rfl
@[simp] theorem State.setDie_steals (s : State) (d : Nat) (x : Die) : (s.setDie d x).steals = s.steals := rfl
@[simp] theorem State.setDie_teams (s : State) (d : Nat) (x : Die) : (s.setDie d x).teams = s.teams := rfl
@[simp] theorem State.setDie_waves (s : State) (d : Nat) (x : Die) : (s.setDie d x).waves = s.waves := rfl
@[simp] theorem State.setDie_carve (s : State) (d : Nat) (x : Die) : (s.setDie d x).carve = s.carve := rfl
@[simp] theorem State.setDie_mem (s : State) (d : Nat) (x : Die) : (s.setDie d x).mem = s.mem := rfl
@[simp] theorem State.setDie_l2old (s : State) (d : Nat) (x : Die) : (s.setDie d x).l2old = s.l2old := rfl
@[simp] theorem State.setDie_l2clean (s : State) (d : Nat) (x : Die) : (s.setDie d x).l2clean = s.l2clean := rfl
@[simp] theorem State.setDie_sys (s : State) (d : Nat) (x : Die) : (s.setDie d x).sys = s.sys := rfl
@[simp] theorem State.setDie_l1 (s : State) (d : Nat) (x : Die) : (s.setDie d x).l1 = s.l1 := rfl
@[simp] theorem State.setDie_tlb1 (s : State) (d : Nat) (x : Die) : (s.setDie d x).tlb1 = s.tlb1 := rfl
@[simp] theorem State.setDie_tlb2 (s : State) (d : Nat) (x : Die) : (s.setDie d x).tlb2 = s.tlb2 := rfl
@[simp] theorem State.setDie_walks (s : State) (d : Nat) (x : Die) : (s.setDie d x).walks = s.walks := rfl
@[simp] theorem State.setDie_wfault (s : State) (d : Nat) (x : Die) : (s.setDie d x).wfault = s.wfault := rfl
@[simp] theorem State.setDie_mons (s : State) (d : Nat) (x : Die) : (s.setDie d x).mons = s.mons := rfl
@[simp] theorem State.setDie_poison (s : State) (d : Nat) (x : Die) : (s.setDie d x).poison = s.poison := rfl
@[simp] theorem State.setDie_longs (s : State) (d : Nat) (x : Die) : (s.setDie d x).longs = s.longs := rfl
@[simp] theorem State.setDie_vqs (s : State) (d : Nat) (x : Die) : (s.setDie d x).vqs = s.vqs := rfl
@[simp] theorem State.setDie_engines (s : State) (d : Nat) (x : Die) : (s.setDie d x).engines = s.engines := rfl
@[simp] theorem State.setDie_seqs (s : State) (d : Nat) (x : Die) : (s.setDie d x).seqs = s.seqs := rfl
@[simp] theorem State.setDie_savedSeqs (s : State) (d : Nat) (x : Die) : (s.setDie d x).savedSeqs = s.savedSeqs := rfl
@[simp] theorem State.setDie_rngs (s : State) (d : Nat) (x : Die) : (s.setDie d x).rngs = s.rngs := rfl
@[simp] theorem State.setDie_kerns (s : State) (d : Nat) (x : Die) : (s.setDie d x).kerns = s.kerns := rfl
@[simp] theorem State.setDie_savedKerns (s : State) (d : Nat) (x : Die) : (s.setDie d x).savedKerns = s.savedKerns := rfl
@[simp] theorem State.setDie_counts (s : State) (d : Nat) (x : Die) : (s.setDie d x).counts = s.counts := rfl

@[simp] theorem State.setWave_sched (s : State) (v : Nat) (x : Wave) : (s.setWave v x).sched = s.sched := rfl
@[simp] theorem State.setWave_cur (s : State) (v : Nat) (x : Wave) : (s.setWave v x).cur = s.cur := rfl
@[simp] theorem State.setWave_issue (s : State) (v : Nat) (x : Wave) : (s.setWave v x).issue = s.issue := rfl
@[simp] theorem State.setWave_free (s : State) (v : Nat) (x : Wave) : (s.setWave v x).free = s.free := rfl
@[simp] theorem State.setWave_nextId (s : State) (v : Nat) (x : Wave) : (s.setWave v x).nextId = s.nextId := rfl
@[simp] theorem State.setWave_hclk (s : State) (v : Nat) (x : Wave) : (s.setWave v x).hclk = s.hclk := rfl
@[simp] theorem State.setWave_aclk (s : State) (v : Nat) (x : Wave) : (s.setWave v x).aclk = s.aclk := rfl
@[simp] theorem State.setWave_mclk (s : State) (v : Nat) (x : Wave) : (s.setWave v x).mclk = s.mclk := rfl
@[simp] theorem State.setWave_point (s : State) (v : Nat) (x : Wave) : (s.setWave v x).point = s.point := rfl
@[simp] theorem State.setWave_moving (s : State) (v : Nat) (x : Wave) : (s.setWave v x).moving = s.moving := rfl
@[simp] theorem State.setWave_stopAt (s : State) (v : Nat) (x : Wave) : (s.setWave v x).stopAt = s.stopAt := rfl
@[simp] theorem State.setWave_missed (s : State) (v : Nat) (x : Wave) : (s.setWave v x).missed = s.missed := rfl
@[simp] theorem State.setWave_ratio (s : State) (v : Nat) (x : Wave) : (s.setWave v x).ratio = s.ratio := rfl
@[simp] theorem State.setWave_power (s : State) (v : Nat) (x : Wave) : (s.setWave v x).power = s.power := rfl
@[simp] theorem State.setWave_paced (s : State) (v : Nat) (x : Wave) : (s.setWave v x).paced = s.paced := rfl
@[simp] theorem State.setWave_lock (s : State) (v : Nat) (x : Wave) : (s.setWave v x).lock = s.lock := rfl
@[simp] theorem State.setWave_dies (s : State) (v : Nat) (x : Wave) : (s.setWave v x).dies = s.dies := rfl
@[simp] theorem State.setWave_links (s : State) (v : Nat) (x : Wave) : (s.setWave v x).links = s.links := rfl
@[simp] theorem State.setWave_fuses (s : State) (v : Nat) (x : Wave) : (s.setWave v x).fuses = s.fuses := rfl
@[simp] theorem State.setWave_hub (s : State) (v : Nat) (x : Wave) : (s.setWave v x).hub = s.hub := rfl
@[simp] theorem State.setWave_heads (s : State) (v : Nat) (x : Wave) : (s.setWave v x).heads = s.heads := rfl
@[simp] theorem State.setWave_vencs (s : State) (v : Nat) (x : Wave) : (s.setWave v x).vencs = s.vencs := rfl
@[simp] theorem State.setWave_msix (s : State) (v : Nat) (x : Wave) : (s.setWave v x).msix = s.msix := rfl
@[simp] theorem State.setWave_msgs (s : State) (v : Nat) (x : Wave) : (s.setWave v x).msgs = s.msgs := rfl
@[simp] theorem State.setWave_answers (s : State) (v : Nat) (x : Wave) : (s.setWave v x).answers = s.answers := rfl
@[simp] theorem State.setWave_ctxs (s : State) (v : Nat) (x : Wave) : (s.setWave v x).ctxs = s.ctxs := rfl
@[simp] theorem State.setWave_queues (s : State) (v : Nat) (x : Wave) : (s.setWave v x).queues = s.queues := rfl
@[simp] theorem State.setWave_transit (s : State) (v : Nat) (x : Wave) : (s.setWave v x).transit = s.transit := rfl
@[simp] theorem State.setWave_mdisp (s : State) (v : Nat) (x : Wave) : (s.setWave v x).mdisp = s.mdisp := rfl
@[simp] theorem State.setWave_claims (s : State) (v : Nat) (x : Wave) : (s.setWave v x).claims = s.claims := rfl
@[simp] theorem State.setWave_steals (s : State) (v : Nat) (x : Wave) : (s.setWave v x).steals = s.steals := rfl
@[simp] theorem State.setWave_teams (s : State) (v : Nat) (x : Wave) : (s.setWave v x).teams = s.teams := rfl
@[simp] theorem State.setWave_carve (s : State) (v : Nat) (x : Wave) : (s.setWave v x).carve = s.carve := rfl
@[simp] theorem State.setWave_mem (s : State) (v : Nat) (x : Wave) : (s.setWave v x).mem = s.mem := rfl
@[simp] theorem State.setWave_l2old (s : State) (v : Nat) (x : Wave) : (s.setWave v x).l2old = s.l2old := rfl
@[simp] theorem State.setWave_l2clean (s : State) (v : Nat) (x : Wave) : (s.setWave v x).l2clean = s.l2clean := rfl
@[simp] theorem State.setWave_sys (s : State) (v : Nat) (x : Wave) : (s.setWave v x).sys = s.sys := rfl
@[simp] theorem State.setWave_l1 (s : State) (v : Nat) (x : Wave) : (s.setWave v x).l1 = s.l1 := rfl
@[simp] theorem State.setWave_tlb1 (s : State) (v : Nat) (x : Wave) : (s.setWave v x).tlb1 = s.tlb1 := rfl
@[simp] theorem State.setWave_tlb2 (s : State) (v : Nat) (x : Wave) : (s.setWave v x).tlb2 = s.tlb2 := rfl
@[simp] theorem State.setWave_walks (s : State) (v : Nat) (x : Wave) : (s.setWave v x).walks = s.walks := rfl
@[simp] theorem State.setWave_wfault (s : State) (v : Nat) (x : Wave) : (s.setWave v x).wfault = s.wfault := rfl
@[simp] theorem State.setWave_mons (s : State) (v : Nat) (x : Wave) : (s.setWave v x).mons = s.mons := rfl
@[simp] theorem State.setWave_poison (s : State) (v : Nat) (x : Wave) : (s.setWave v x).poison = s.poison := rfl
@[simp] theorem State.setWave_longs (s : State) (v : Nat) (x : Wave) : (s.setWave v x).longs = s.longs := rfl
@[simp] theorem State.setWave_vqs (s : State) (v : Nat) (x : Wave) : (s.setWave v x).vqs = s.vqs := rfl
@[simp] theorem State.setWave_engines (s : State) (v : Nat) (x : Wave) : (s.setWave v x).engines = s.engines := rfl
@[simp] theorem State.setWave_seqs (s : State) (v : Nat) (x : Wave) : (s.setWave v x).seqs = s.seqs := rfl
@[simp] theorem State.setWave_savedSeqs (s : State) (v : Nat) (x : Wave) : (s.setWave v x).savedSeqs = s.savedSeqs := rfl
@[simp] theorem State.setWave_rngs (s : State) (v : Nat) (x : Wave) : (s.setWave v x).rngs = s.rngs := rfl
@[simp] theorem State.setWave_kerns (s : State) (v : Nat) (x : Wave) : (s.setWave v x).kerns = s.kerns := rfl
@[simp] theorem State.setWave_savedKerns (s : State) (v : Nat) (x : Wave) : (s.setWave v x).savedKerns = s.savedKerns := rfl
@[simp] theorem State.setWave_counts (s : State) (v : Nat) (x : Wave) : (s.setWave v x).counts = s.counts := rfl

@[simp] theorem State.setTeam_sched (s : State) (t : Nat) (x : Team) : (s.setTeam t x).sched = s.sched := rfl
@[simp] theorem State.setTeam_cur (s : State) (t : Nat) (x : Team) : (s.setTeam t x).cur = s.cur := rfl
@[simp] theorem State.setTeam_issue (s : State) (t : Nat) (x : Team) : (s.setTeam t x).issue = s.issue := rfl
@[simp] theorem State.setTeam_free (s : State) (t : Nat) (x : Team) : (s.setTeam t x).free = s.free := rfl
@[simp] theorem State.setTeam_nextId (s : State) (t : Nat) (x : Team) : (s.setTeam t x).nextId = s.nextId := rfl
@[simp] theorem State.setTeam_hclk (s : State) (t : Nat) (x : Team) : (s.setTeam t x).hclk = s.hclk := rfl
@[simp] theorem State.setTeam_aclk (s : State) (t : Nat) (x : Team) : (s.setTeam t x).aclk = s.aclk := rfl
@[simp] theorem State.setTeam_mclk (s : State) (t : Nat) (x : Team) : (s.setTeam t x).mclk = s.mclk := rfl
@[simp] theorem State.setTeam_point (s : State) (t : Nat) (x : Team) : (s.setTeam t x).point = s.point := rfl
@[simp] theorem State.setTeam_moving (s : State) (t : Nat) (x : Team) : (s.setTeam t x).moving = s.moving := rfl
@[simp] theorem State.setTeam_stopAt (s : State) (t : Nat) (x : Team) : (s.setTeam t x).stopAt = s.stopAt := rfl
@[simp] theorem State.setTeam_missed (s : State) (t : Nat) (x : Team) : (s.setTeam t x).missed = s.missed := rfl
@[simp] theorem State.setTeam_ratio (s : State) (t : Nat) (x : Team) : (s.setTeam t x).ratio = s.ratio := rfl
@[simp] theorem State.setTeam_power (s : State) (t : Nat) (x : Team) : (s.setTeam t x).power = s.power := rfl
@[simp] theorem State.setTeam_paced (s : State) (t : Nat) (x : Team) : (s.setTeam t x).paced = s.paced := rfl
@[simp] theorem State.setTeam_lock (s : State) (t : Nat) (x : Team) : (s.setTeam t x).lock = s.lock := rfl
@[simp] theorem State.setTeam_dies (s : State) (t : Nat) (x : Team) : (s.setTeam t x).dies = s.dies := rfl
@[simp] theorem State.setTeam_links (s : State) (t : Nat) (x : Team) : (s.setTeam t x).links = s.links := rfl
@[simp] theorem State.setTeam_fuses (s : State) (t : Nat) (x : Team) : (s.setTeam t x).fuses = s.fuses := rfl
@[simp] theorem State.setTeam_hub (s : State) (t : Nat) (x : Team) : (s.setTeam t x).hub = s.hub := rfl
@[simp] theorem State.setTeam_heads (s : State) (t : Nat) (x : Team) : (s.setTeam t x).heads = s.heads := rfl
@[simp] theorem State.setTeam_vencs (s : State) (t : Nat) (x : Team) : (s.setTeam t x).vencs = s.vencs := rfl
@[simp] theorem State.setTeam_msix (s : State) (t : Nat) (x : Team) : (s.setTeam t x).msix = s.msix := rfl
@[simp] theorem State.setTeam_msgs (s : State) (t : Nat) (x : Team) : (s.setTeam t x).msgs = s.msgs := rfl
@[simp] theorem State.setTeam_answers (s : State) (t : Nat) (x : Team) : (s.setTeam t x).answers = s.answers := rfl
@[simp] theorem State.setTeam_ctxs (s : State) (t : Nat) (x : Team) : (s.setTeam t x).ctxs = s.ctxs := rfl
@[simp] theorem State.setTeam_queues (s : State) (t : Nat) (x : Team) : (s.setTeam t x).queues = s.queues := rfl
@[simp] theorem State.setTeam_transit (s : State) (t : Nat) (x : Team) : (s.setTeam t x).transit = s.transit := rfl
@[simp] theorem State.setTeam_mdisp (s : State) (t : Nat) (x : Team) : (s.setTeam t x).mdisp = s.mdisp := rfl
@[simp] theorem State.setTeam_claims (s : State) (t : Nat) (x : Team) : (s.setTeam t x).claims = s.claims := rfl
@[simp] theorem State.setTeam_steals (s : State) (t : Nat) (x : Team) : (s.setTeam t x).steals = s.steals := rfl
@[simp] theorem State.setTeam_waves (s : State) (t : Nat) (x : Team) : (s.setTeam t x).waves = s.waves := rfl
@[simp] theorem State.setTeam_carve (s : State) (t : Nat) (x : Team) : (s.setTeam t x).carve = s.carve := rfl
@[simp] theorem State.setTeam_mem (s : State) (t : Nat) (x : Team) : (s.setTeam t x).mem = s.mem := rfl
@[simp] theorem State.setTeam_l2old (s : State) (t : Nat) (x : Team) : (s.setTeam t x).l2old = s.l2old := rfl
@[simp] theorem State.setTeam_l2clean (s : State) (t : Nat) (x : Team) : (s.setTeam t x).l2clean = s.l2clean := rfl
@[simp] theorem State.setTeam_sys (s : State) (t : Nat) (x : Team) : (s.setTeam t x).sys = s.sys := rfl
@[simp] theorem State.setTeam_l1 (s : State) (t : Nat) (x : Team) : (s.setTeam t x).l1 = s.l1 := rfl
@[simp] theorem State.setTeam_tlb1 (s : State) (t : Nat) (x : Team) : (s.setTeam t x).tlb1 = s.tlb1 := rfl
@[simp] theorem State.setTeam_tlb2 (s : State) (t : Nat) (x : Team) : (s.setTeam t x).tlb2 = s.tlb2 := rfl
@[simp] theorem State.setTeam_walks (s : State) (t : Nat) (x : Team) : (s.setTeam t x).walks = s.walks := rfl
@[simp] theorem State.setTeam_wfault (s : State) (t : Nat) (x : Team) : (s.setTeam t x).wfault = s.wfault := rfl
@[simp] theorem State.setTeam_mons (s : State) (t : Nat) (x : Team) : (s.setTeam t x).mons = s.mons := rfl
@[simp] theorem State.setTeam_poison (s : State) (t : Nat) (x : Team) : (s.setTeam t x).poison = s.poison := rfl
@[simp] theorem State.setTeam_longs (s : State) (t : Nat) (x : Team) : (s.setTeam t x).longs = s.longs := rfl
@[simp] theorem State.setTeam_vqs (s : State) (t : Nat) (x : Team) : (s.setTeam t x).vqs = s.vqs := rfl
@[simp] theorem State.setTeam_engines (s : State) (t : Nat) (x : Team) : (s.setTeam t x).engines = s.engines := rfl
@[simp] theorem State.setTeam_seqs (s : State) (t : Nat) (x : Team) : (s.setTeam t x).seqs = s.seqs := rfl
@[simp] theorem State.setTeam_savedSeqs (s : State) (t : Nat) (x : Team) : (s.setTeam t x).savedSeqs = s.savedSeqs := rfl
@[simp] theorem State.setTeam_rngs (s : State) (t : Nat) (x : Team) : (s.setTeam t x).rngs = s.rngs := rfl
@[simp] theorem State.setTeam_kerns (s : State) (t : Nat) (x : Team) : (s.setTeam t x).kerns = s.kerns := rfl
@[simp] theorem State.setTeam_savedKerns (s : State) (t : Nat) (x : Team) : (s.setTeam t x).savedKerns = s.savedKerns := rfl
@[simp] theorem State.setTeam_counts (s : State) (t : Nat) (x : Team) : (s.setTeam t x).counts = s.counts := rfl

@[simp] theorem State.setSeq_sched (s : State) (k : Nat) (x : Seq) : (s.setSeq k x).sched = s.sched := rfl
@[simp] theorem State.setSeq_cur (s : State) (k : Nat) (x : Seq) : (s.setSeq k x).cur = s.cur := rfl
@[simp] theorem State.setSeq_issue (s : State) (k : Nat) (x : Seq) : (s.setSeq k x).issue = s.issue := rfl
@[simp] theorem State.setSeq_free (s : State) (k : Nat) (x : Seq) : (s.setSeq k x).free = s.free := rfl
@[simp] theorem State.setSeq_nextId (s : State) (k : Nat) (x : Seq) : (s.setSeq k x).nextId = s.nextId := rfl
@[simp] theorem State.setSeq_hclk (s : State) (k : Nat) (x : Seq) : (s.setSeq k x).hclk = s.hclk := rfl
@[simp] theorem State.setSeq_aclk (s : State) (k : Nat) (x : Seq) : (s.setSeq k x).aclk = s.aclk := rfl
@[simp] theorem State.setSeq_mclk (s : State) (k : Nat) (x : Seq) : (s.setSeq k x).mclk = s.mclk := rfl
@[simp] theorem State.setSeq_point (s : State) (k : Nat) (x : Seq) : (s.setSeq k x).point = s.point := rfl
@[simp] theorem State.setSeq_moving (s : State) (k : Nat) (x : Seq) : (s.setSeq k x).moving = s.moving := rfl
@[simp] theorem State.setSeq_stopAt (s : State) (k : Nat) (x : Seq) : (s.setSeq k x).stopAt = s.stopAt := rfl
@[simp] theorem State.setSeq_missed (s : State) (k : Nat) (x : Seq) : (s.setSeq k x).missed = s.missed := rfl
@[simp] theorem State.setSeq_ratio (s : State) (k : Nat) (x : Seq) : (s.setSeq k x).ratio = s.ratio := rfl
@[simp] theorem State.setSeq_power (s : State) (k : Nat) (x : Seq) : (s.setSeq k x).power = s.power := rfl
@[simp] theorem State.setSeq_paced (s : State) (k : Nat) (x : Seq) : (s.setSeq k x).paced = s.paced := rfl
@[simp] theorem State.setSeq_lock (s : State) (k : Nat) (x : Seq) : (s.setSeq k x).lock = s.lock := rfl
@[simp] theorem State.setSeq_dies (s : State) (k : Nat) (x : Seq) : (s.setSeq k x).dies = s.dies := rfl
@[simp] theorem State.setSeq_links (s : State) (k : Nat) (x : Seq) : (s.setSeq k x).links = s.links := rfl
@[simp] theorem State.setSeq_fuses (s : State) (k : Nat) (x : Seq) : (s.setSeq k x).fuses = s.fuses := rfl
@[simp] theorem State.setSeq_hub (s : State) (k : Nat) (x : Seq) : (s.setSeq k x).hub = s.hub := rfl
@[simp] theorem State.setSeq_heads (s : State) (k : Nat) (x : Seq) : (s.setSeq k x).heads = s.heads := rfl
@[simp] theorem State.setSeq_vencs (s : State) (k : Nat) (x : Seq) : (s.setSeq k x).vencs = s.vencs := rfl
@[simp] theorem State.setSeq_msix (s : State) (k : Nat) (x : Seq) : (s.setSeq k x).msix = s.msix := rfl
@[simp] theorem State.setSeq_msgs (s : State) (k : Nat) (x : Seq) : (s.setSeq k x).msgs = s.msgs := rfl
@[simp] theorem State.setSeq_answers (s : State) (k : Nat) (x : Seq) : (s.setSeq k x).answers = s.answers := rfl
@[simp] theorem State.setSeq_ctxs (s : State) (k : Nat) (x : Seq) : (s.setSeq k x).ctxs = s.ctxs := rfl
@[simp] theorem State.setSeq_queues (s : State) (k : Nat) (x : Seq) : (s.setSeq k x).queues = s.queues := rfl
@[simp] theorem State.setSeq_transit (s : State) (k : Nat) (x : Seq) : (s.setSeq k x).transit = s.transit := rfl
@[simp] theorem State.setSeq_mdisp (s : State) (k : Nat) (x : Seq) : (s.setSeq k x).mdisp = s.mdisp := rfl
@[simp] theorem State.setSeq_claims (s : State) (k : Nat) (x : Seq) : (s.setSeq k x).claims = s.claims := rfl
@[simp] theorem State.setSeq_steals (s : State) (k : Nat) (x : Seq) : (s.setSeq k x).steals = s.steals := rfl
@[simp] theorem State.setSeq_teams (s : State) (k : Nat) (x : Seq) : (s.setSeq k x).teams = s.teams := rfl
@[simp] theorem State.setSeq_waves (s : State) (k : Nat) (x : Seq) : (s.setSeq k x).waves = s.waves := rfl
@[simp] theorem State.setSeq_carve (s : State) (k : Nat) (x : Seq) : (s.setSeq k x).carve = s.carve := rfl
@[simp] theorem State.setSeq_mem (s : State) (k : Nat) (x : Seq) : (s.setSeq k x).mem = s.mem := rfl
@[simp] theorem State.setSeq_l2old (s : State) (k : Nat) (x : Seq) : (s.setSeq k x).l2old = s.l2old := rfl
@[simp] theorem State.setSeq_l2clean (s : State) (k : Nat) (x : Seq) : (s.setSeq k x).l2clean = s.l2clean := rfl
@[simp] theorem State.setSeq_sys (s : State) (k : Nat) (x : Seq) : (s.setSeq k x).sys = s.sys := rfl
@[simp] theorem State.setSeq_l1 (s : State) (k : Nat) (x : Seq) : (s.setSeq k x).l1 = s.l1 := rfl
@[simp] theorem State.setSeq_tlb1 (s : State) (k : Nat) (x : Seq) : (s.setSeq k x).tlb1 = s.tlb1 := rfl
@[simp] theorem State.setSeq_tlb2 (s : State) (k : Nat) (x : Seq) : (s.setSeq k x).tlb2 = s.tlb2 := rfl
@[simp] theorem State.setSeq_walks (s : State) (k : Nat) (x : Seq) : (s.setSeq k x).walks = s.walks := rfl
@[simp] theorem State.setSeq_wfault (s : State) (k : Nat) (x : Seq) : (s.setSeq k x).wfault = s.wfault := rfl
@[simp] theorem State.setSeq_mons (s : State) (k : Nat) (x : Seq) : (s.setSeq k x).mons = s.mons := rfl
@[simp] theorem State.setSeq_poison (s : State) (k : Nat) (x : Seq) : (s.setSeq k x).poison = s.poison := rfl
@[simp] theorem State.setSeq_longs (s : State) (k : Nat) (x : Seq) : (s.setSeq k x).longs = s.longs := rfl
@[simp] theorem State.setSeq_vqs (s : State) (k : Nat) (x : Seq) : (s.setSeq k x).vqs = s.vqs := rfl
@[simp] theorem State.setSeq_engines (s : State) (k : Nat) (x : Seq) : (s.setSeq k x).engines = s.engines := rfl
@[simp] theorem State.setSeq_savedSeqs (s : State) (k : Nat) (x : Seq) : (s.setSeq k x).savedSeqs = s.savedSeqs := rfl
@[simp] theorem State.setSeq_rngs (s : State) (k : Nat) (x : Seq) : (s.setSeq k x).rngs = s.rngs := rfl
@[simp] theorem State.setSeq_kerns (s : State) (k : Nat) (x : Seq) : (s.setSeq k x).kerns = s.kerns := rfl
@[simp] theorem State.setSeq_savedKerns (s : State) (k : Nat) (x : Seq) : (s.setSeq k x).savedKerns = s.savedKerns := rfl
@[simp] theorem State.setSeq_counts (s : State) (k : Nat) (x : Seq) : (s.setSeq k x).counts = s.counts := rfl

@[simp] theorem State.setKern_sched (s : State) (m : Nat) (x : Kern) : (s.setKern m x).sched = s.sched := rfl
@[simp] theorem State.setKern_cur (s : State) (m : Nat) (x : Kern) : (s.setKern m x).cur = s.cur := rfl
@[simp] theorem State.setKern_issue (s : State) (m : Nat) (x : Kern) : (s.setKern m x).issue = s.issue := rfl
@[simp] theorem State.setKern_free (s : State) (m : Nat) (x : Kern) : (s.setKern m x).free = s.free := rfl
@[simp] theorem State.setKern_nextId (s : State) (m : Nat) (x : Kern) : (s.setKern m x).nextId = s.nextId := rfl
@[simp] theorem State.setKern_hclk (s : State) (m : Nat) (x : Kern) : (s.setKern m x).hclk = s.hclk := rfl
@[simp] theorem State.setKern_aclk (s : State) (m : Nat) (x : Kern) : (s.setKern m x).aclk = s.aclk := rfl
@[simp] theorem State.setKern_mclk (s : State) (m : Nat) (x : Kern) : (s.setKern m x).mclk = s.mclk := rfl
@[simp] theorem State.setKern_point (s : State) (m : Nat) (x : Kern) : (s.setKern m x).point = s.point := rfl
@[simp] theorem State.setKern_moving (s : State) (m : Nat) (x : Kern) : (s.setKern m x).moving = s.moving := rfl
@[simp] theorem State.setKern_stopAt (s : State) (m : Nat) (x : Kern) : (s.setKern m x).stopAt = s.stopAt := rfl
@[simp] theorem State.setKern_missed (s : State) (m : Nat) (x : Kern) : (s.setKern m x).missed = s.missed := rfl
@[simp] theorem State.setKern_ratio (s : State) (m : Nat) (x : Kern) : (s.setKern m x).ratio = s.ratio := rfl
@[simp] theorem State.setKern_power (s : State) (m : Nat) (x : Kern) : (s.setKern m x).power = s.power := rfl
@[simp] theorem State.setKern_paced (s : State) (m : Nat) (x : Kern) : (s.setKern m x).paced = s.paced := rfl
@[simp] theorem State.setKern_lock (s : State) (m : Nat) (x : Kern) : (s.setKern m x).lock = s.lock := rfl
@[simp] theorem State.setKern_dies (s : State) (m : Nat) (x : Kern) : (s.setKern m x).dies = s.dies := rfl
@[simp] theorem State.setKern_links (s : State) (m : Nat) (x : Kern) : (s.setKern m x).links = s.links := rfl
@[simp] theorem State.setKern_fuses (s : State) (m : Nat) (x : Kern) : (s.setKern m x).fuses = s.fuses := rfl
@[simp] theorem State.setKern_hub (s : State) (m : Nat) (x : Kern) : (s.setKern m x).hub = s.hub := rfl
@[simp] theorem State.setKern_heads (s : State) (m : Nat) (x : Kern) : (s.setKern m x).heads = s.heads := rfl
@[simp] theorem State.setKern_vencs (s : State) (m : Nat) (x : Kern) : (s.setKern m x).vencs = s.vencs := rfl
@[simp] theorem State.setKern_msix (s : State) (m : Nat) (x : Kern) : (s.setKern m x).msix = s.msix := rfl
@[simp] theorem State.setKern_msgs (s : State) (m : Nat) (x : Kern) : (s.setKern m x).msgs = s.msgs := rfl
@[simp] theorem State.setKern_answers (s : State) (m : Nat) (x : Kern) : (s.setKern m x).answers = s.answers := rfl
@[simp] theorem State.setKern_ctxs (s : State) (m : Nat) (x : Kern) : (s.setKern m x).ctxs = s.ctxs := rfl
@[simp] theorem State.setKern_queues (s : State) (m : Nat) (x : Kern) : (s.setKern m x).queues = s.queues := rfl
@[simp] theorem State.setKern_transit (s : State) (m : Nat) (x : Kern) : (s.setKern m x).transit = s.transit := rfl
@[simp] theorem State.setKern_mdisp (s : State) (m : Nat) (x : Kern) : (s.setKern m x).mdisp = s.mdisp := rfl
@[simp] theorem State.setKern_claims (s : State) (m : Nat) (x : Kern) : (s.setKern m x).claims = s.claims := rfl
@[simp] theorem State.setKern_steals (s : State) (m : Nat) (x : Kern) : (s.setKern m x).steals = s.steals := rfl
@[simp] theorem State.setKern_teams (s : State) (m : Nat) (x : Kern) : (s.setKern m x).teams = s.teams := rfl
@[simp] theorem State.setKern_waves (s : State) (m : Nat) (x : Kern) : (s.setKern m x).waves = s.waves := rfl
@[simp] theorem State.setKern_carve (s : State) (m : Nat) (x : Kern) : (s.setKern m x).carve = s.carve := rfl
@[simp] theorem State.setKern_mem (s : State) (m : Nat) (x : Kern) : (s.setKern m x).mem = s.mem := rfl
@[simp] theorem State.setKern_l2old (s : State) (m : Nat) (x : Kern) : (s.setKern m x).l2old = s.l2old := rfl
@[simp] theorem State.setKern_l2clean (s : State) (m : Nat) (x : Kern) : (s.setKern m x).l2clean = s.l2clean := rfl
@[simp] theorem State.setKern_sys (s : State) (m : Nat) (x : Kern) : (s.setKern m x).sys = s.sys := rfl
@[simp] theorem State.setKern_l1 (s : State) (m : Nat) (x : Kern) : (s.setKern m x).l1 = s.l1 := rfl
@[simp] theorem State.setKern_tlb1 (s : State) (m : Nat) (x : Kern) : (s.setKern m x).tlb1 = s.tlb1 := rfl
@[simp] theorem State.setKern_tlb2 (s : State) (m : Nat) (x : Kern) : (s.setKern m x).tlb2 = s.tlb2 := rfl
@[simp] theorem State.setKern_walks (s : State) (m : Nat) (x : Kern) : (s.setKern m x).walks = s.walks := rfl
@[simp] theorem State.setKern_wfault (s : State) (m : Nat) (x : Kern) : (s.setKern m x).wfault = s.wfault := rfl
@[simp] theorem State.setKern_mons (s : State) (m : Nat) (x : Kern) : (s.setKern m x).mons = s.mons := rfl
@[simp] theorem State.setKern_poison (s : State) (m : Nat) (x : Kern) : (s.setKern m x).poison = s.poison := rfl
@[simp] theorem State.setKern_longs (s : State) (m : Nat) (x : Kern) : (s.setKern m x).longs = s.longs := rfl
@[simp] theorem State.setKern_vqs (s : State) (m : Nat) (x : Kern) : (s.setKern m x).vqs = s.vqs := rfl
@[simp] theorem State.setKern_engines (s : State) (m : Nat) (x : Kern) : (s.setKern m x).engines = s.engines := rfl
@[simp] theorem State.setKern_seqs (s : State) (m : Nat) (x : Kern) : (s.setKern m x).seqs = s.seqs := rfl
@[simp] theorem State.setKern_savedSeqs (s : State) (m : Nat) (x : Kern) : (s.setKern m x).savedSeqs = s.savedSeqs := rfl
@[simp] theorem State.setKern_rngs (s : State) (m : Nat) (x : Kern) : (s.setKern m x).rngs = s.rngs := rfl
@[simp] theorem State.setKern_savedKerns (s : State) (m : Nat) (x : Kern) : (s.setKern m x).savedKerns = s.savedKerns := rfl
@[simp] theorem State.setKern_counts (s : State) (m : Nat) (x : Kern) : (s.setKern m x).counts = s.counts := rfl

@[simp] theorem State.setQueue_sched (s : State) (q : Nat) (x : Queue) : (s.setQueue q x).sched = s.sched := rfl
@[simp] theorem State.setQueue_cur (s : State) (q : Nat) (x : Queue) : (s.setQueue q x).cur = s.cur := rfl
@[simp] theorem State.setQueue_issue (s : State) (q : Nat) (x : Queue) : (s.setQueue q x).issue = s.issue := rfl
@[simp] theorem State.setQueue_free (s : State) (q : Nat) (x : Queue) : (s.setQueue q x).free = s.free := rfl
@[simp] theorem State.setQueue_nextId (s : State) (q : Nat) (x : Queue) : (s.setQueue q x).nextId = s.nextId := rfl
@[simp] theorem State.setQueue_hclk (s : State) (q : Nat) (x : Queue) : (s.setQueue q x).hclk = s.hclk := rfl
@[simp] theorem State.setQueue_aclk (s : State) (q : Nat) (x : Queue) : (s.setQueue q x).aclk = s.aclk := rfl
@[simp] theorem State.setQueue_mclk (s : State) (q : Nat) (x : Queue) : (s.setQueue q x).mclk = s.mclk := rfl
@[simp] theorem State.setQueue_point (s : State) (q : Nat) (x : Queue) : (s.setQueue q x).point = s.point := rfl
@[simp] theorem State.setQueue_moving (s : State) (q : Nat) (x : Queue) : (s.setQueue q x).moving = s.moving := rfl
@[simp] theorem State.setQueue_stopAt (s : State) (q : Nat) (x : Queue) : (s.setQueue q x).stopAt = s.stopAt := rfl
@[simp] theorem State.setQueue_missed (s : State) (q : Nat) (x : Queue) : (s.setQueue q x).missed = s.missed := rfl
@[simp] theorem State.setQueue_ratio (s : State) (q : Nat) (x : Queue) : (s.setQueue q x).ratio = s.ratio := rfl
@[simp] theorem State.setQueue_power (s : State) (q : Nat) (x : Queue) : (s.setQueue q x).power = s.power := rfl
@[simp] theorem State.setQueue_paced (s : State) (q : Nat) (x : Queue) : (s.setQueue q x).paced = s.paced := rfl
@[simp] theorem State.setQueue_lock (s : State) (q : Nat) (x : Queue) : (s.setQueue q x).lock = s.lock := rfl
@[simp] theorem State.setQueue_dies (s : State) (q : Nat) (x : Queue) : (s.setQueue q x).dies = s.dies := rfl
@[simp] theorem State.setQueue_links (s : State) (q : Nat) (x : Queue) : (s.setQueue q x).links = s.links := rfl
@[simp] theorem State.setQueue_fuses (s : State) (q : Nat) (x : Queue) : (s.setQueue q x).fuses = s.fuses := rfl
@[simp] theorem State.setQueue_hub (s : State) (q : Nat) (x : Queue) : (s.setQueue q x).hub = s.hub := rfl
@[simp] theorem State.setQueue_heads (s : State) (q : Nat) (x : Queue) : (s.setQueue q x).heads = s.heads := rfl
@[simp] theorem State.setQueue_vencs (s : State) (q : Nat) (x : Queue) : (s.setQueue q x).vencs = s.vencs := rfl
@[simp] theorem State.setQueue_msix (s : State) (q : Nat) (x : Queue) : (s.setQueue q x).msix = s.msix := rfl
@[simp] theorem State.setQueue_msgs (s : State) (q : Nat) (x : Queue) : (s.setQueue q x).msgs = s.msgs := rfl
@[simp] theorem State.setQueue_answers (s : State) (q : Nat) (x : Queue) : (s.setQueue q x).answers = s.answers := rfl
@[simp] theorem State.setQueue_ctxs (s : State) (q : Nat) (x : Queue) : (s.setQueue q x).ctxs = s.ctxs := rfl
@[simp] theorem State.setQueue_transit (s : State) (q : Nat) (x : Queue) : (s.setQueue q x).transit = s.transit := rfl
@[simp] theorem State.setQueue_mdisp (s : State) (q : Nat) (x : Queue) : (s.setQueue q x).mdisp = s.mdisp := rfl
@[simp] theorem State.setQueue_claims (s : State) (q : Nat) (x : Queue) : (s.setQueue q x).claims = s.claims := rfl
@[simp] theorem State.setQueue_steals (s : State) (q : Nat) (x : Queue) : (s.setQueue q x).steals = s.steals := rfl
@[simp] theorem State.setQueue_teams (s : State) (q : Nat) (x : Queue) : (s.setQueue q x).teams = s.teams := rfl
@[simp] theorem State.setQueue_waves (s : State) (q : Nat) (x : Queue) : (s.setQueue q x).waves = s.waves := rfl
@[simp] theorem State.setQueue_carve (s : State) (q : Nat) (x : Queue) : (s.setQueue q x).carve = s.carve := rfl
@[simp] theorem State.setQueue_mem (s : State) (q : Nat) (x : Queue) : (s.setQueue q x).mem = s.mem := rfl
@[simp] theorem State.setQueue_l2old (s : State) (q : Nat) (x : Queue) : (s.setQueue q x).l2old = s.l2old := rfl
@[simp] theorem State.setQueue_l2clean (s : State) (q : Nat) (x : Queue) : (s.setQueue q x).l2clean = s.l2clean := rfl
@[simp] theorem State.setQueue_sys (s : State) (q : Nat) (x : Queue) : (s.setQueue q x).sys = s.sys := rfl
@[simp] theorem State.setQueue_l1 (s : State) (q : Nat) (x : Queue) : (s.setQueue q x).l1 = s.l1 := rfl
@[simp] theorem State.setQueue_tlb1 (s : State) (q : Nat) (x : Queue) : (s.setQueue q x).tlb1 = s.tlb1 := rfl
@[simp] theorem State.setQueue_tlb2 (s : State) (q : Nat) (x : Queue) : (s.setQueue q x).tlb2 = s.tlb2 := rfl
@[simp] theorem State.setQueue_walks (s : State) (q : Nat) (x : Queue) : (s.setQueue q x).walks = s.walks := rfl
@[simp] theorem State.setQueue_wfault (s : State) (q : Nat) (x : Queue) : (s.setQueue q x).wfault = s.wfault := rfl
@[simp] theorem State.setQueue_mons (s : State) (q : Nat) (x : Queue) : (s.setQueue q x).mons = s.mons := rfl
@[simp] theorem State.setQueue_poison (s : State) (q : Nat) (x : Queue) : (s.setQueue q x).poison = s.poison := rfl
@[simp] theorem State.setQueue_longs (s : State) (q : Nat) (x : Queue) : (s.setQueue q x).longs = s.longs := rfl
@[simp] theorem State.setQueue_vqs (s : State) (q : Nat) (x : Queue) : (s.setQueue q x).vqs = s.vqs := rfl
@[simp] theorem State.setQueue_engines (s : State) (q : Nat) (x : Queue) : (s.setQueue q x).engines = s.engines := rfl
@[simp] theorem State.setQueue_seqs (s : State) (q : Nat) (x : Queue) : (s.setQueue q x).seqs = s.seqs := rfl
@[simp] theorem State.setQueue_savedSeqs (s : State) (q : Nat) (x : Queue) : (s.setQueue q x).savedSeqs = s.savedSeqs := rfl
@[simp] theorem State.setQueue_rngs (s : State) (q : Nat) (x : Queue) : (s.setQueue q x).rngs = s.rngs := rfl
@[simp] theorem State.setQueue_kerns (s : State) (q : Nat) (x : Queue) : (s.setQueue q x).kerns = s.kerns := rfl
@[simp] theorem State.setQueue_savedKerns (s : State) (q : Nat) (x : Queue) : (s.setQueue q x).savedKerns = s.savedKerns := rfl
@[simp] theorem State.setQueue_counts (s : State) (q : Nat) (x : Queue) : (s.setQueue q x).counts = s.counts := rfl

@[simp] theorem State.send_sched (s : State) (r : Report) : (s.send r).sched = s.sched := rfl
@[simp] theorem State.send_cur (s : State) (r : Report) : (s.send r).cur = s.cur := rfl
@[simp] theorem State.send_issue (s : State) (r : Report) : (s.send r).issue = s.issue := rfl
@[simp] theorem State.send_free (s : State) (r : Report) : (s.send r).free = s.free := rfl
@[simp] theorem State.send_nextId (s : State) (r : Report) : (s.send r).nextId = s.nextId := rfl
@[simp] theorem State.send_hclk (s : State) (r : Report) : (s.send r).hclk = s.hclk := rfl
@[simp] theorem State.send_aclk (s : State) (r : Report) : (s.send r).aclk = s.aclk := rfl
@[simp] theorem State.send_mclk (s : State) (r : Report) : (s.send r).mclk = s.mclk := rfl
@[simp] theorem State.send_point (s : State) (r : Report) : (s.send r).point = s.point := rfl
@[simp] theorem State.send_moving (s : State) (r : Report) : (s.send r).moving = s.moving := rfl
@[simp] theorem State.send_stopAt (s : State) (r : Report) : (s.send r).stopAt = s.stopAt := rfl
@[simp] theorem State.send_missed (s : State) (r : Report) : (s.send r).missed = s.missed := rfl
@[simp] theorem State.send_ratio (s : State) (r : Report) : (s.send r).ratio = s.ratio := rfl
@[simp] theorem State.send_power (s : State) (r : Report) : (s.send r).power = s.power := rfl
@[simp] theorem State.send_paced (s : State) (r : Report) : (s.send r).paced = s.paced := rfl
@[simp] theorem State.send_lock (s : State) (r : Report) : (s.send r).lock = s.lock := rfl
@[simp] theorem State.send_dies (s : State) (r : Report) : (s.send r).dies = s.dies := rfl
@[simp] theorem State.send_links (s : State) (r : Report) : (s.send r).links = s.links := rfl
@[simp] theorem State.send_fuses (s : State) (r : Report) : (s.send r).fuses = s.fuses := rfl
@[simp] theorem State.send_heads (s : State) (r : Report) : (s.send r).heads = s.heads := rfl
@[simp] theorem State.send_vencs (s : State) (r : Report) : (s.send r).vencs = s.vencs := rfl
@[simp] theorem State.send_msix (s : State) (r : Report) : (s.send r).msix = s.msix := rfl
@[simp] theorem State.send_msgs (s : State) (r : Report) : (s.send r).msgs = s.msgs := rfl
@[simp] theorem State.send_answers (s : State) (r : Report) : (s.send r).answers = s.answers := rfl
@[simp] theorem State.send_ctxs (s : State) (r : Report) : (s.send r).ctxs = s.ctxs := rfl
@[simp] theorem State.send_queues (s : State) (r : Report) : (s.send r).queues = s.queues := rfl
@[simp] theorem State.send_transit (s : State) (r : Report) : (s.send r).transit = s.transit := rfl
@[simp] theorem State.send_mdisp (s : State) (r : Report) : (s.send r).mdisp = s.mdisp := rfl
@[simp] theorem State.send_claims (s : State) (r : Report) : (s.send r).claims = s.claims := rfl
@[simp] theorem State.send_steals (s : State) (r : Report) : (s.send r).steals = s.steals := rfl
@[simp] theorem State.send_teams (s : State) (r : Report) : (s.send r).teams = s.teams := rfl
@[simp] theorem State.send_waves (s : State) (r : Report) : (s.send r).waves = s.waves := rfl
@[simp] theorem State.send_carve (s : State) (r : Report) : (s.send r).carve = s.carve := rfl
@[simp] theorem State.send_mem (s : State) (r : Report) : (s.send r).mem = s.mem := rfl
@[simp] theorem State.send_l2old (s : State) (r : Report) : (s.send r).l2old = s.l2old := rfl
@[simp] theorem State.send_l2clean (s : State) (r : Report) : (s.send r).l2clean = s.l2clean := rfl
@[simp] theorem State.send_sys (s : State) (r : Report) : (s.send r).sys = s.sys := rfl
@[simp] theorem State.send_l1 (s : State) (r : Report) : (s.send r).l1 = s.l1 := rfl
@[simp] theorem State.send_tlb1 (s : State) (r : Report) : (s.send r).tlb1 = s.tlb1 := rfl
@[simp] theorem State.send_tlb2 (s : State) (r : Report) : (s.send r).tlb2 = s.tlb2 := rfl
@[simp] theorem State.send_walks (s : State) (r : Report) : (s.send r).walks = s.walks := rfl
@[simp] theorem State.send_wfault (s : State) (r : Report) : (s.send r).wfault = s.wfault := rfl
@[simp] theorem State.send_mons (s : State) (r : Report) : (s.send r).mons = s.mons := rfl
@[simp] theorem State.send_poison (s : State) (r : Report) : (s.send r).poison = s.poison := rfl
@[simp] theorem State.send_longs (s : State) (r : Report) : (s.send r).longs = s.longs := rfl
@[simp] theorem State.send_vqs (s : State) (r : Report) : (s.send r).vqs = s.vqs := rfl
@[simp] theorem State.send_engines (s : State) (r : Report) : (s.send r).engines = s.engines := rfl
@[simp] theorem State.send_seqs (s : State) (r : Report) : (s.send r).seqs = s.seqs := rfl
@[simp] theorem State.send_savedSeqs (s : State) (r : Report) : (s.send r).savedSeqs = s.savedSeqs := rfl
@[simp] theorem State.send_rngs (s : State) (r : Report) : (s.send r).rngs = s.rngs := rfl
@[simp] theorem State.send_kerns (s : State) (r : Report) : (s.send r).kerns = s.kerns := rfl
@[simp] theorem State.send_savedKerns (s : State) (r : Report) : (s.send r).savedKerns = s.savedKerns := rfl
@[simp] theorem State.send_counts (s : State) (r : Report) : (s.send r).counts = s.counts := rfl

@[simp] theorem State.waitIssue_sched (s : State) : (s.waitIssue).sched = s.sched := rfl
@[simp] theorem State.waitIssue_cur (s : State) : (s.waitIssue).cur = s.cur := rfl
@[simp] theorem State.waitIssue_free (s : State) : (s.waitIssue).free = s.free := rfl
@[simp] theorem State.waitIssue_nextId (s : State) : (s.waitIssue).nextId = s.nextId := rfl
@[simp] theorem State.waitIssue_hclk (s : State) : (s.waitIssue).hclk = s.hclk := rfl
@[simp] theorem State.waitIssue_aclk (s : State) : (s.waitIssue).aclk = s.aclk := rfl
@[simp] theorem State.waitIssue_mclk (s : State) : (s.waitIssue).mclk = s.mclk := rfl
@[simp] theorem State.waitIssue_point (s : State) : (s.waitIssue).point = s.point := rfl
@[simp] theorem State.waitIssue_moving (s : State) : (s.waitIssue).moving = s.moving := rfl
@[simp] theorem State.waitIssue_stopAt (s : State) : (s.waitIssue).stopAt = s.stopAt := rfl
@[simp] theorem State.waitIssue_missed (s : State) : (s.waitIssue).missed = s.missed := rfl
@[simp] theorem State.waitIssue_ratio (s : State) : (s.waitIssue).ratio = s.ratio := rfl
@[simp] theorem State.waitIssue_power (s : State) : (s.waitIssue).power = s.power := rfl
@[simp] theorem State.waitIssue_paced (s : State) : (s.waitIssue).paced = s.paced := rfl
@[simp] theorem State.waitIssue_lock (s : State) : (s.waitIssue).lock = s.lock := rfl
@[simp] theorem State.waitIssue_dies (s : State) : (s.waitIssue).dies = s.dies := rfl
@[simp] theorem State.waitIssue_links (s : State) : (s.waitIssue).links = s.links := rfl
@[simp] theorem State.waitIssue_fuses (s : State) : (s.waitIssue).fuses = s.fuses := rfl
@[simp] theorem State.waitIssue_hub (s : State) : (s.waitIssue).hub = s.hub := rfl
@[simp] theorem State.waitIssue_heads (s : State) : (s.waitIssue).heads = s.heads := rfl
@[simp] theorem State.waitIssue_vencs (s : State) : (s.waitIssue).vencs = s.vencs := rfl
@[simp] theorem State.waitIssue_msix (s : State) : (s.waitIssue).msix = s.msix := rfl
@[simp] theorem State.waitIssue_msgs (s : State) : (s.waitIssue).msgs = s.msgs := rfl
@[simp] theorem State.waitIssue_answers (s : State) : (s.waitIssue).answers = s.answers := rfl
@[simp] theorem State.waitIssue_ctxs (s : State) : (s.waitIssue).ctxs = s.ctxs := rfl
@[simp] theorem State.waitIssue_queues (s : State) : (s.waitIssue).queues = s.queues := rfl
@[simp] theorem State.waitIssue_transit (s : State) : (s.waitIssue).transit = s.transit := rfl
@[simp] theorem State.waitIssue_mdisp (s : State) : (s.waitIssue).mdisp = s.mdisp := rfl
@[simp] theorem State.waitIssue_claims (s : State) : (s.waitIssue).claims = s.claims := rfl
@[simp] theorem State.waitIssue_steals (s : State) : (s.waitIssue).steals = s.steals := rfl
@[simp] theorem State.waitIssue_teams (s : State) : (s.waitIssue).teams = s.teams := rfl
@[simp] theorem State.waitIssue_waves (s : State) : (s.waitIssue).waves = s.waves := rfl
@[simp] theorem State.waitIssue_carve (s : State) : (s.waitIssue).carve = s.carve := rfl
@[simp] theorem State.waitIssue_mem (s : State) : (s.waitIssue).mem = s.mem := rfl
@[simp] theorem State.waitIssue_l2old (s : State) : (s.waitIssue).l2old = s.l2old := rfl
@[simp] theorem State.waitIssue_l2clean (s : State) : (s.waitIssue).l2clean = s.l2clean := rfl
@[simp] theorem State.waitIssue_sys (s : State) : (s.waitIssue).sys = s.sys := rfl
@[simp] theorem State.waitIssue_l1 (s : State) : (s.waitIssue).l1 = s.l1 := rfl
@[simp] theorem State.waitIssue_tlb1 (s : State) : (s.waitIssue).tlb1 = s.tlb1 := rfl
@[simp] theorem State.waitIssue_tlb2 (s : State) : (s.waitIssue).tlb2 = s.tlb2 := rfl
@[simp] theorem State.waitIssue_walks (s : State) : (s.waitIssue).walks = s.walks := rfl
@[simp] theorem State.waitIssue_wfault (s : State) : (s.waitIssue).wfault = s.wfault := rfl
@[simp] theorem State.waitIssue_mons (s : State) : (s.waitIssue).mons = s.mons := rfl
@[simp] theorem State.waitIssue_poison (s : State) : (s.waitIssue).poison = s.poison := rfl
@[simp] theorem State.waitIssue_longs (s : State) : (s.waitIssue).longs = s.longs := rfl
@[simp] theorem State.waitIssue_vqs (s : State) : (s.waitIssue).vqs = s.vqs := rfl
@[simp] theorem State.waitIssue_engines (s : State) : (s.waitIssue).engines = s.engines := rfl
@[simp] theorem State.waitIssue_seqs (s : State) : (s.waitIssue).seqs = s.seqs := rfl
@[simp] theorem State.waitIssue_savedSeqs (s : State) : (s.waitIssue).savedSeqs = s.savedSeqs := rfl
@[simp] theorem State.waitIssue_rngs (s : State) : (s.waitIssue).rngs = s.rngs := rfl
@[simp] theorem State.waitIssue_kerns (s : State) : (s.waitIssue).kerns = s.kerns := rfl
@[simp] theorem State.waitIssue_savedKerns (s : State) : (s.waitIssue).savedKerns = s.savedKerns := rfl
@[simp] theorem State.waitIssue_counts (s : State) : (s.waitIssue).counts = s.counts := rfl

@[simp] theorem State.fresh_sched (s : State) : (s.fresh).sched = s.sched := rfl
@[simp] theorem State.fresh_cur (s : State) : (s.fresh).cur = s.cur := rfl
@[simp] theorem State.fresh_issue (s : State) : (s.fresh).issue = s.issue := rfl
@[simp] theorem State.fresh_free (s : State) : (s.fresh).free = s.free := rfl
@[simp] theorem State.fresh_hclk (s : State) : (s.fresh).hclk = s.hclk := rfl
@[simp] theorem State.fresh_aclk (s : State) : (s.fresh).aclk = s.aclk := rfl
@[simp] theorem State.fresh_mclk (s : State) : (s.fresh).mclk = s.mclk := rfl
@[simp] theorem State.fresh_point (s : State) : (s.fresh).point = s.point := rfl
@[simp] theorem State.fresh_moving (s : State) : (s.fresh).moving = s.moving := rfl
@[simp] theorem State.fresh_stopAt (s : State) : (s.fresh).stopAt = s.stopAt := rfl
@[simp] theorem State.fresh_missed (s : State) : (s.fresh).missed = s.missed := rfl
@[simp] theorem State.fresh_ratio (s : State) : (s.fresh).ratio = s.ratio := rfl
@[simp] theorem State.fresh_power (s : State) : (s.fresh).power = s.power := rfl
@[simp] theorem State.fresh_paced (s : State) : (s.fresh).paced = s.paced := rfl
@[simp] theorem State.fresh_lock (s : State) : (s.fresh).lock = s.lock := rfl
@[simp] theorem State.fresh_dies (s : State) : (s.fresh).dies = s.dies := rfl
@[simp] theorem State.fresh_links (s : State) : (s.fresh).links = s.links := rfl
@[simp] theorem State.fresh_fuses (s : State) : (s.fresh).fuses = s.fuses := rfl
@[simp] theorem State.fresh_hub (s : State) : (s.fresh).hub = s.hub := rfl
@[simp] theorem State.fresh_heads (s : State) : (s.fresh).heads = s.heads := rfl
@[simp] theorem State.fresh_vencs (s : State) : (s.fresh).vencs = s.vencs := rfl
@[simp] theorem State.fresh_msix (s : State) : (s.fresh).msix = s.msix := rfl
@[simp] theorem State.fresh_msgs (s : State) : (s.fresh).msgs = s.msgs := rfl
@[simp] theorem State.fresh_answers (s : State) : (s.fresh).answers = s.answers := rfl
@[simp] theorem State.fresh_ctxs (s : State) : (s.fresh).ctxs = s.ctxs := rfl
@[simp] theorem State.fresh_queues (s : State) : (s.fresh).queues = s.queues := rfl
@[simp] theorem State.fresh_transit (s : State) : (s.fresh).transit = s.transit := rfl
@[simp] theorem State.fresh_mdisp (s : State) : (s.fresh).mdisp = s.mdisp := rfl
@[simp] theorem State.fresh_claims (s : State) : (s.fresh).claims = s.claims := rfl
@[simp] theorem State.fresh_steals (s : State) : (s.fresh).steals = s.steals := rfl
@[simp] theorem State.fresh_teams (s : State) : (s.fresh).teams = s.teams := rfl
@[simp] theorem State.fresh_waves (s : State) : (s.fresh).waves = s.waves := rfl
@[simp] theorem State.fresh_carve (s : State) : (s.fresh).carve = s.carve := rfl
@[simp] theorem State.fresh_mem (s : State) : (s.fresh).mem = s.mem := rfl
@[simp] theorem State.fresh_l2old (s : State) : (s.fresh).l2old = s.l2old := rfl
@[simp] theorem State.fresh_l2clean (s : State) : (s.fresh).l2clean = s.l2clean := rfl
@[simp] theorem State.fresh_sys (s : State) : (s.fresh).sys = s.sys := rfl
@[simp] theorem State.fresh_l1 (s : State) : (s.fresh).l1 = s.l1 := rfl
@[simp] theorem State.fresh_tlb1 (s : State) : (s.fresh).tlb1 = s.tlb1 := rfl
@[simp] theorem State.fresh_tlb2 (s : State) : (s.fresh).tlb2 = s.tlb2 := rfl
@[simp] theorem State.fresh_walks (s : State) : (s.fresh).walks = s.walks := rfl
@[simp] theorem State.fresh_wfault (s : State) : (s.fresh).wfault = s.wfault := rfl
@[simp] theorem State.fresh_mons (s : State) : (s.fresh).mons = s.mons := rfl
@[simp] theorem State.fresh_poison (s : State) : (s.fresh).poison = s.poison := rfl
@[simp] theorem State.fresh_longs (s : State) : (s.fresh).longs = s.longs := rfl
@[simp] theorem State.fresh_vqs (s : State) : (s.fresh).vqs = s.vqs := rfl
@[simp] theorem State.fresh_engines (s : State) : (s.fresh).engines = s.engines := rfl
@[simp] theorem State.fresh_seqs (s : State) : (s.fresh).seqs = s.seqs := rfl
@[simp] theorem State.fresh_savedSeqs (s : State) : (s.fresh).savedSeqs = s.savedSeqs := rfl
@[simp] theorem State.fresh_rngs (s : State) : (s.fresh).rngs = s.rngs := rfl
@[simp] theorem State.fresh_kerns (s : State) : (s.fresh).kerns = s.kerns := rfl
@[simp] theorem State.fresh_savedKerns (s : State) : (s.fresh).savedKerns = s.savedKerns := rfl
@[simp] theorem State.fresh_counts (s : State) : (s.fresh).counts = s.counts := rfl

@[simp] theorem State.pageWait_sched (s : State) (c : Nat) : (s.pageWait c).sched = s.sched := rfl
@[simp] theorem State.pageWait_cur (s : State) (c : Nat) : (s.pageWait c).cur = s.cur := rfl
@[simp] theorem State.pageWait_issue (s : State) (c : Nat) : (s.pageWait c).issue = s.issue := rfl
@[simp] theorem State.pageWait_free (s : State) (c : Nat) : (s.pageWait c).free = s.free := rfl
@[simp] theorem State.pageWait_nextId (s : State) (c : Nat) : (s.pageWait c).nextId = s.nextId := rfl
@[simp] theorem State.pageWait_hclk (s : State) (c : Nat) : (s.pageWait c).hclk = s.hclk := rfl
@[simp] theorem State.pageWait_aclk (s : State) (c : Nat) : (s.pageWait c).aclk = s.aclk := rfl
@[simp] theorem State.pageWait_mclk (s : State) (c : Nat) : (s.pageWait c).mclk = s.mclk := rfl
@[simp] theorem State.pageWait_point (s : State) (c : Nat) : (s.pageWait c).point = s.point := rfl
@[simp] theorem State.pageWait_moving (s : State) (c : Nat) : (s.pageWait c).moving = s.moving := rfl
@[simp] theorem State.pageWait_stopAt (s : State) (c : Nat) : (s.pageWait c).stopAt = s.stopAt := rfl
@[simp] theorem State.pageWait_missed (s : State) (c : Nat) : (s.pageWait c).missed = s.missed := rfl
@[simp] theorem State.pageWait_ratio (s : State) (c : Nat) : (s.pageWait c).ratio = s.ratio := rfl
@[simp] theorem State.pageWait_power (s : State) (c : Nat) : (s.pageWait c).power = s.power := rfl
@[simp] theorem State.pageWait_paced (s : State) (c : Nat) : (s.pageWait c).paced = s.paced := rfl
@[simp] theorem State.pageWait_lock (s : State) (c : Nat) : (s.pageWait c).lock = s.lock := rfl
@[simp] theorem State.pageWait_dies (s : State) (c : Nat) : (s.pageWait c).dies = s.dies := rfl
@[simp] theorem State.pageWait_links (s : State) (c : Nat) : (s.pageWait c).links = s.links := rfl
@[simp] theorem State.pageWait_fuses (s : State) (c : Nat) : (s.pageWait c).fuses = s.fuses := rfl
@[simp] theorem State.pageWait_hub (s : State) (c : Nat) : (s.pageWait c).hub = s.hub := rfl
@[simp] theorem State.pageWait_heads (s : State) (c : Nat) : (s.pageWait c).heads = s.heads := rfl
@[simp] theorem State.pageWait_vencs (s : State) (c : Nat) : (s.pageWait c).vencs = s.vencs := rfl
@[simp] theorem State.pageWait_msix (s : State) (c : Nat) : (s.pageWait c).msix = s.msix := rfl
@[simp] theorem State.pageWait_msgs (s : State) (c : Nat) : (s.pageWait c).msgs = s.msgs := rfl
@[simp] theorem State.pageWait_answers (s : State) (c : Nat) : (s.pageWait c).answers = s.answers := rfl
@[simp] theorem State.pageWait_queues (s : State) (c : Nat) : (s.pageWait c).queues = s.queues := rfl
@[simp] theorem State.pageWait_transit (s : State) (c : Nat) : (s.pageWait c).transit = s.transit := rfl
@[simp] theorem State.pageWait_mdisp (s : State) (c : Nat) : (s.pageWait c).mdisp = s.mdisp := rfl
@[simp] theorem State.pageWait_claims (s : State) (c : Nat) : (s.pageWait c).claims = s.claims := rfl
@[simp] theorem State.pageWait_steals (s : State) (c : Nat) : (s.pageWait c).steals = s.steals := rfl
@[simp] theorem State.pageWait_teams (s : State) (c : Nat) : (s.pageWait c).teams = s.teams := rfl
@[simp] theorem State.pageWait_waves (s : State) (c : Nat) : (s.pageWait c).waves = s.waves := rfl
@[simp] theorem State.pageWait_carve (s : State) (c : Nat) : (s.pageWait c).carve = s.carve := rfl
@[simp] theorem State.pageWait_mem (s : State) (c : Nat) : (s.pageWait c).mem = s.mem := rfl
@[simp] theorem State.pageWait_l2old (s : State) (c : Nat) : (s.pageWait c).l2old = s.l2old := rfl
@[simp] theorem State.pageWait_l2clean (s : State) (c : Nat) : (s.pageWait c).l2clean = s.l2clean := rfl
@[simp] theorem State.pageWait_sys (s : State) (c : Nat) : (s.pageWait c).sys = s.sys := rfl
@[simp] theorem State.pageWait_l1 (s : State) (c : Nat) : (s.pageWait c).l1 = s.l1 := rfl
@[simp] theorem State.pageWait_tlb1 (s : State) (c : Nat) : (s.pageWait c).tlb1 = s.tlb1 := rfl
@[simp] theorem State.pageWait_tlb2 (s : State) (c : Nat) : (s.pageWait c).tlb2 = s.tlb2 := rfl
@[simp] theorem State.pageWait_walks (s : State) (c : Nat) : (s.pageWait c).walks = s.walks := rfl
@[simp] theorem State.pageWait_wfault (s : State) (c : Nat) : (s.pageWait c).wfault = s.wfault := rfl
@[simp] theorem State.pageWait_mons (s : State) (c : Nat) : (s.pageWait c).mons = s.mons := rfl
@[simp] theorem State.pageWait_poison (s : State) (c : Nat) : (s.pageWait c).poison = s.poison := rfl
@[simp] theorem State.pageWait_longs (s : State) (c : Nat) : (s.pageWait c).longs = s.longs := rfl
@[simp] theorem State.pageWait_vqs (s : State) (c : Nat) : (s.pageWait c).vqs = s.vqs := rfl
@[simp] theorem State.pageWait_engines (s : State) (c : Nat) : (s.pageWait c).engines = s.engines := rfl
@[simp] theorem State.pageWait_seqs (s : State) (c : Nat) : (s.pageWait c).seqs = s.seqs := rfl
@[simp] theorem State.pageWait_savedSeqs (s : State) (c : Nat) : (s.pageWait c).savedSeqs = s.savedSeqs := rfl
@[simp] theorem State.pageWait_rngs (s : State) (c : Nat) : (s.pageWait c).rngs = s.rngs := rfl
@[simp] theorem State.pageWait_kerns (s : State) (c : Nat) : (s.pageWait c).kerns = s.kerns := rfl
@[simp] theorem State.pageWait_savedKerns (s : State) (c : Nat) : (s.pageWait c).savedKerns = s.savedKerns := rfl
@[simp] theorem State.pageWait_counts (s : State) (c : Nat) : (s.pageWait c).counts = s.counts := rfl

@[simp] theorem State.setWave_waves (s : State) (v : Nat) (x : Wave) : (s.setWave v x).waves = SMap.insert v x s.waves := rfl
@[simp] theorem State.setTeam_teams (s : State) (t : Nat) (x : Team) : (s.setTeam t x).teams = SMap.insert t x s.teams := rfl
@[simp] theorem State.setSeq_seqs (s : State) (k : Nat) (x : Seq) : (s.setSeq k x).seqs = SMap.insert k x s.seqs := rfl
@[simp] theorem State.setKern_kerns (s : State) (m : Nat) (x : Kern) : (s.setKern m x).kerns = SMap.insert m x s.kerns := rfl
@[simp] theorem State.setQueue_queues (s : State) (q : Nat) (x : Queue) : (s.setQueue q x).queues = SMap.insert q x s.queues := rfl
@[simp] theorem State.setCtx_ctxs (s : State) (c : Nat) (x : Ctx) : (s.setCtx c x).ctxs = SMap.set Ctx.reset c x s.ctxs := rfl
@[simp] theorem State.setDie_dies (s : State) (d : Nat) (x : Die) : (s.setDie d x).dies = SMap.set Die.reset d x s.dies := rfl
@[simp] theorem State.waitIssue_issue (s : State) : s.waitIssue.issue = .wait := rfl
@[simp] theorem State.fresh_nextId (s : State) : s.fresh.nextId = s.nextId + 1 := rfl
@[simp] theorem State.send_hub (s : State) (r : Report) : (s.send r).hub = { s.hub with reports := s.hub.reports ++ [r] } := rfl

end Sys2Proof.Machine
end

