-- ==== Sys2Proof/Laws/Memory.lean ====
section
/-!
SUPPORT. Memory: what a byte written at its home reads as, what a write leaves alone, and that every operation over memory
keeps the canonical form.
-/

namespace Sys2Proof.Machine

set_option Elab.async false

/-! ### Bytes at their homes -/

theorem State.memWf_iff (s : State) : s.memWf = true ↔ SMap.wf 0 s.mem = true ∧ SMap.wf 0 s.sys = true := by
  simp [State.memWf, Memory.wf]

/-- Reset memory lists nothing. -/
theorem reset_memWf : State.reset.memWf = true := rfl

/-- A home cache that takes a dirty line changes only what it holds. -/
theorem holdDirty_frame (s : State) (ln : Nat) : holdDirty s ln = { s with l2old := (holdDirty s ln).l2old, l2clean := (holdDirty s ln).l2clean } := by
  unfold holdDirty; split <;> rfl

@[simp] theorem holdDirty_mem (s : State) (ln : Nat) : (holdDirty s ln).mem = s.mem := by rw [holdDirty_frame]

/-- All that a write of one byte at its home can change. -/
theorem homeWrite_frame (s : State) (pa : Nat) (b : Byte) :
    homeWrite s pa b = { s with
      mem := (homeWrite s pa b).mem
      sys := (homeWrite s pa b).sys
      l2old := (homeWrite s pa b).l2old
      l2clean := (homeWrite s pa b).l2clean } := by
  unfold homeWrite; split
  · rfl
  · rw [holdDirty_frame]

theorem homeWrite_mem (s : State) (pa : Nat) (b : Byte) :
    (homeWrite s pa b).mem = if isSys pa then s.mem else SMap.set 0 pa b s.mem := by
  unfold homeWrite; split
  · rfl
  · simp

theorem homeWrite_sys (s : State) (pa : Nat) (b : Byte) :
    (homeWrite s pa b).sys = if isSys pa then SMap.set 0 (busAddr s pa) b s.sys else s.sys := by
  unfold homeWrite; split
  · rfl
  · rw [holdDirty_frame]

@[simp] theorem homeWrite_hub (s : State) (pa : Nat) (b : Byte) : (homeWrite s pa b).hub = s.hub := by
  rw [homeWrite_frame]

@[simp] theorem busAddr_homeWrite (s : State) (pa : Nat) (b : Byte) (a : Nat) : busAddr (homeWrite s pa b) a = busAddr s a := by
  simp [busAddr]

/-- A byte written in DRAM reads as written. -/
theorem homeByte_homeWrite (s : State) (pa : Nat) (b : Byte) (h : s.memWf = true) : homeByte (homeWrite s pa b) pa = b := by
  rw [State.memWf_iff] at h
  unfold homeByte
  by_cases hs : isSys pa = true
  · simp only [hs, homeWrite_sys, busAddr_homeWrite, if_true]; exact SMap.get_set h.2 _ _
  · simp only [hs, homeWrite_mem, if_false, Bool.false_eq_true]; exact SMap.get_set h.1 _ _

/-- A byte elsewhere reads as before: another address of DRAM, or another bus address of host memory. -/
theorem homeByte_homeWrite_ne (s : State) {pa a : Nat} (b : Byte) (h : a ≠ pa)
    (hb : isSys a = true → isSys pa = true → busAddr s a ≠ busAddr s pa) : homeByte (homeWrite s pa b) a = homeByte s a := by
  unfold homeByte
  by_cases hs : isSys pa = true
  · by_cases ha : isSys a = true
    · simp [hs, ha, homeWrite_sys, SMap.get_set_ne _ _ _ (hb ha hs)]
    · simp [hs, ha, homeWrite_mem]
  · by_cases ha : isSys a = true
    · simp [hs, ha, homeWrite_sys]
    · simp [hs, ha, homeWrite_mem, SMap.get_set_ne _ _ _ h]

theorem homeWrite_memWf {s : State} (h : s.memWf = true) (pa : Nat) (b : Byte) : (homeWrite s pa b).memWf = true := by
  rw [State.memWf_iff] at h ⊢
  rw [homeWrite_mem, homeWrite_sys]
  constructor <;> split <;> first | exact h.1 | exact h.2 | exact SMap.wf_set h.1 _ _ | exact SMap.wf_set h.2 _ _

/-! ### Folds -/

/-- A property that every round of a fold keeps holds at its end. -/
theorem foldl_keeps {α β : Type} (P : α → Prop) (f : α → β → α) (hf : ∀ a b, P a → P (f a b)) (l : List β) :
    ∀ a, P a → P (l.foldl f a) := by
  induction l with
  | nil => intro a h; exact h
  | cons b l ih => intro a h; exact ih _ (hf a b h)

/-- Setting bytes one after the other keeps the canonical form. -/
theorem setBytes_wf (base : Nat) (l : List (Byte × Nat)) {m : SMap Byte} (h : SMap.wf 0 m = true) :
    SMap.wf 0 (l.foldl (fun (m : SMap Byte) b => SMap.set 0 (base + b.2) b.1 m) m) = true :=
  foldl_keeps (fun m => SMap.wf 0 m = true) _ (fun _ _ h => SMap.wf_set h _ _) l m h

/-- The bytes of a write that are not lost, and the errors that it leaves (R25, R46). -/
theorem homeWrites_eq (s : State) (ws : List (Nat × Byte)) :
    ∃ (ok : List (Nat × Byte)) (p : List Nat), (∀ w ∈ ok, w ∈ ws) ∧ homeWrites s ws = ok.foldl (fun s w => homeWrite s w.1 w.2) { s with poison := p } := by
  unfold homeWrites
  dsimp only
  refine ⟨if s.poison = [] ∧ s.dies = [] then ws else ws.filter (fun w => (byteLoss s ws w.1).isNone),
    if s.poison = [] then s.poison else s.poison.filter (fun x => !wholeSector
      (if s.poison = [] ∧ s.dies = [] then ws else ws.filter (fun w => (byteLoss s ws w.1).isNone)) x), ?_, ?_⟩
  · intro w hw
    split at hw
    · exact hw
    · exact (List.mem_filter.mp hw).1
  · congr 1
    split <;> rfl

theorem homeWrites_memWf {s : State} (h : s.memWf = true) (ws : List (Nat × Byte)) : (homeWrites s ws).memWf = true := by
  obtain ⟨ok, p, -, he⟩ := homeWrites_eq s ws
  rw [he]
  exact foldl_keeps (fun s : State => s.memWf = true) _ (fun _ _ h => homeWrite_memWf h _ _) ok _ h

theorem homeWriteAll_frame (ws : List (Nat × Byte)) : ∀ s : State,
    ws.foldl (fun s w => homeWrite s w.1 w.2) s = { s with
      mem := (ws.foldl (fun s w => homeWrite s w.1 w.2) s).mem, sys := (ws.foldl (fun s w => homeWrite s w.1 w.2) s).sys
      l2old := (ws.foldl (fun s w => homeWrite s w.1 w.2) s).l2old,
      l2clean := (ws.foldl (fun s w => homeWrite s w.1 w.2) s).l2clean } := by
  induction ws with
  | nil => intro s; rfl
  | cons w ws ih =>
    intro s
    have h := ih (homeWrite s w.1 w.2)
    simp only [List.foldl_cons] at h ⊢
    rw [h]
    rw [homeWrite_frame]

/-- All that a write at the homes can change. -/
theorem homeWrites_frame (ws : List (Nat × Byte)) (s : State) :
    homeWrites s ws = { s with mem := (homeWrites s ws).mem, sys := (homeWrites s ws).sys,
                               l2old := (homeWrites s ws).l2old, l2clean := (homeWrites s ws).l2clean, poison := (homeWrites s ws).poison } := by
  obtain ⟨ok, p, -, he⟩ := homeWrites_eq s ws
  rw [he]
  conv_lhs => rw [homeWriteAll_frame]
  rw [homeWriteAll_frame]

/-- Bytes outside those written in DRAM read as before. -/
theorem homeByte_homeWriteAll_other (ws : List (Nat × Byte)) {a : Nat} (ha : isSys a = false) (h : ∀ w ∈ ws, a ≠ w.1) :
    ∀ s : State, homeByte (ws.foldl (fun s w => homeWrite s w.1 w.2) s) a = homeByte s a := by
  induction ws with
  | nil => intro s; rfl
  | cons w ws ih =>
    intro s
    have h1 := ih (fun u hu => h u (by simp [hu])) (homeWrite s w.1 w.2)
    simp only [List.foldl_cons] at h1 ⊢
    rw [h1]
    exact homeByte_homeWrite_ne s w.2 (h w (by simp)) (by simp [ha])

theorem homeByte_homeWrites_other (ws : List (Nat × Byte)) {a : Nat} (ha : isSys a = false) (h : ∀ w ∈ ws, a ≠ w.1)
    (s : State) : homeByte (homeWrites s ws) a = homeByte s a := by
  obtain ⟨ok, p, hin, he⟩ := homeWrites_eq s ws
  rw [he, homeByte_homeWriteAll_other ok ha (fun w hw => h w (hin w hw))]
  rfl

/-! ### The operations of the L1 and of the homes -/

theorem State.memWf_of_eq {s t : State} (hm : t.mem = s.mem) (hs : t.sys = s.sys) (h : s.memWf = true) : t.memWf = true := by
  rw [State.memWf_iff] at h ⊢; rw [hm, hs]; exact h

/-- Lines of the L1 are no memory of their own. -/
@[simp] theorem State.withL1_memWf (s : State) (x : SMap Line) : ({ s with l1 := x } : State).memWf = s.memWf := rfl

theorem applyParts_memWf {s : State} (h : s.memWf = true) (ln : Nat) (ps : List (Nat × Nat × Nat × Nat)) :
    (applyParts s ln ps).memWf = true :=
  foldl_keeps (fun s : State => s.memWf = true) _ (fun _ _ h => homeWrites_memWf h _) ps s h

theorem writeBack_memWf {s : State} (h : s.memWf = true) (ln : Nat) (x : Line) : (writeBack s ln x).memWf = true := by
  unfold writeBack; split
  · exact applyParts_memWf h _ _
  · exact homeWrites_memWf h _

theorem sendHome_memWf {s : State} (h : s.memWf = true) (ln : Nat) (x : Line) : (sendHome s ln x).memWf = true := by
  have hw := writeBack_memWf h ln x
  unfold sendHome; dsimp only; split
  · exact State.memWf_of_eq (s := writeBack s ln x) rfl rfl hw
  · exact hw

theorem wakeLane_memWf {s : State} (h : s.memWf = true) (v l : Nat) : (wakeLane s v l).memWf = true := by
  unfold wakeLane
  split
  · split
    · split
      · exact State.memWf_of_eq rfl rfl h
      · exact h
    · exact h
  · exact h

theorem wakeLine_memWf {s : State} (h : s.memWf = true) (ln : Nat) : (wakeLine s ln).memWf = true :=
  foldl_keeps (fun s : State => s.memWf = true) _ (fun _ _ h => wakeLane_memWf h _ _) _ s h

theorem recallOthers_memWf {s : State} (h : s.memWf = true) (g ln : Nat) : (recallOthers s g ln).memWf = true := by
  unfold recallOthers
  refine foldl_keeps (fun s : State => s.memWf = true) _ ?_ _ _ h
  intro s e h
  exact State.memWf_of_eq (s := sendHome s ln e.2) rfl rfl (sendHome_memWf h _ _)

theorem combineLine_memWf {s : State} (h : s.memWf = true) (ln : Nat) : (combineLine s ln).memWf = true := by
  unfold combineLine
  refine foldl_keeps (fun s : State => s.memWf = true) _ ?_ _ _ h
  intro s e h
  exact State.memWf_of_eq (s := sendHome s ln e.2) rfl rfl (sendHome_memWf h _ _)

theorem evictL1_memWf {s : State} (h : s.memWf = true) (k : Nat) (x : Line) : (evictL1 s k x).memWf = true := by
  unfold evictL1; split
  · exact combineLine_memWf h _
  · exact State.memWf_of_eq (s := sendHome s (l1Line k) x) rfl rfl (sendHome_memWf h _ _)

theorem makeRoom_memWf {s : State} (h : s.memWf = true) (g : Nat) : (makeRoom s g).memWf = true := by
  unfold makeRoom; split
  · exact h
  · split
    · exact evictL1_memWf h _ _
    · exact h

theorem bringS_memWf {s : State} (h : s.memWf = true) (g ln : Nat) : (bringS s g ln).memWf = true := by
  unfold bringS
  split
  · split
    · exact State.memWf_of_eq (s := combineLine s ln) rfl rfl (combineLine_memWf h ln)
    · exact h
  · dsimp only
    refine State.memWf_of_eq rfl rfl (foldl_keeps (fun s : State => s.memWf = true) (fun (s : State) (e : Nat × Line) =>
      { sendHome s ln e.2 with l1 := SMap.insert e.1 { e.2 with st := .s, dirty := 0 } (sendHome s ln e.2).l1 }) ?_ _ _
        (combineLine_memWf (makeRoom_memWf h g) ln))
    intro s e h
    exact State.memWf_of_eq (s := sendHome s ln e.2) rfl rfl (sendHome_memWf h _ _)

theorem bringM_memWf {s : State} (h : s.memWf = true) (g ln : Nat) : (bringM s g ln).memWf = true := by
  have hr := recallOthers_memWf h g ln
  unfold bringM
  dsimp only
  split
  · split
    · exact hr
    · split
      · exact State.memWf_of_eq rfl rfl hr
      · exact State.memWf_of_eq rfl rfl (sendHome_memWf hr _ _)
  · exact State.memWf_of_eq rfl rfl (makeRoom_memWf hr g)

theorem coreRead_memWf {s : State} (h : s.memWf = true) (g pa n : Nat) : (coreRead s g pa n).1.memWf = true := by
  unfold coreRead; dsimp only; split <;> exact bringS_memWf h _ _

theorem coreWrite_memWf {s : State} (h : s.memWf = true) (g pa : Nat) (bs : List Byte) : (coreWrite s g pa bs).memWf = true := by
  have hm := bringM_memWf h g (pa / 128)
  unfold coreWrite
  split
  · apply wakeLine_memWf
    rw [State.withL1_memWf]
    exact homeWrites_memWf h _
  · dsimp only
    generalize bringM s g (pa / 128) = t at hm
    split
    · apply wakeLine_memWf
      rw [State.withL1_memWf]
      exact hm
    · exact hm

theorem l1Release_memWf {s : State} (h : s.memWf = true) (g : Nat) : (l1Release s g).memWf = true := by
  unfold l1Release
  refine foldl_keeps (fun s : State => s.memWf = true) _ ?_ _ _ h
  intro s e h
  dsimp only
  split
  · exact combineLine_memWf h _
  · exact State.memWf_of_eq (s := writeBack s (l1Line e.1) e.2) rfl rfl (writeBack_memWf h _ _)

theorem l1Clean_memWf {s : State} (h : s.memWf = true) (g : Nat) : (l1Clean s g).memWf = true := by
  unfold l1Clean
  refine foldl_keeps (fun s : State => s.memWf = true) _ ?_ _ _ h
  intro s e h
  dsimp only
  split
  · exact combineLine_memWf h _
  · exact State.memWf_of_eq (s := sendHome s (l1Line e.1) e.2) rfl rfl (sendHome_memWf h _ _)

theorem l1Clear_memWf {s : State} (h : s.memWf = true) (g : Nat) : (l1Clear s g).memWf = true :=
  State.memWf_of_eq rfl rfl (l1Clean_memWf h g)

theorem l1Flush_memWf {s : State} (h : s.memWf = true) (g : Nat) : (l1Flush s g).memWf = true :=
  State.memWf_of_eq rfl rfl (l1Release_memWf h g)

theorem homeRead_memWf {s : State} (h : s.memWf = true) (all : Bool) (pa n : Nat) : (homeRead s all pa n).1.memWf = true := by
  unfold homeRead
  dsimp only
  split
  · refine foldl_keeps (fun s : State => s.memWf = true) _ ?_ _ _ (combineLine_memWf h _)
    intro s e h
    exact State.memWf_of_eq (s := sendHome s (pa / 128) e.2) rfl rfl (sendHome_memWf h _ _)
  · exact combineLine_memWf h _

theorem homeStore_memWf {s : State} (h : s.memWf = true) (pa : Nat) (bs : List Byte) : (homeStore s pa bs).memWf = true :=
  wakeLine_memWf (homeWrites_memWf (recallOthers_memWf h _ _) _) _

theorem asyncWrites_memWf {s : State} (h : s.memWf = true) (ws : List (Nat × Byte)) : (asyncWrites s ws).memWf = true :=
  homeWrites_memWf (foldl_keeps (fun s : State => s.memWf = true) _ (fun _ _ h => combineLine_memWf h _) _ s h) _

theorem asyncStore_memWf {s : State} (h : s.memWf = true) (pa : Nat) (bs : List Byte) : (asyncStore s pa bs).memWf = true :=
  asyncWrites_memWf h _

/-- A line recalled with no contribution pending changes nothing. -/
theorem combineLine_of_noParts {s : State} {ln : Nat} (h : noParts s ln) : combineLine s ln = s := by
  have : s.l1.filter (fun e => l1Line e.1 == ln && e.2.st == .u) = [] := by
    rw [List.filter_eq_nil_iff]
    intro e he
    simp only [Bool.and_eq_true, beq_iff_eq, not_and]
    exact fun hl hu => h e he hl hu
  simp [combineLine, this]

theorem hubRead_memWf {s : State} (h : s.memWf = true) (l : List (Nat × Nat)) : (hubRead s l).1.memWf = true := by
  unfold hubRead
  refine foldl_keeps (fun a : State × List Byte => a.1.memWf = true) _ ?_ (linesOf l) _ h
  intro a p ha
  exact homeRead_memWf ha true p.1 p.2

theorem hubWrite_memWf {s : State} (h : s.memWf = true) (l : List (Nat × Nat)) (bs : List Byte) : (hubWrite s l bs).memWf = true := by
  unfold hubWrite
  refine foldl_keeps (fun a : State × List Byte => a.1.memWf = true) _ ?_ (linesOf l) _ h
  intro a p ha
  exact homeStore_memWf ha p.1 _

/-! ### A block put into memory -/

/-- The listed bytes of a block stand in order, from its address on. -/
theorem blockCells_sorted (a : Nat) (bs : List Byte) : ∀ k,
    SMap.sortedFrom (a + k) ((bs.zipIdx k).filterMap (fun b => if b.1 = 0 then none else some (a + b.2, b.1))) = true := by
  induction bs with
  | nil => intro k; rfl
  | cons b bs ih =>
    intro k
    rw [List.zipIdx_cons, List.filterMap_cons]
    dsimp only
    split
    · exact SMap.sortedFrom_mono (by omega) (ih (k + 1))
    · rename_i h
      split at h
      · cases h
      · cases h
        simpa [SMap.sortedFrom, Nat.add_assoc] using ih (k + 1)

/-- A block put into memory keeps the canonical form. -/
theorem putBlock_wf {m : List Host.Cell} (h : Memory.wf m = true) (a : Nat) (bs : List Byte) :
    Memory.wf (putBlock m a bs) = true := by
  unfold Memory.wf SMap.wf at h ⊢
  rw [Bool.and_eq_true] at h ⊢
  obtain ⟨hs, hz⟩ := h
  have hb : SMap.sortedFrom a (bs.zipIdx.filterMap (fun b => if b.1 = 0 then none else some (a + b.2, b.1))) = true :=
    blockCells_sorted a bs 0
  have hin : ∀ e ∈ bs.zipIdx.filterMap (fun b => if b.1 = 0 then none else some (a + b.2, b.1)),
      e.1 < a + bs.length ∧ e.2 ≠ 0 := by
    intro e he
    obtain ⟨b, hb, hf⟩ := List.mem_filterMap.mp he
    split at hf
    · cases hf
    · rename_i hne
      cases hf
      have := List.snd_lt_of_mem_zipIdx hb
      exact ⟨by simpa using this, hne⟩
  constructor
  · unfold putBlock
    rw [List.append_assoc]
    refine SMap.sortedFrom_append (b := a) (SMap.sortedFrom_filter _ hs) (by simp) ?_ (Nat.zero_le _)
    refine SMap.sortedFrom_append (b := a + bs.length) hb (fun e he => (hin e he).1) ?_ (by omega)
    exact SMap.sortedFrom_filter_from hs _
  · unfold putBlock
    rw [List.all_append, List.all_append]
    simp only [Bool.and_eq_true, List.all_eq_true, List.mem_filter] at hz ⊢
    exact ⟨⟨fun e he => hz e he.1, fun e he => by simpa using (hin e he).2⟩, fun e he => hz e he.1⟩

end Sys2Proof.Machine
end

