-- ==== Sys2Proof/Laws/Ops.lean ====
section
/-!
SUPPORT. What each shared operation can do, said once: the unit that runs a word, the checks of a word, taking a fault, the
register writes of a word and an operation put in flight.
-/

namespace Sys2Proof.Machine

set_option Elab.async false

/-! ### Contexts -/

theorem State.ctx_setCtx {s : State} (h : SMap.sortedFrom 0 s.ctxs = true) (c : Nat) (x : Ctx) : (s.setCtx c x).ctx c = x :=
  SMap.get_set_sorted h c x

/-- A context set to another than its reset value reads as set, whatever the map. -/
theorem State.ctx_setCtx_of_ne (s : State) (c : Nat) {x : Ctx} (h : x ≠ Ctx.reset) : (s.setCtx c x).ctx c = x := by
  simp [State.ctx, State.setCtx, SMap.set, h, SMap.get]

theorem State.ctx_setCtx_other (s : State) {c d : Nat} (x : Ctx) (h : d ≠ c) : (s.setCtx c x).ctx d = s.ctx d :=
  SMap.get_set_ne _ _ _ h

@[simp] theorem State.find?_setWave (s : State) (v : Nat) (x : Wave) : SMap.find? (s.setWave v x).waves v = some x := by
  simp [State.setWave]

theorem State.find?_setWave_other (s : State) {v u : Nat} (x : Wave) (h : u ≠ v) :
    SMap.find? (s.setWave v x).waves u = SMap.find? s.waves u :=
  SMap.find?_insert_ne _ _ h

/-! ### The unit that runs a word -/

/-- What the context of a wave's word says of the state. -/
theorem waveOf_spec {s : State} {msel : BitVec 4} {x : WCtx} (h : waveOf s msel = some x) :
    s.cur = some (.wave x.v) ∧ SMap.find? s.waves x.v = some x.wv ∧ x.wv.run = some x.cl ∧
      nodeOf s x.wv.ctx x.wv.img x.wv.node = some x.nd ∧ x.e = execMask x.wv x.cl msel := by
  unfold waveOf at h
  split at h
  · split at h
    · split at h
      · cases h; exact ⟨‹_›, ‹_›, ‹_›, ‹_›, rfl⟩
      · cases h
    · cases h
  · cases h

theorem seqOf_spec {s : State} {x : SCtx} (h : seqOf s = some x) :
    s.cur = some (.seq x.k) ∧ SMap.find? s.seqs x.k = some x.sq ∧ x.sq.run = some x.cl := by
  unfold seqOf at h
  split at h
  · split at h
    · split at h
      · cases h; exact ⟨‹_›, ‹_›, ‹_›⟩
      · cases h
    · cases h
  · cases h

/-- A wave and a sequencer never run a word at once. -/
theorem waveOf_none_of_seqOf {s : State} {x : SCtx} (h : seqOf s = some x) (msel : BitVec 4) : waveOf s msel = none := by
  unfold waveOf; rw [(seqOf_spec h).1]

theorem onWave_of {s : State} {msel : BitVec 4} {x : WCtx} (h : waveOf s msel = some x) (f : WCtx → State) :
    onWave s msel f = .next (f x) := by
  simp [onWave, h]

theorem onSeq_of {s : State} {x : SCtx} (h : seqOf s = some x) (f : SCtx → State) : onSeq s f = .next (f x) := by
  simp [onSeq, h]

theorem onEither_of_wave {s : State} {msel : BitVec 4} {x : WCtx} (h : waveOf s msel = some x) (f : WCtx → State)
    (g : SCtx → State) : onEither s msel f g = .next (f x) := by
  simp [onEither, h]

theorem onEither_of_seq {s : State} {msel : BitVec 4} {x : SCtx} (h : seqOf s = some x) (f : WCtx → State)
    (g : SCtx → State) : onEither s msel f g = .next (g x) := by
  simp [onEither, waveOf_none_of_seqOf h, onSeq_of h]

/-- A word goes on only in the unit that runs it. -/
theorem onWave_next {s t : State} {msel : BitVec 4} {f : WCtx → State} (h : onWave s msel f = .next t) :
    ∃ x, waveOf s msel = some x ∧ t = f x := by
  unfold onWave at h; split at h
  · cases h; exact ⟨_, ‹_›, rfl⟩
  · cases h

theorem onSeq_next {s t : State} {f : SCtx → State} (h : onSeq s f = .next t) : ∃ x, seqOf s = some x ∧ t = f x := by
  unfold onSeq at h; split at h
  · cases h; exact ⟨_, ‹_›, rfl⟩
  · cases h

/-! ### Checks -/

/-- A word whose checks pass has its effect. -/
theorem checked_ok {s : State} {x : WCtx} {ops : List (OpKind2 × BitVec 9)} {lat : Nat} {own : Option FaultInfo} (t : State)
    (h : issueFault s x ops lat = none) (ho : own = none) : checked s x ops lat own t = t := by
  simp [checked, h, ho]

/-- A word either has its effect or takes the first fault of its checks, and nothing else. -/
theorem checked_cases (s : State) (x : WCtx) (ops : List (OpKind2 × BitVec 9)) (lat : Nat) (own : Option FaultInfo) (t : State) :
    (issueFault s x ops lat = none ∧ own = none ∧ checked s x ops lat own t = t) ∨
    ∃ f, (issueFault s x ops lat = some f ∨ (issueFault s x ops lat = none ∧ own = some f)) ∧
      checked s x ops lat own t = faultWave s x f := by
  unfold checked
  cases h : issueFault s x ops lat with
  | some f => exact .inr ⟨f, .inl rfl, rfl⟩
  | none =>
    cases own with
    | none => exact .inl ⟨rfl, rfl, rfl⟩
    | some f => exact .inr ⟨f, .inr ⟨rfl, rfl⟩, rfl⟩

theorem checkedSeq_ok {s : State} {x : SCtx} {ops : List (SeqKind × Bool × BitVec 9)} {own : Option FaultInfo} (t : State)
    (h : seqFault x ops = none) (hs : seqScb s x ops = none) (ho : own = none) : checkedSeq s x ops own t = t := by
  simp [checkedSeq, h, hs, ho]

/-- Without the checking scoreboard a sequencer word has no hazard of its own. -/
theorem seqScb_off {s : State} {x : SCtx} (ops : List (SeqKind × Bool × BitVec 9)) (h : (s.ctx x.sq.cons.ctx).dbgScb = false) :
    seqScb s x ops = none := by
  simp [seqScb, h]

/-! ### Taking a fault -/

/-- A report goes out, and nothing else happens. -/
theorem State.report_frame (s : State) (r : Report) : s.report r = { s with hub := (s.report r).hub } := rfl

@[simp] theorem State.send_ctx (s : State) (r : Report) (c : Nat) : (s.send r).ctx c = s.ctx c := rfl
@[simp] theorem State.report_ctx (s : State) (r : Report) (c : Nat) : (s.report r).ctx c = s.ctx c := rfl

/-- A fatal fault touches its context and the reports, and nothing else. -/
theorem State.fatal_frame (s : State) (r : Report) : s.fatal r = { s with ctxs := (s.fatal r).ctxs, hub := (s.fatal r).hub } := by
  unfold State.fatal; dsimp only; split <;> rfl

theorem State.fatal_of (s : State) (r : Report) (h : (s.ctx r.ctx).st = .active) :
    s.fatal r = (s.setCtx r.ctx { s.ctx r.ctx with st := .faulted, fatal := r.cause }).send r := by
  unfold State.fatal; exact if_pos h

theorem State.fatal_of_not (s : State) (r : Report) (h : (s.ctx r.ctx).st ≠ .active) : s.fatal r = s.report r := by
  unfold State.fatal; exact if_neg h

/-- The first fatal fault of a context takes it to FAULTED and names its cause; a later one leaves it (R59, R69). -/
theorem State.fatal_ctx (s : State) (r : Report) (h : (s.ctx r.ctx).st = .active) :
    (s.fatal r).ctx r.ctx = { s.ctx r.ctx with st := .faulted, fatal := r.cause } := by
  rw [State.fatal_of s r h, State.send_ctx, State.ctx_setCtx_of_ne]
  intro he; have := congrArg Ctx.st he; simp [Ctx.reset] at this

theorem State.fatal_ctx_later (s : State) (r : Report) (h : (s.ctx r.ctx).st ≠ .active) (c : Nat) :
    (s.fatal r).ctx c = s.ctx c := by
  rw [State.fatal_of_not s r h, State.report_ctx]

theorem State.fatal_ctx_other (s : State) (r : Report) {d : Nat} (h : d ≠ r.ctx) : (s.fatal r).ctx d = s.ctx d := by
  unfold State.fatal; dsimp only; split
  · rw [State.send_ctx]; exact State.ctx_setCtx_other s _ h
  · rfl

/-- A wave's fault stops the wave, faults its context and reports; registers, memory and other contexts stay. -/
theorem faultWave_frame (s : State) (x : WCtx) (f : FaultInfo) :
    faultWave s x f = { s with waves := SMap.insert x.v { x.wv with stopped := true } s.waves,
                               ctxs := (faultWave s x f).ctxs, hub := (faultWave s x f).hub, issue := .faulted } := by
  unfold faultWave
  rw [State.fatal_frame]
  rfl

theorem faultSeq_frame (s : State) (x : SCtx) (f : FaultInfo) :
    faultSeq s x f = { s with ctxs := (faultSeq s x f).ctxs, hub := (faultSeq s x f).hub, issue := .faulted } := by
  unfold faultSeq
  rw [State.fatal_frame]

/-- Logging pages touches the context, the reports and the kept walk faults, and nothing else. -/
theorem State.logPages_frame (s : State) (c unit wave pc : Nat) (pages : List (Nat × Nat × Nat × Mask)) :
    s.logPages c unit wave pc pages = { s with
      ctxs := (s.logPages c unit wave pc pages).ctxs
      hub := (s.logPages c unit wave pc pages).hub
      wfault := (s.logPages c unit wave pc pages).wfault } := by
  unfold State.logPages
  dsimp only
  have key : ∀ (l : List (Nat × Nat × Nat × Mask)) (f : State → (Nat × Nat × Nat × Mask) → State)
      (_ : ∀ (s : State) (p : Nat × Nat × Nat × Mask), f s p = { s with ctxs := (f s p).ctxs, hub := (f s p).hub }) (u : State),
      l.foldl f u = { u with ctxs := (l.foldl f u).ctxs, hub := (l.foldl f u).hub } := by
    intro l f hf
    induction l with
    | nil => intro u; rfl
    | cons p l ih => intro u; rw [List.foldl_cons, ih, hf u p]
  generalize hF : List.foldl _ _ pages = r
  have hk := hF.symm.trans (key pages _ (fun s p => by obtain ⟨a, b, c, d⟩ := p; split <;> rfl) _)
  have hw : r.wfault = _ := congrArg State.wfault hk
  rw [hF] at hk
  conv_lhs => rw [hk]
  rw [hw]
  rfl

/-! ### Register writes -/

theorem Wave.writeV_frame (free ready : Nat) (wv : Wave) (r l : Nat) (x : Word) :
    wv.writeV free ready r l x = { wv with v := (wv.writeV free ready r l x).v, haz := (wv.writeV free ready r l x).haz,
                                           ops := (wv.writeV free ready r l x).ops } := rfl

theorem Wave.writeW_frame (free ready : Nat) (wv : Wave) (r : Nat) (x : Word) :
    wv.writeW free ready r x = { wv with w := (wv.writeW free ready r x).w, haz := (wv.writeW free ready r x).haz,
                                         ops := (wv.writeW free ready r x).ops } := rfl

theorem Wave.putM_frame (free lat : Nat) (wv : Wave) (r : Nat) (e : Mask) (f : Nat → Bool) :
    wv.putM free lat r e f = { wv with m := (wv.putM free lat r e f).m, haz := (wv.putM free lat r e f).haz,
                                       ops := (wv.putM free lat r e f).ops } := by
  unfold Wave.putM; split <;> rfl

theorem Wave.putX_frame (free lat : Nat) (wv : Wave) (r : Nat) (e : Mask) (x : Nat × Nat) :
    wv.putX free lat r e x = { wv with x := (wv.putX free lat r e x).x, haz := (wv.putX free lat r e x).haz,
                                       ops := (wv.putX free lat r e x).ops } := rfl

/-- A value word's write touches the v and w registers and the model's record of hazards, and nothing else of the wave. -/
theorem Wave.put_frame (free lat : Nat) (wv : Wave) (code : BitVec 9) (e : Mask) (f : Nat → Word) :
    wv.put free lat code e f = { wv with
      v := (wv.put free lat code e f).v
      w := (wv.put free lat code e f).w
      haz := (wv.put free lat code e f).haz
      ops := (wv.put free lat code e f).ops } := by
  have key : ∀ (ls : List Nat) (g : Wave → Nat → Wave) (_ : ∀ u l, g u l = { u with v := (g u l).v, haz := (g u l).haz, ops := (g u l).ops })
      (u : Wave), ls.foldl g u = { u with v := (ls.foldl g u).v, haz := (ls.foldl g u).haz, ops := (ls.foldl g u).ops } := by
    intro ls g hg
    induction ls with
    | nil => intro u; rfl
    | cons l ls ih => intro u; rw [List.foldl_cons, ih, hg u l]
  unfold Wave.put
  dsimp only
  split
  · rw [key (lanesOf e) _ (fun u l => Wave.writeV_frame _ _ u _ l _)]
  · split
    · rfl
    · rw [Wave.writeW_frame]

/-- With no earlier write of a register still to become readable, a write of it leaves its value at once (R293). -/
theorem later_quiet (wv : Wave) (key ready : Nat) (h : wv.haz.any (fun h => h.key == key) = false) : wv.later key ready = false := by
  have : wv.haz.filter (fun h => h.key == key) = [] := by
    rw [List.filter_eq_nil_iff]; intro a ha
    rw [List.any_eq_false] at h; exact h a ha
  simp [Wave.later, Wave.until, this]

theorem keeps_quiet (free : Nat) (wv : Wave) (key l ready : Nat) (h : wv.haz.any (fun h => h.key == key) = false) :
    keeps free wv key l ready = false := by
  simp [keeps, later_quiet wv key ready h]

/-- A register on which no write is pending reads as the value it holds (R290). -/
theorem readKey_quiet (s : State) (wv : Wave) (key l : Nat) (now : Word) (h : pendingVals wv key = []) : readKey s wv key l now = now := by
  simp [readKey, choose, h]

/-! ### Operations in flight -/

/-- An operation in flight counts its token up and is listed; its registers stay as they are. -/
theorem launchTimed_of {s : State} {x : WCtx} {tok : BitVec 3} (h : tokenFull x.wv tok = false) (lo hi : Nat)
    (regs : List RegWrite) (wv : Wave) : launchTimed s x tok lo hi regs wv = inFlight s x tok lo hi regs wv := by
  simp [launchTimed, h, inFlight, State.fresh, State.setWave]

theorem launchRegs_of {s : State} {x : WCtx} {tok : BitVec 3} (h : tokenFull x.wv tok = false) (regs : List RegWrite) (wv : Wave) :
    launchRegs s x tok regs wv = inFlight s x tok 0 0 regs wv :=
  launchTimed_of h 0 0 regs wv

@[simp] theorem Wave.launch_v (wv : Wave) (op : PendOp) : (wv.launch op).v = wv.v := rfl
@[simp] theorem Wave.launch_w (wv : Wave) (op : PendOp) : (wv.launch op).w = wv.w := rfl
@[simp] theorem Wave.launch_m (wv : Wave) (op : PendOp) : (wv.launch op).m = wv.m := rfl
/-- An operation is listed behind the others, which stay as they are. -/
@[simp] theorem Wave.launch_ops (wv : Wave) (op : PendOp) : (wv.launch op).ops = wv.ops ++ [op] := rfl
@[simp] theorem Wave.launch_pcs (wv : Wave) (op : PendOp) : (wv.launch op).pcs = wv.pcs := rfl

/-! ### Threads -/

@[simp] theorem Wave.branch_v (wv : Wave) (cl : Clause) (ts : List (Nat × Nat)) : (wv.branch cl ts).v = wv.v := rfl
@[simp] theorem Wave.branch_pcs (wv : Wave) (cl : Clause) (ts : List (Nat × Nat)) : (wv.branch cl ts).pcs = wv.pcs := rfl
@[simp] theorem Wave.waitLanes_v (wv : Wave) (cl : Clause) (e : Mask) (why : Nat → Why) : (wv.waitLanes cl e why).v = wv.v := rfl
@[simp] theorem Wave.waitLanes_m (wv : Wave) (cl : Clause) (e : Mask) (why : Nat → Why) : (wv.waitLanes cl e why).m = wv.m := rfl
@[simp] theorem Wave.wakeLanes_v (wv : Wave) (now : Nat) (e : Mask) : (wv.wakeLanes now e).v = wv.v := rfl
@[simp] theorem Wave.wakeLanes_m (wv : Wave) (now : Nat) (e : Mask) : (wv.wakeLanes now e).m = wv.m := rfl

/-! ### Memory words -/

/-- A memory word that passes every check of R288 and R369 and translates runs its body with the addresses. -/
theorem memWord_of {s : State} {w : VWord} {x : WCtx} {t : Team} {ops : List (OpKind2 × BitVec 9)} {accs : WCtx → List LaneAcc}
    {pas : List Nat} (body : WCtx → Team → List Nat → State) (hw : waveOf s w.msel = some x) (ht : teamOf s x.wv = some t)
    (hf : issueFault s x ops 1000 = none) (he : x.e ≠ 0) (ha : addrFault t (regionSize x.nd) (accs x) = none)
    (hk : tokenFull x.wv w.token = false) (hg : waveGate s x (((accs x).filter (·.glob)).map reqOf) = .go pas) :
    memWord s w ops accs body = .next (body x t pas) := by
  have he' : ¬ x.e = 0#64 := he
  simp [memWord, onWave_of hw, ht, checked, hf, he', ha, hk, hg, Gate.run]

end Sys2Proof.Machine
end

