-- ==== Sys2Proof/Laws/PerInstr.lean ====
section
/-!
SUPPORT. The family RoundTrip: decoding the words of a well-formed native or moraine instruction gives it back. First the
fields of an encoded word, then one lemma for each constructor.
-/

namespace Sys2Proof

set_option Elab.async false

set_option linter.unusedSimpArgs false

theorem vEnc_maj (m : BitVec 6) (f : BitVec 7) (w : VWord) : (vEnc m f w).extractLsb' 58 6 = m := by
  simp only [vEnc]
  simp (disch := decide) only [BitVec.extractLsb'_append_eq_of_le, BitVec.extractLsb'_append_eq_of_add_le,
    BitVec.extractLsb'_eq_self, Nat.reduceSub]
  try rfl

theorem vEnc_func (m : BitVec 6) (f : BitVec 7) (w : VWord) : (vEnc m f w).extractLsb' 51 7 = f := by
  simp only [vEnc]
  simp (disch := decide) only [BitVec.extractLsb'_append_eq_of_le, BitVec.extractLsb'_append_eq_of_add_le,
    BitVec.extractLsb'_eq_self, Nat.reduceSub]
  try rfl

theorem vEnc_top (m : BitVec 6) (f : BitVec 7) (w : VWord) : (vEnc m f w).extractLsb' 60 4 = m.extractLsb' 2 4 := by
  simp only [vEnc]
  simp (disch := decide) only [BitVec.extractLsb'_append_eq_of_le, BitVec.extractLsb'_append_eq_of_add_le,
    BitVec.extractLsb'_eq_self, Nat.reduceSub]
  try rfl

theorem lEnc_maj (m : BitVec 6) (f : BitVec 7) (w : LWord) : (lEnc m f w).extractLsb' 58 6 = m := by
  simp only [lEnc]
  simp (disch := decide) only [BitVec.extractLsb'_append_eq_of_le, BitVec.extractLsb'_append_eq_of_add_le,
    BitVec.extractLsb'_eq_self, Nat.reduceSub]
  try rfl

theorem lEnc_func (m : BitVec 6) (f : BitVec 7) (w : LWord) : (lEnc m f w).extractLsb' 51 7 = f := by
  simp only [lEnc]
  simp (disch := decide) only [BitVec.extractLsb'_append_eq_of_le, BitVec.extractLsb'_append_eq_of_add_le,
    BitVec.extractLsb'_eq_self, Nat.reduceSub]
  try rfl

theorem lEnc_top (m : BitVec 6) (f : BitVec 7) (w : LWord) : (lEnc m f w).extractLsb' 60 4 = m.extractLsb' 2 4 := by
  simp only [lEnc]
  simp (disch := decide) only [BitVec.extractLsb'_append_eq_of_le, BitVec.extractLsb'_append_eq_of_add_le,
    BitVec.extractLsb'_eq_self, Nat.reduceSub]
  try rfl

theorem lEnc_pad (m : BitVec 6) (f : BitVec 7) (w : LWord) : (lEnc m f w).extractLsb' 32 4 = 0 := by
  simp only [lEnc]
  simp (disch := decide) only [BitVec.extractLsb'_append_eq_of_le, BitVec.extractLsb'_append_eq_of_add_le,
    BitVec.extractLsb'_eq_self, Nat.reduceSub]
  try rfl

theorem cEnc_maj (m : BitVec 6) (f : BitVec 7) (w : CWord) : (cEnc m f w).extractLsb' 58 6 = m := by
  simp only [cEnc]
  simp (disch := decide) only [BitVec.extractLsb'_append_eq_of_le, BitVec.extractLsb'_append_eq_of_add_le,
    BitVec.extractLsb'_eq_self, Nat.reduceSub]
  try rfl

theorem cEnc_func (m : BitVec 6) (f : BitVec 7) (w : CWord) : (cEnc m f w).extractLsb' 51 7 = f := by
  simp only [cEnc]
  simp (disch := decide) only [BitVec.extractLsb'_append_eq_of_le, BitVec.extractLsb'_append_eq_of_add_le,
    BitVec.extractLsb'_eq_self, Nat.reduceSub]
  try rfl

theorem cEnc_top (m : BitVec 6) (f : BitVec 7) (w : CWord) : (cEnc m f w).extractLsb' 60 4 = m.extractLsb' 2 4 := by
  simp only [cEnc]
  simp (disch := decide) only [BitVec.extractLsb'_append_eq_of_le, BitVec.extractLsb'_append_eq_of_add_le,
    BitVec.extractLsb'_eq_self, Nat.reduceSub]
  try rfl

theorem cEnc_pad (m : BitVec 6) (f : BitVec 7) (w : CWord) : (cEnc m f w).extractLsb' 33 3 = 0 := by
  simp only [cEnc]
  simp (disch := decide) only [BitVec.extractLsb'_append_eq_of_le, BitVec.extractLsb'_append_eq_of_add_le,
    BitVec.extractLsb'_eq_self, Nat.reduceSub]
  try rfl

theorem cEnc_low (m : BitVec 6) (f : BitVec 7) (w : CWord) : (cEnc m f w).extractLsb' 0 5 = 0 := by
  simp only [cEnc]
  simp (disch := decide) only [BitVec.extractLsb'_append_eq_of_le, BitVec.extractLsb'_append_eq_of_add_le,
    BitVec.extractLsb'_eq_self, Nat.reduceSub]
  try rfl

theorem mrEnc_op (m : BitVec 6) (w : MR) : (mrEnc m w).extractLsb' 26 6 = m := by
  simp only [mrEnc]
  simp (disch := decide) only [BitVec.extractLsb'_append_eq_of_le, BitVec.extractLsb'_append_eq_of_add_le,
    BitVec.extractLsb'_eq_self, Nat.reduceSub]
  try rfl

theorem miEnc_op (m : BitVec 6) (w : MI) : (miEnc m w).extractLsb' 26 6 = m := by
  simp only [miEnc]
  simp (disch := decide) only [BitVec.extractLsb'_append_eq_of_le, BitVec.extractLsb'_append_eq_of_add_le,
    BitVec.extractLsb'_eq_self, Nat.reduceSub]
  try rfl

theorem mhEnc_op (m : BitVec 6) (w : MH) : (mhEnc m w).extractLsb' 26 6 = m := by
  simp only [mhEnc]
  simp (disch := decide) only [BitVec.extractLsb'_append_eq_of_le, BitVec.extractLsb'_append_eq_of_add_le,
    BitVec.extractLsb'_eq_self, Nat.reduceSub]
  try rfl

theorem mhEnc_pad (m : BitVec 6) (w : MH) : (mhEnc m w).extractLsb' 16 2 = 0 := by
  simp only [mhEnc]
  simp (disch := decide) only [BitVec.extractLsb'_append_eq_of_le, BitVec.extractLsb'_append_eq_of_add_le,
    BitVec.extractLsb'_eq_self, Nat.reduceSub]
  try rfl

theorem mjEnc_op (m : BitVec 6) (w : MJ) : (mjEnc m w).extractLsb' 26 6 = m := by
  simp only [mjEnc]
  simp (disch := decide) only [BitVec.extractLsb'_append_eq_of_le, BitVec.extractLsb'_append_eq_of_add_le,
    BitVec.extractLsb'_eq_self, Nat.reduceSub]
  try rfl

theorem vWordOf_vEnc (m : BitVec 6) (f : BitVec 7) (w : VWord) : vWordOf (vEnc m f w) = w := by
  obtain ⟨st, tk, d, a, b, c, ms, ru, md⟩ := w
  simp only [vWordOf, vEnc, VWord.mk.injEq]
  refine ⟨?_, ?_, ?_, ?_, ?_, ?_, ?_, ?_, ?_⟩
  all_goals simp (disch := decide) only [BitVec.extractLsb'_append_eq_of_le, BitVec.extractLsb'_append_eq_of_add_le,
    BitVec.extractLsb'_eq_self, Nat.reduceSub, BitVec.getLsbD_append]
  all_goals try simp

theorem lWordOf_lEnc (m : BitVec 6) (f : BitVec 7) (w : LWord) : lWordOf (lEnc m f w) = w := by
  obtain ⟨st, tk, d, im⟩ := w
  simp only [lWordOf, lEnc, LWord.mk.injEq]
  refine ⟨?_, ?_, ?_, ?_⟩
  all_goals simp (disch := decide) only [BitVec.extractLsb'_append_eq_of_le, BitVec.extractLsb'_append_eq_of_add_le,
    BitVec.extractLsb'_eq_self, Nat.reduceSub, BitVec.getLsbD_append]

theorem cWordOf_cEnc (m : BitVec 6) (f : BitVec 7) (w : CWord) : cWordOf (cEnc m f w) = w := by
  obtain ⟨st, tk, d, of, ms⟩ := w
  simp only [cWordOf, cEnc, CWord.mk.injEq]
  refine ⟨?_, ?_, ?_, ?_, ?_⟩
  all_goals simp (disch := decide) only [BitVec.extractLsb'_append_eq_of_le, BitVec.extractLsb'_append_eq_of_add_le,
    BitVec.extractLsb'_eq_self, Nat.reduceSub, BitVec.getLsbD_append]

theorem mrOf_mrEnc (m : BitVec 6) (w : MR) : mrOf (mrEnc m w) = w := by
  obtain ⟨d, a, b, p, t, f⟩ := w
  simp only [mrOf, mrEnc, MR.mk.injEq]
  refine ⟨?_, ?_, ?_, ?_, ?_, ?_⟩
  all_goals simp (disch := decide) only [BitVec.extractLsb'_append_eq_of_le, BitVec.extractLsb'_append_eq_of_add_le,
    BitVec.extractLsb'_eq_self, Nat.reduceSub, BitVec.getLsbD_append]

theorem miOf_miEnc (m : BitVec 6) (w : MI) : miOf (miEnc m w) = w := by
  obtain ⟨d, a, im⟩ := w
  simp only [miOf, miEnc, MI.mk.injEq]
  refine ⟨?_, ?_, ?_⟩
  all_goals simp (disch := decide) only [BitVec.extractLsb'_append_eq_of_le, BitVec.extractLsb'_append_eq_of_add_le,
    BitVec.extractLsb'_eq_self, Nat.reduceSub, BitVec.getLsbD_append]

theorem mhOf_mhEnc (m : BitVec 6) (w : MH) : mhOf (mhEnc m w) = w := by
  obtain ⟨d, sh, z, im⟩ := w
  simp only [mhOf, mhEnc, MH.mk.injEq]
  refine ⟨?_, ?_, ?_, ?_⟩
  all_goals simp (disch := decide) only [BitVec.extractLsb'_append_eq_of_le, BitVec.extractLsb'_append_eq_of_add_le,
    BitVec.extractLsb'_eq_self, Nat.reduceSub, BitVec.getLsbD_append]
  all_goals try simp

theorem mjOf_mjEnc (m : BitVec 6) (w : MJ) : mjOf (mjEnc m w) = w := by
  obtain ⟨t, of⟩ := w
  simp only [mjOf, mjEnc, MJ.mk.injEq]
  refine ⟨?_, ?_⟩
  all_goals simp (disch := decide) only [BitVec.extractLsb'_append_eq_of_le, BitVec.extractLsb'_append_eq_of_add_le,
    BitVec.extractLsb'_eq_self, Nat.reduceSub, BitVec.getLsbD_append]

/-- A word that names no clause mark, with an instruction at its opcode, clear reserved bits and good fields, decodes to it. -/
theorem decodeNative_of (x : DWord) (m f : Nat) (i : Instr) (hm : (x.extractLsb' 58 6).toNat = m)
    (hf : (x.extractLsb' 51 7).toNat = f) (ht : x.extractLsb' 60 4 ≠ 15) (hi : instrOf m f x = some i)
    (hr : rawReserved m f x = false) (hw : i.reason = none) : decodeNative x = .ok i := by
  subst hm hf; simp only [decodeNative, hi, hr, hw]; rw [if_neg ht]; rfl

theorem decodeMoraine_of (x : Word) (m : Nat) (i : Instr) (hm : (x.extractLsb' 26 6).toNat = m)
    (hi : moraineOf m x = some i)
    (hr : ¬ ((m = 0x17 ∧ x.extractLsb' 16 2 ≠ 0) ∨ ((m = 0x1E ∨ m = 0x1F) ∧ x.extractLsb' 0 26 ≠ 0)))
    (hw : i.reason = none) : decodeMoraine x = .ok i := by
  subst hm; simp only [decodeMoraine, hi, hw]; rw [if_neg hr]

theorem decode_vEnc (m : BitVec 6) (f : BitVec 7) (w : VWord) (g : VWord → Instr) (ht : m.extractLsb' 2 4 ≠ 15)
    (hi : instrOf m.toNat f.toNat (vEnc m f w) = some (g (vWordOf (vEnc m f w))))
    (hr : rawReserved m.toNat f.toNat (vEnc m f w) = false) (hw : (g w).reason = none) : decodeNative (vEnc m f w) = .ok (g w) :=
  decodeNative_of _ m.toNat f.toNat (g w) (by rw [vEnc_maj]) (by rw [vEnc_func]) (by rw [vEnc_top]; exact ht)
    (by rw [hi, vWordOf_vEnc]) hr hw

theorem decode_lEnc (m : BitVec 6) (f : BitVec 7) (w : LWord) (g : LWord → Instr) (ht : m.extractLsb' 2 4 ≠ 15)
    (hi : instrOf m.toNat f.toNat (lEnc m f w) = some (g (lWordOf (lEnc m f w))))
    (hr : rawReserved m.toNat f.toNat (lEnc m f w) = false) (hw : (g w).reason = none) : decodeNative (lEnc m f w) = .ok (g w) :=
  decodeNative_of _ m.toNat f.toNat (g w) (by rw [lEnc_maj]) (by rw [lEnc_func]) (by rw [lEnc_top]; exact ht)
    (by rw [hi, lWordOf_lEnc]) hr hw

theorem decode_cEnc (m : BitVec 6) (f : BitVec 7) (w : CWord) (g : CWord → Instr) (ht : m.extractLsb' 2 4 ≠ 15)
    (hi : instrOf m.toNat f.toNat (cEnc m f w) = some (g (cWordOf (cEnc m f w))))
    (hr : rawReserved m.toNat f.toNat (cEnc m f w) = false) (hw : (g w).reason = none) : decodeNative (cEnc m f w) = .ok (g w) :=
  decodeNative_of _ m.toNat f.toNat (g w) (by rw [cEnc_maj]) (by rw [cEnc_func]) (by rw [cEnc_top]; exact ht)
    (by rw [hi, cWordOf_cEnc]) hr hw

namespace Laws.RoundTrip

/-- What the family says of an instruction: its words decode to it. The three MCOOP rows are one word (R428). -/
def Statement (i : Instr) : Prop :=
  i.reason = none →
    (i.kind = .native → decodeNative (encodeNative i) = .ok i.canon) ∧
    (i.kind = .moraine → decodeMoraine (encodeMoraine i) = .ok i)

theorem dieResetFoundation (n : Nat) : Statement (.dieResetFoundation n) := fun _ => ⟨nofun, nofun⟩
theorem dieResetCompute (n : Nat) : Statement (.dieResetCompute n) := fun _ => ⟨nofun, nofun⟩
theorem drainComplete (d : Nat) : Statement (.drainComplete d) := fun _ => ⟨nofun, nofun⟩
theorem initComplete (d : Nat) : Statement (.initComplete d) := fun _ => ⟨nofun, nofun⟩
theorem linkFlitRetry (l : Nat) (exhausted : Bool) : Statement (.linkFlitRetry l exhausted) := fun _ => ⟨nofun, nofun⟩
theorem linkRetrainDone (l : Nat) : Statement (.linkRetrainDone l) := fun _ => ⟨nofun, nofun⟩
theorem aclkPointChange (p : Nat) : Statement (.aclkPointChange p) := fun _ => ⟨nofun, nofun⟩
theorem thermalAction (d : Nat) : Statement (.thermalAction d) := fun _ => ⟨nofun, nofun⟩
theorem thermalTrip (d : Nat) : Statement (.thermalTrip d) := fun _ => ⟨nofun, nofun⟩
theorem attestationRequest (t : List Byte) : Statement (.attestationRequest t) := fun _ => ⟨nofun, nofun⟩
theorem registerWrite (w : HostWrite) : Statement (.registerWrite w) := fun _ => ⟨nofun, nofun⟩
theorem apertureRead (o n : Nat) : Statement (.apertureRead o n) := fun _ => ⟨nofun, nofun⟩
theorem apertureWrite (o : Nat) (bs : List Byte) : Statement (.apertureWrite o bs) := fun _ => ⟨nofun, nofun⟩
theorem ringDoorbell (w : HostWrite) : Statement (.ringDoorbell w) := fun _ => ⟨nofun, nofun⟩
theorem clockLockAcquire (c : Nat) : Statement (.clockLockAcquire c) := fun _ => ⟨nofun, nofun⟩
theorem ctxEnable (w : HostWrite) : Statement (.ctxEnable w) := fun _ => ⟨nofun, nofun⟩
theorem ctxDisable (w : HostWrite) : Statement (.ctxDisable w) := fun _ => ⟨nofun, nofun⟩
theorem stop (c : Nat) : Statement (.stop c) := fun _ => ⟨nofun, nofun⟩
theorem abort (c : Nat) : Statement (.abort c) := fun _ => ⟨nofun, nofun⟩
theorem replay (c : Nat) : Statement (.replay c) := fun _ => ⟨nofun, nofun⟩
theorem tlbInvalidate (w : HostWrite) : Statement (.tlbInvalidate w) := fun _ => ⟨nofun, nofun⟩
theorem flogRdWrite (w : HostWrite) : Statement (.flogRdWrite w) := fun _ => ⟨nofun, nofun⟩
theorem flogConfigWrite (w : HostWrite) : Statement (.flogConfigWrite w) := fun _ => ⟨nofun, nofun⟩
theorem faultReport (i : Nat) : Statement (.faultReport i) := fun _ => ⟨nofun, nofun⟩
theorem displayEnable (w : HostWrite) : Statement (.displayEnable w) := fun _ => ⟨nofun, nofun⟩
theorem displayDisable (w : HostWrite) : Statement (.displayDisable w) := fun _ => ⟨nofun, nofun⟩
theorem displayVblank (h : Nat) : Statement (.displayVblank h) := fun _ => ⟨nofun, nofun⟩
theorem displayScanoutFrame (h : Nat) : Statement (.displayScanoutFrame h) := fun _ => ⟨nofun, nofun⟩
theorem videoSessionEnable (w : HostWrite) : Statement (.videoSessionEnable w) := fun _ => ⟨nofun, nofun⟩
theorem videoFrame (n : Nat) : Statement (.videoFrame n) := fun _ => ⟨nofun, nofun⟩
theorem launchRead (c : Nat) : Statement (.launchRead c) := fun _ => ⟨nofun, nofun⟩
theorem graphUnload (c tag : Nat) : Statement (.graphUnload c tag) := fun _ => ⟨nofun, nofun⟩
theorem graphRetire (c tag : Nat) : Statement (.graphRetire c tag) := fun _ => ⟨nofun, nofun⟩
theorem entryFeedRecord (c tag : Nat) : Statement (.entryFeedRecord c tag) := fun _ => ⟨nofun, nofun⟩
theorem recordArrival (i : Nat) : Statement (.recordArrival i) := fun _ => ⟨nofun, nofun⟩
theorem halfMap (q sk : Nat) : Statement (.halfMap q sk) := fun _ => ⟨nofun, nofun⟩
theorem halfMappingDone (q sk : Nat) : Statement (.halfMappingDone q sk) := fun _ => ⟨nofun, nofun⟩
theorem halfEvictDone (q sk : Nat) : Statement (.halfEvictDone q sk) := fun _ => ⟨nofun, nofun⟩
theorem farSegmentMoveIn (q sk : Nat) : Statement (.farSegmentMoveIn q sk) := fun _ => ⟨nofun, nofun⟩
theorem teamStart (sk : Nat) : Statement (.teamStart sk) := fun _ => ⟨nofun, nofun⟩
theorem batchSteal (sk q : Nat) : Statement (.batchSteal sk q) := fun _ => ⟨nofun, nofun⟩
theorem conditionalDelivery (c tag n : Nat) : Statement (.conditionalDelivery c tag n) := fun _ => ⟨nofun, nofun⟩
theorem priorityPreemption (sk : Nat) : Statement (.priorityPreemption sk) := fun _ => ⟨nofun, nofun⟩
theorem teamWriteOut (t : Nat) : Statement (.teamWriteOut t) := fun _ => ⟨nofun, nofun⟩
theorem consumerResume (sk : Nat) : Statement (.consumerResume sk) := fun _ => ⟨nofun, nofun⟩
theorem thermalMigration (t : Nat) : Statement (.thermalMigration t) := fun _ => ⟨nofun, nofun⟩
theorem clauseSelect (g p : Nat) : Statement (.clauseSelect g p) := fun _ => ⟨nofun, nofun⟩
theorem wavePark (v : Nat) : Statement (.wavePark v) := fun _ => ⟨nofun, nofun⟩
theorem waveRecall (v : Nat) : Statement (.waveRecall v) := fun _ => ⟨nofun, nofun⟩
theorem pageWalk (i : Nat) : Statement (.pageWalk i) := fun _ => ⟨nofun, nofun⟩
theorem tokenComplete (u : Actor) (i : Nat) : Statement (.tokenComplete u i) := fun _ => ⟨nofun, nofun⟩
theorem qwinEntryReady (v : Nat) : Statement (.qwinEntryReady v) := fun _ => ⟨nofun, nofun⟩
theorem longOperationCommit (i : Nat) : Statement (.longOperationCommit i) := fun _ => ⟨nofun, nofun⟩
theorem waitlineWake (v l : Nat) : Statement (.waitlineWake v l) := fun _ => ⟨nofun, nofun⟩
theorem texOperation (k : Nat) : Statement (.texOperation k) := fun _ => ⟨nofun, nofun⟩
theorem rasterTriangle (k : Nat) : Statement (.rasterTriangle k) := fun _ => ⟨nofun, nofun⟩
theorem traversalOperation (k : Nat) : Statement (.traversalOperation k) := fun _ => ⟨nofun, nofun⟩
theorem sequencerProgramStart (sk : Nat) : Statement (.sequencerProgramStart sk) := fun _ => ⟨nofun, nofun⟩
theorem matrixOpCommit (k : Nat) : Statement (.matrixOpCommit k) := fun _ => ⟨nofun, nofun⟩
theorem moraineKernelStart (d : Nat) : Statement (.moraineKernelStart d) := fun _ => ⟨nofun, nofun⟩
theorem moraineSpanCommit (m : Nat) : Statement (.moraineSpanCommit m) := fun _ => ⟨nofun, nofun⟩
theorem moraineKernelStop (m : Nat) : Statement (.moraineKernelStop m) := fun _ => ⟨nofun, nofun⟩
theorem moraineKernelResume (d : Nat) : Statement (.moraineKernelResume d) := fun _ => ⟨nofun, nofun⟩
theorem bra (w : CWord) : Statement (.bra w) := by
  intro h; refine ⟨fun _ => ?_, nofun⟩
  exact decode_cEnc _ _ w (fun w => .bra w) (by decide) rfl (by simp [rawReserved, cEnc_pad, cEnc_low]) h
theorem call (w : CWord) : Statement (.call w) := by
  intro h; refine ⟨fun _ => ?_, nofun⟩
  exact decode_cEnc _ _ w (fun w => .call w) (by decide) rfl (by simp [rawReserved, cEnc_pad, cEnc_low]) h
theorem brx (w : VWord) : Statement (.brx w) := by
  intro h; refine ⟨fun _ => ?_, nofun⟩
  exact decode_vEnc _ _ w (fun w => .brx w) (by decide) rfl (by rfl) h
theorem ret (w : VWord) : Statement (.ret w) := by
  intro h; refine ⟨fun _ => ?_, nofun⟩
  exact decode_vEnc _ _ w (fun w => .ret w) (by decide) rfl (by rfl) h
theorem nop (w : VWord) : Statement (.nop w) := by
  intro h; refine ⟨fun _ => ?_, nofun⟩
  exact decode_vEnc _ _ w (fun w => .nop w) (by decide) rfl (by rfl) h
theorem yield (w : VWord) : Statement (.yield w) := by
  intro h; refine ⟨fun _ => ?_, nofun⟩
  exact decode_vEnc _ _ w (fun w => .yield w) (by decide) rfl (by rfl) h
theorem mset (w : VWord) : Statement (.mset w) := by
  intro h; refine ⟨fun _ => ?_, nofun⟩
  exact decode_vEnc _ _ w (fun w => .mset w) (by decide) rfl (by rfl) h
theorem mand (w : VWord) : Statement (.mand w) := by
  intro h; refine ⟨fun _ => ?_, nofun⟩
  exact decode_vEnc _ _ w (fun w => .mand w) (by decide) rfl (by rfl) h
theorem mor (w : VWord) : Statement (.mor w) := by
  intro h; refine ⟨fun _ => ?_, nofun⟩
  exact decode_vEnc _ _ w (fun w => .mor w) (by decide) rfl (by rfl) h
theorem mxor (w : VWord) : Statement (.mxor w) := by
  intro h; refine ⟨fun _ => ?_, nofun⟩
  exact decode_vEnc _ _ w (fun w => .mxor w) (by decide) rfl (by rfl) h
theorem mnot (w : VWord) : Statement (.mnot w) := by
  intro h; refine ⟨fun _ => ?_, nofun⟩
  exact decode_vEnc _ _ w (fun w => .mnot w) (by decide) rfl (by rfl) h
theorem mcpy (w : VWord) : Statement (.mcpy w) := by
  intro h; refine ⟨fun _ => ?_, nofun⟩
  exact decode_vEnc _ _ w (fun w => .mcpy w) (by decide) rfl (by rfl) h
theorem mbal (w : VWord) : Statement (.mbal w) := by
  intro h; refine ⟨fun _ => ?_, nofun⟩
  exact decode_vEnc _ _ w (fun w => .mbal w) (by decide) rfl (by rfl) h
theorem join (w : VWord) : Statement (.join w) := by
  intro h; refine ⟨fun _ => ?_, nofun⟩
  exact decode_vEnc _ _ w (fun w => .join w) (by decide) rfl (by rfl) h
theorem leave (w : VWord) : Statement (.leave w) := by
  intro h; refine ⟨fun _ => ?_, nofun⟩
  exact decode_vEnc _ _ w (fun w => .leave w) (by decide) rfl (by rfl) h
theorem waitm (w : VWord) : Statement (.waitm w) := by
  intro h; refine ⟨fun _ => ?_, nofun⟩
  exact decode_vEnc _ _ w (fun w => .waitm w) (by decide) rfl (by rfl) h
theorem bar (w : VWord) : Statement (.bar w) := by
  intro h; refine ⟨fun _ => ?_, nofun⟩
  exact decode_vEnc _ _ w (fun w => .bar w) (by decide) rfl (by rfl) h
theorem semsig (w : VWord) : Statement (.semsig w) := by
  intro h; refine ⟨fun _ => ?_, nofun⟩
  exact decode_vEnc _ _ w (fun w => .semsig w) (by decide) rfl (by rfl) h
theorem semwait (w : VWord) : Statement (.semwait w) := by
  intro h; refine ⟨fun _ => ?_, nofun⟩
  exact decode_vEnc _ _ w (fun w => .semwait w) (by decide) rfl (by rfl) h
theorem waitline (w : VWord) : Statement (.waitline w) := by
  intro h; refine ⟨fun _ => ?_, nofun⟩
  exact decode_vEnc _ _ w (fun w => .waitline w) (by decide) rfl (by rfl) h
theorem npenter (w : VWord) : Statement (.npenter w) := by
  intro h; refine ⟨fun _ => ?_, nofun⟩
  exact decode_vEnc _ _ w (fun w => .npenter w) (by decide) rfl (by rfl) h
theorem npleave (w : VWord) : Statement (.npleave w) := by
  intro h; refine ⟨fun _ => ?_, nofun⟩
  exact decode_vEnc _ _ w (fun w => .npleave w) (by decide) rfl (by rfl) h
theorem qapp (w : VWord) : Statement (.qapp w) := by
  intro h; refine ⟨fun _ => ?_, nofun⟩
  exact decode_vEnc _ _ w (fun w => .qapp w) (by decide) rfl (by rfl) h
theorem qrsv (w : VWord) : Statement (.qrsv w) := by
  intro h; refine ⟨fun _ => ?_, nofun⟩
  exact decode_vEnc _ _ w (fun w => .qrsv w) (by decide) rfl (by rfl) h
theorem recld (w : VWord) : Statement (.recld w) := by
  intro h; refine ⟨fun _ => ?_, nofun⟩
  exact decode_vEnc _ _ w (fun w => .recld w) (by decide) rfl (by rfl) h
theorem qpop (w : VWord) : Statement (.qpop w) := by
  intro h; refine ⟨fun _ => ?_, nofun⟩
  exact decode_vEnc _ _ w (fun w => .qpop w) (by decide) rfl (by rfl) h
theorem postr (w : VWord) : Statement (.postr w) := by
  intro h; refine ⟨fun _ => ?_, nofun⟩
  exact decode_vEnc _ _ w (fun w => .postr w) (by decide) rfl (by rfl) h
theorem exitW (w : VWord) : Statement (.exitW w) := by
  intro h; refine ⟨fun _ => ?_, nofun⟩
  exact decode_vEnc _ _ w (fun w => .exitW w) (by decide) rfl (by rfl) h
theorem exitC (w : VWord) : Statement (.exitC w) := by
  intro h; refine ⟨fun _ => ?_, nofun⟩
  exact decode_vEnc _ _ w (fun w => .exitC w) (by decide) rfl (by rfl) h
theorem iadd (w : VWord) : Statement (.iadd w) := by
  intro h; refine ⟨fun _ => ?_, nofun⟩
  exact decode_vEnc _ _ w (fun w => .iadd w) (by decide) rfl (by rfl) h
theorem isub (w : VWord) : Statement (.isub w) := by
  intro h; refine ⟨fun _ => ?_, nofun⟩
  exact decode_vEnc _ _ w (fun w => .isub w) (by decide) rfl (by rfl) h
theorem imul (w : VWord) : Statement (.imul w) := by
  intro h; refine ⟨fun _ => ?_, nofun⟩
  exact decode_vEnc _ _ w (fun w => .imul w) (by decide) rfl (by rfl) h
theorem imulh (w : VWord) : Statement (.imulh w) := by
  intro h; refine ⟨fun _ => ?_, nofun⟩
  exact decode_vEnc _ _ w (fun w => .imulh w) (by decide) rfl (by rfl) h
theorem imad (w : VWord) : Statement (.imad w) := by
  intro h; refine ⟨fun _ => ?_, nofun⟩
  exact decode_vEnc _ _ w (fun w => .imad w) (by decide) rfl (by rfl) h
theorem imin (w : VWord) : Statement (.imin w) := by
  intro h; refine ⟨fun _ => ?_, nofun⟩
  exact decode_vEnc _ _ w (fun w => .imin w) (by decide) rfl (by rfl) h
theorem imax (w : VWord) : Statement (.imax w) := by
  intro h; refine ⟨fun _ => ?_, nofun⟩
  exact decode_vEnc _ _ w (fun w => .imax w) (by decide) rfl (by rfl) h
theorem iabs (w : VWord) : Statement (.iabs w) := by
  intro h; refine ⟨fun _ => ?_, nofun⟩
  exact decode_vEnc _ _ w (fun w => .iabs w) (by decide) rfl (by rfl) h
theorem shl (w : VWord) : Statement (.shl w) := by
  intro h; refine ⟨fun _ => ?_, nofun⟩
  exact decode_vEnc _ _ w (fun w => .shl w) (by decide) rfl (by rfl) h
theorem shr (w : VWord) : Statement (.shr w) := by
  intro h; refine ⟨fun _ => ?_, nofun⟩
  exact decode_vEnc _ _ w (fun w => .shr w) (by decide) rfl (by rfl) h
theorem sar (w : VWord) : Statement (.sar w) := by
  intro h; refine ⟨fun _ => ?_, nofun⟩
  exact decode_vEnc _ _ w (fun w => .sar w) (by decide) rfl (by rfl) h
theorem rot (w : VWord) : Statement (.rot w) := by
  intro h; refine ⟨fun _ => ?_, nofun⟩
  exact decode_vEnc _ _ w (fun w => .rot w) (by decide) rfl (by rfl) h
theorem andB (w : VWord) : Statement (.andB w) := by
  intro h; refine ⟨fun _ => ?_, nofun⟩
  exact decode_vEnc _ _ w (fun w => .andB w) (by decide) rfl (by rfl) h
theorem orB (w : VWord) : Statement (.orB w) := by
  intro h; refine ⟨fun _ => ?_, nofun⟩
  exact decode_vEnc _ _ w (fun w => .orB w) (by decide) rfl (by rfl) h
theorem xorB (w : VWord) : Statement (.xorB w) := by
  intro h; refine ⟨fun _ => ?_, nofun⟩
  exact decode_vEnc _ _ w (fun w => .xorB w) (by decide) rfl (by rfl) h
theorem notB (w : VWord) : Statement (.notB w) := by
  intro h; refine ⟨fun _ => ?_, nofun⟩
  exact decode_vEnc _ _ w (fun w => .notB w) (by decide) rfl (by rfl) h
theorem bfe (w : VWord) : Statement (.bfe w) := by
  intro h; refine ⟨fun _ => ?_, nofun⟩
  exact decode_vEnc _ _ w (fun w => .bfe w) (by decide) rfl (by rfl) h
theorem bfi (w : VWord) : Statement (.bfi w) := by
  intro h; refine ⟨fun _ => ?_, nofun⟩
  exact decode_vEnc _ _ w (fun w => .bfi w) (by decide) rfl (by rfl) h
theorem popc (w : VWord) : Statement (.popc w) := by
  intro h; refine ⟨fun _ => ?_, nofun⟩
  exact decode_vEnc _ _ w (fun w => .popc w) (by decide) rfl (by rfl) h
theorem clz (w : VWord) : Statement (.clz w) := by
  intro h; refine ⟨fun _ => ?_, nofun⟩
  exact decode_vEnc _ _ w (fun w => .clz w) (by decide) rfl (by rfl) h
theorem brev (w : VWord) : Statement (.brev w) := by
  intro h; refine ⟨fun _ => ?_, nofun⟩
  exact decode_vEnc _ _ w (fun w => .brev w) (by decide) rfl (by rfl) h
theorem icmp (cc : Cmp) (w : VWord) : Statement (.icmp cc w) := by
  intro h; refine ⟨fun _ => ?_, nofun⟩
  cases cc <;> exact decode_vEnc _ _ w (fun w => .icmp _ w) (by decide) rfl (by rfl) h
theorem sel (w : VWord) : Statement (.sel w) := by
  intro h; refine ⟨fun _ => ?_, nofun⟩
  exact decode_vEnc _ _ w (fun w => .sel w) (by decide) rfl (by rfl) h
theorem mov (w : VWord) : Statement (.mov w) := by
  intro h; refine ⟨fun _ => ?_, nofun⟩
  exact decode_vEnc _ _ w (fun w => .mov w) (by decide) rfl (by rfl) h
theorem movi (w : LWord) : Statement (.movi w) := by
  intro h; refine ⟨fun _ => ?_, nofun⟩
  exact decode_lEnc _ _ w (fun w => .movi w) (by decide) rfl (by simp [rawReserved, lEnc_pad]) h
theorem aadd64 (w : VWord) : Statement (.aadd64 w) := by
  intro h; refine ⟨fun _ => ?_, nofun⟩
  exact decode_vEnc _ _ w (fun w => .aadd64 w) (by decide) rfl (by rfl) h
theorem amad64 (w : VWord) : Statement (.amad64 w) := by
  intro h; refine ⟨fun _ => ?_, nofun⟩
  exact decode_vEnc _ _ w (fun w => .amad64 w) (by decide) rfl (by rfl) h
theorem fadd (w : VWord) : Statement (.fadd w) := by
  intro h; refine ⟨fun _ => ?_, nofun⟩
  exact decode_vEnc _ _ w (fun w => .fadd w) (by decide) rfl (by rfl) h
theorem fsub (w : VWord) : Statement (.fsub w) := by
  intro h; refine ⟨fun _ => ?_, nofun⟩
  exact decode_vEnc _ _ w (fun w => .fsub w) (by decide) rfl (by rfl) h
theorem fmul (w : VWord) : Statement (.fmul w) := by
  intro h; refine ⟨fun _ => ?_, nofun⟩
  exact decode_vEnc _ _ w (fun w => .fmul w) (by decide) rfl (by rfl) h
theorem ffma (w : VWord) : Statement (.ffma w) := by
  intro h; refine ⟨fun _ => ?_, nofun⟩
  exact decode_vEnc _ _ w (fun w => .ffma w) (by decide) rfl (by rfl) h
theorem fmin (w : VWord) : Statement (.fmin w) := by
  intro h; refine ⟨fun _ => ?_, nofun⟩
  exact decode_vEnc _ _ w (fun w => .fmin w) (by decide) rfl (by rfl) h
theorem fmax (w : VWord) : Statement (.fmax w) := by
  intro h; refine ⟨fun _ => ?_, nofun⟩
  exact decode_vEnc _ _ w (fun w => .fmax w) (by decide) rfl (by rfl) h
theorem fcmp (cc : FCmp) (w : VWord) : Statement (.fcmp cc w) := by
  intro h; refine ⟨fun _ => ?_, nofun⟩
  cases cc <;> exact decode_vEnc _ _ w (fun w => .fcmp _ w) (by decide) rfl (by rfl) h
theorem frcp (w : VWord) : Statement (.frcp w) := by
  intro h; refine ⟨fun _ => ?_, nofun⟩
  exact decode_vEnc _ _ w (fun w => .frcp w) (by decide) rfl (by rfl) h
theorem frsq (w : VWord) : Statement (.frsq w) := by
  intro h; refine ⟨fun _ => ?_, nofun⟩
  exact decode_vEnc _ _ w (fun w => .frsq w) (by decide) rfl (by rfl) h
theorem fsqrt (w : VWord) : Statement (.fsqrt w) := by
  intro h; refine ⟨fun _ => ?_, nofun⟩
  exact decode_vEnc _ _ w (fun w => .fsqrt w) (by decide) rfl (by rfl) h
theorem fexp2 (w : VWord) : Statement (.fexp2 w) := by
  intro h; refine ⟨fun _ => ?_, nofun⟩
  exact decode_vEnc _ _ w (fun w => .fexp2 w) (by decide) rfl (by rfl) h
theorem flog2 (w : VWord) : Statement (.flog2 w) := by
  intro h; refine ⟨fun _ => ?_, nofun⟩
  exact decode_vEnc _ _ w (fun w => .flog2 w) (by decide) rfl (by rfl) h
theorem fsin (w : VWord) : Statement (.fsin w) := by
  intro h; refine ⟨fun _ => ?_, nofun⟩
  exact decode_vEnc _ _ w (fun w => .fsin w) (by decide) rfl (by rfl) h
theorem fcos (w : VWord) : Statement (.fcos w) := by
  intro h; refine ⟨fun _ => ?_, nofun⟩
  exact decode_vEnc _ _ w (fun w => .fcos w) (by decide) rfl (by rfl) h
theorem ffrc (w : VWord) : Statement (.ffrc w) := by
  intro h; refine ⟨fun _ => ?_, nofun⟩
  exact decode_vEnc _ _ w (fun w => .ffrc w) (by decide) rfl (by rfl) h
theorem frnd (w : VWord) : Statement (.frnd w) := by
  intro h; refine ⟨fun _ => ?_, nofun⟩
  exact decode_vEnc _ _ w (fun w => .frnd w) (by decide) rfl (by rfl) h
theorem dadd (w : VWord) : Statement (.dadd w) := by
  intro h; refine ⟨fun _ => ?_, nofun⟩
  exact decode_vEnc _ _ w (fun w => .dadd w) (by decide) rfl (by rfl) h
theorem dmul (w : VWord) : Statement (.dmul w) := by
  intro h; refine ⟨fun _ => ?_, nofun⟩
  exact decode_vEnc _ _ w (fun w => .dmul w) (by decide) rfl (by rfl) h
theorem dfma (w : VWord) : Statement (.dfma w) := by
  intro h; refine ⟨fun _ => ?_, nofun⟩
  exact decode_vEnc _ _ w (fun w => .dfma w) (by decide) rfl (by rfl) h
theorem cvt (w : VWord) : Statement (.cvt w) := by
  intro h; refine ⟨fun _ => ?_, nofun⟩
  exact decode_vEnc _ _ w (fun w => .cvt w) (by decide) rfl (by rfl) h
theorem cvtlg (w : VWord) : Statement (.cvtlg w) := by
  intro h; refine ⟨fun _ => ?_, nofun⟩
  exact decode_vEnc _ _ w (fun w => .cvtlg w) (by decide) rfl (by rfl) h
theorem cvtln (w : VWord) : Statement (.cvtln w) := by
  intro h; refine ⟨fun _ => ?_, nofun⟩
  exact decode_vEnc _ _ w (fun w => .cvtln w) (by decide) rfl (by rfl) h
theorem shflIdx (w : VWord) : Statement (.shflIdx w) := by
  intro h; refine ⟨fun _ => ?_, nofun⟩
  exact decode_vEnc _ _ w (fun w => .shflIdx w) (by decide) rfl (by rfl) h
theorem shflUp (w : VWord) : Statement (.shflUp w) := by
  intro h; refine ⟨fun _ => ?_, nofun⟩
  exact decode_vEnc _ _ w (fun w => .shflUp w) (by decide) rfl (by rfl) h
theorem shflDown (w : VWord) : Statement (.shflDown w) := by
  intro h; refine ⟨fun _ => ?_, nofun⟩
  exact decode_vEnc _ _ w (fun w => .shflDown w) (by decide) rfl (by rfl) h
theorem shflXor (w : VWord) : Statement (.shflXor w) := by
  intro h; refine ⟨fun _ => ?_, nofun⟩
  exact decode_vEnc _ _ w (fun w => .shflXor w) (by decide) rfl (by rfl) h
theorem bcast (w : VWord) : Statement (.bcast w) := by
  intro h; refine ⟨fun _ => ?_, nofun⟩
  exact decode_vEnc _ _ w (fun w => .bcast w) (by decide) rfl (by rfl) h
theorem redx (op : XOp) (w : VWord) : Statement (.redx op w) := by
  intro h; refine ⟨fun _ => ?_, nofun⟩
  cases op <;> exact decode_vEnc _ _ w (fun w => .redx _ w) (by decide) rfl (by rfl) h
theorem scanx (op : XOp) (w : VWord) : Statement (.scanx op w) := by
  intro h; refine ⟨fun _ => ?_, nofun⟩
  cases op <;> exact decode_vEnc _ _ w (fun w => .scanx _ w) (by decide) rfl (by rfl) h
theorem vldx (w : VWord) : Statement (.vldx w) := by
  intro h; refine ⟨fun _ => ?_, nofun⟩
  exact decode_vEnc _ _ w (fun w => .vldx w) (by decide) rfl (by rfl) h
theorem vstx (w : VWord) : Statement (.vstx w) := by
  intro h; refine ⟨fun _ => ?_, nofun⟩
  exact decode_vEnc _ _ w (fun w => .vstx w) (by decide) rfl (by rfl) h
theorem xset (w : VWord) : Statement (.xset w) := by
  intro h; refine ⟨fun _ => ?_, nofun⟩
  exact decode_vEnc _ _ w (fun w => .xset w) (by decide) rfl (by rfl) h
theorem ld (z : Size) (w : VWord) : Statement (.ld z w) := by
  intro h; refine ⟨fun _ => ?_, nofun⟩
  cases z <;> exact decode_vEnc _ _ w (fun w => .ld _ w) (by decide) rfl (by rfl) h
theorem st (z : Size) (w : VWord) : Statement (.st z w) := by
  intro h; refine ⟨fun _ => ?_, nofun⟩
  cases z <;> exact decode_vEnc _ _ w (fun w => .st _ w) (by decide) rfl (by rfl) h
theorem ldl (z : Size) (w : VWord) : Statement (.ldl z w) := by
  intro h; refine ⟨fun _ => ?_, nofun⟩
  cases z <;> exact decode_vEnc _ _ w (fun w => .ldl _ w) (by decide) rfl (by rfl) h
theorem stl (z : Size) (w : VWord) : Statement (.stl z w) := by
  intro h; refine ⟨fun _ => ?_, nofun⟩
  cases z <;> exact decode_vEnc _ _ w (fun w => .stl _ w) (by decide) rfl (by rfl) h
theorem lda (z : Size) (w : VWord) : Statement (.lda z w) := by
  intro h; refine ⟨fun _ => ?_, nofun⟩
  cases z <;> first | (exfalso; revert h; simp [Instr.reason, vReason]; done) | exact decode_vEnc _ _ w (fun w => .lda _ w) (by decide) rfl (by rfl) h
theorem strl (z : Size) (w : VWord) : Statement (.strl z w) := by
  intro h; refine ⟨fun _ => ?_, nofun⟩
  cases z <;> first | (exfalso; revert h; simp [Instr.reason, vReason]; done) | exact decode_vEnc _ _ w (fun w => .strl _ w) (by decide) rfl (by rfl) h
theorem atom (op : AtomOp) (o : Ord4) (w : VWord) : Statement (.atom op o w) := by
  intro h; refine ⟨fun _ => ?_, nofun⟩
  cases op <;> cases o <;> exact decode_vEnc _ _ w (fun w => .atom _ _ w) (by decide) rfl (by rfl) h
theorem red (op : RedOp) (w : VWord) : Statement (.red op w) := by
  intro h; refine ⟨fun _ => ?_, nofun⟩
  cases op <;> exact decode_vEnc _ _ w (fun w => .red _ w) (by decide) rfl (by rfl) h
theorem fredC2 (w : VWord) : Statement (.fredC2 w) := by
  intro h; refine ⟨fun _ => ?_, nofun⟩
  exact decode_vEnc _ _ w (fun w => .fredC2 w) (by decide) rfl (by rfl) h
theorem fence (w : VWord) : Statement (.fence w) := by
  intro h; refine ⟨fun _ => ?_, nofun⟩
  exact decode_vEnc _ _ w (fun w => .fence w) (by decide) rfl (by rfl) h
theorem fissue (w : VWord) : Statement (.fissue w) := by
  intro h; refine ⟨fun _ => ?_, nofun⟩
  exact decode_vEnc _ _ w (fun w => .fissue w) (by decide) rfl (by rfl) h
theorem fwait (w : VWord) : Statement (.fwait w) := by
  intro h; refine ⟨fun _ => ?_, nofun⟩
  exact decode_vEnc _ _ w (fun w => .fwait w) (by decide) rfl (by rfl) h
theorem falias (w : VWord) : Statement (.falias w) := by
  intro h; refine ⟨fun _ => ?_, nofun⟩
  exact decode_vEnc _ _ w (fun w => .falias w) (by decide) rfl (by rfl) h
theorem fpath (w : VWord) : Statement (.fpath w) := by
  intro h; refine ⟨fun _ => ?_, nofun⟩
  exact decode_vEnc _ _ w (fun w => .fpath w) (by decide) rfl (by rfl) h
theorem acopyGl (w : VWord) : Statement (.acopyGl w) := by
  intro h; refine ⟨fun _ => ?_, nofun⟩
  exact decode_vEnc _ _ w (fun w => .acopyGl w) (by decide) rfl (by rfl) h
theorem acopyLg (w : VWord) : Statement (.acopyLg w) := by
  intro h; refine ⟨fun _ => ?_, nofun⟩
  exact decode_vEnc _ _ w (fun w => .acopyLg w) (by decide) rfl (by rfl) h
theorem cwait (w : VWord) : Statement (.cwait w) := by
  intro h; refine ⟨fun _ => ?_, nofun⟩
  exact decode_vEnc _ _ w (fun w => .cwait w) (by decide) rfl (by rfl) h
theorem cfence (w : VWord) : Statement (.cfence w) := by
  intro h; refine ⟨fun _ => ?_, nofun⟩
  exact decode_vEnc _ _ w (fun w => .cfence w) (by decide) rfl (by rfl) h
theorem tcopy (w : VWord) : Statement (.tcopy w) := by
  intro h; refine ⟨fun _ => ?_, nofun⟩
  exact decode_vEnc _ _ w (fun w => .tcopy w) (by decide) rfl (by rfl) h
theorem rlockSrc (w : VWord) : Statement (.rlockSrc w) := by
  intro h; refine ⟨fun _ => ?_, nofun⟩
  exact decode_vEnc _ _ w (fun w => .rlockSrc w) (by decide) rfl (by rfl) h
theorem rlockDst (w : VWord) : Statement (.rlockDst w) := by
  intro h; refine ⟨fun _ => ?_, nofun⟩
  exact decode_vEnc _ _ w (fun w => .rlockDst w) (by decide) rfl (by rfl) h
theorem runlock (w : VWord) : Statement (.runlock w) := by
  intro h; refine ⟨fun _ => ?_, nofun⟩
  exact decode_vEnc _ _ w (fun w => .runlock w) (by decide) rfl (by rfl) h
theorem pref (w : VWord) : Statement (.pref w) := by
  intro h; refine ⟨fun _ => ?_, nofun⟩
  exact decode_vEnc _ _ w (fun w => .pref w) (by decide) rfl (by rfl) h
theorem texSample (w : VWord) : Statement (.texSample w) := by
  intro h; refine ⟨fun _ => ?_, nofun⟩
  exact decode_vEnc _ _ w (fun w => .texSample w) (by decide) rfl (by rfl) h
theorem texLoad (w : VWord) : Statement (.texLoad w) := by
  intro h; refine ⟨fun _ => ?_, nofun⟩
  exact decode_vEnc _ _ w (fun w => .texLoad w) (by decide) rfl (by rfl) h
theorem texGather (w : VWord) : Statement (.texGather w) := by
  intro h; refine ⟨fun _ => ?_, nofun⟩
  exact decode_vEnc _ _ w (fun w => .texGather w) (by decide) rfl (by rfl) h
theorem travResume (w : VWord) : Statement (.travResume w) := by
  intro h; refine ⟨fun _ => ?_, nofun⟩
  exact decode_vEnc _ _ w (fun w => .travResume w) (by decide) rfl (by rfl) h
theorem tfeed (w : VWord) : Statement (.tfeed w) := by
  intro h; refine ⟨fun _ => ?_, nofun⟩
  exact decode_vEnc _ _ w (fun w => .tfeed w) (by decide) rfl (by rfl) h
theorem ttake (w : VWord) : Statement (.ttake w) := by
  intro h; refine ⟨fun _ => ?_, nofun⟩
  exact decode_vEnc _ _ w (fun w => .ttake w) (by decide) rfl (by rfl) h
theorem tld (w : VWord) : Statement (.tld w) := by
  intro h; refine ⟨fun _ => ?_, nofun⟩
  exact decode_vEnc _ _ w (fun w => .tld w) (by decide) rfl (by rfl) h
theorem tst (w : VWord) : Statement (.tst w) := by
  intro h; refine ⟨fun _ => ?_, nofun⟩
  exact decode_vEnc _ _ w (fun w => .tst w) (by decide) rfl (by rfl) h
theorem mma (w : VWord) : Statement (.mma w) := by
  intro h; refine ⟨fun _ => ?_, nofun⟩
  exact decode_vEnc _ _ w (fun w => .mma w) (by decide) rfl (by rfl) h
theorem mzero (w : VWord) : Statement (.mzero w) := by
  intro h; refine ⟨fun _ => ?_, nofun⟩
  exact decode_vEnc _ _ w (fun w => .mzero w) (by decide) rfl (by rfl) h
theorem mscale (w : VWord) : Statement (.mscale w) := by
  intro h; refine ⟨fun _ => ?_, nofun⟩
  exact decode_vEnc _ _ w (fun w => .mscale w) (by decide) rfl (by rfl) h
theorem mcoopJoin (w : VWord) : Statement (.mcoopJoin w) := by
  intro h; refine ⟨fun _ => ?_, nofun⟩
  exact decode_vEnc _ _ w (fun w => .mcoopJoin w) (by decide) rfl (by rfl) h
theorem mcoopSync (w : VWord) : Statement (.mcoopSync w) := by
  intro h; refine ⟨fun _ => ?_, nofun⟩
  exact decode_vEnc _ _ w (fun w => .mcoopJoin w) (by decide) rfl (by rfl) h
theorem mcoopLeave (w : VWord) : Statement (.mcoopLeave w) := by
  intro h; refine ⟨fun _ => ?_, nofun⟩
  exact decode_vEnc _ _ w (fun w => .mcoopJoin w) (by decide) rfl (by rfl) h
theorem mdrain (w : VWord) : Statement (.mdrain w) := by
  intro h; refine ⟨fun _ => ?_, nofun⟩
  exact decode_vEnc _ _ w (fun w => .mdrain w) (by decide) rfl (by rfl) h
theorem mdrainLg (w : VWord) : Statement (.mdrainLg w) := by
  intro h; refine ⟨fun _ => ?_, nofun⟩
  exact decode_vEnc _ _ w (fun w => .mdrainLg w) (by decide) rfl (by rfl) h
theorem msync (w : VWord) : Statement (.msync w) := by
  intro h; refine ⟨fun _ => ?_, nofun⟩
  exact decode_vEnc _ _ w (fun w => .msync w) (by decide) rfl (by rfl) h
theorem mwait (w : VWord) : Statement (.mwait w) := by
  intro h; refine ⟨fun _ => ?_, nofun⟩
  exact decode_vEnc _ _ w (fun w => .mwait w) (by decide) rfl (by rfl) h
theorem sadd (w : VWord) : Statement (.sadd w) := by
  intro h; refine ⟨fun _ => ?_, nofun⟩
  exact decode_vEnc _ _ w (fun w => .sadd w) (by decide) rfl (by rfl) h
theorem ssub (w : VWord) : Statement (.ssub w) := by
  intro h; refine ⟨fun _ => ?_, nofun⟩
  exact decode_vEnc _ _ w (fun w => .ssub w) (by decide) rfl (by rfl) h
theorem smul (w : VWord) : Statement (.smul w) := by
  intro h; refine ⟨fun _ => ?_, nofun⟩
  exact decode_vEnc _ _ w (fun w => .smul w) (by decide) rfl (by rfl) h
theorem sand (w : VWord) : Statement (.sand w) := by
  intro h; refine ⟨fun _ => ?_, nofun⟩
  exact decode_vEnc _ _ w (fun w => .sand w) (by decide) rfl (by rfl) h
theorem sor (w : VWord) : Statement (.sor w) := by
  intro h; refine ⟨fun _ => ?_, nofun⟩
  exact decode_vEnc _ _ w (fun w => .sor w) (by decide) rfl (by rfl) h
theorem sxor (w : VWord) : Statement (.sxor w) := by
  intro h; refine ⟨fun _ => ?_, nofun⟩
  exact decode_vEnc _ _ w (fun w => .sxor w) (by decide) rfl (by rfl) h
theorem sshl (w : VWord) : Statement (.sshl w) := by
  intro h; refine ⟨fun _ => ?_, nofun⟩
  exact decode_vEnc _ _ w (fun w => .sshl w) (by decide) rfl (by rfl) h
theorem sshr (w : VWord) : Statement (.sshr w) := by
  intro h; refine ⟨fun _ => ?_, nofun⟩
  exact decode_vEnc _ _ w (fun w => .sshr w) (by decide) rfl (by rfl) h
theorem smov (w : VWord) : Statement (.smov w) := by
  intro h; refine ⟨fun _ => ?_, nofun⟩
  exact decode_vEnc _ _ w (fun w => .smov w) (by decide) rfl (by rfl) h
theorem smovi (w : LWord) : Statement (.smovi w) := by
  intro h; refine ⟨fun _ => ?_, nofun⟩
  exact decode_lEnc _ _ w (fun w => .smovi w) (by decide) rfl (by simp [rawReserved, lEnc_pad]) h
theorem scmp (cc : SCmp) (w : VWord) : Statement (.scmp cc w) := by
  intro h; refine ⟨fun _ => ?_, nofun⟩
  cases cc <;> exact decode_vEnc _ _ w (fun w => .scmp _ w) (by decide) rfl (by rfl) h
theorem sbrZ (w : CWord) : Statement (.sbrZ w) := by
  intro h; refine ⟨fun _ => ?_, nofun⟩
  exact decode_cEnc _ _ w (fun w => .sbrZ w) (by decide) rfl (by simp [rawReserved, cEnc_pad, cEnc_low]) h
theorem sbrNz (w : CWord) : Statement (.sbrNz w) := by
  intro h; refine ⟨fun _ => ?_, nofun⟩
  exact decode_cEnc _ _ w (fun w => .sbrNz w) (by decide) rfl (by simp [rawReserved, cEnc_pad, cEnc_low]) h
theorem sexit (w : VWord) : Statement (.sexit w) := by
  intro h; refine ⟨fun _ => ?_, nofun⟩
  exact decode_vEnc _ _ w (fun w => .sexit w) (by decide) rfl (by rfl) h
theorem trap (w : VWord) : Statement (.trap w) := by
  intro h; refine ⟨fun _ => ?_, nofun⟩
  exact decode_vEnc _ _ w (fun w => .trap w) (by decide) rfl (by rfl) h
theorem brk (w : VWord) : Statement (.brk w) := by
  intro h; refine ⟨fun _ => ?_, nofun⟩
  exact decode_vEnc _ _ w (fun w => .brk w) (by decide) rfl (by rfl) h
theorem snapt (w : VWord) : Statement (.snapt w) := by
  intro h; refine ⟨fun _ => ?_, nofun⟩
  exact decode_vEnc _ _ w (fun w => .snapt w) (by decide) rfl (by rfl) h
theorem getsr (w : VWord) : Statement (.getsr w) := by
  intro h; refine ⟨fun _ => ?_, nofun⟩
  exact decode_vEnc _ _ w (fun w => .getsr w) (by decide) rfl (by rfl) h
theorem setsr (w : VWord) : Statement (.setsr w) := by
  intro h; refine ⟨fun _ => ?_, nofun⟩
  exact decode_vEnc _ _ w (fun w => .setsr w) (by decide) rfl (by rfl) h
theorem vldS (w : MR) : Statement (.vldS w) := by
  intro h; refine ⟨nofun, fun _ => ?_⟩
  exact decodeMoraine_of _ 0x00 _ (by simp only [encodeMoraine, mrEnc_op]; rfl) (by simp [moraineOf, encodeMoraine, mrOf_mrEnc]) (by simp [encodeMoraine]) h
theorem vstS (w : MR) : Statement (.vstS w) := by
  intro h; refine ⟨nofun, fun _ => ?_⟩
  exact decodeMoraine_of _ 0x01 _ (by simp only [encodeMoraine, mrEnc_op]; rfl) (by simp [moraineOf, encodeMoraine, mrOf_mrEnc]) (by simp [encodeMoraine]) h
theorem vldG (w : MR) : Statement (.vldG w) := by
  intro h; refine ⟨nofun, fun _ => ?_⟩
  exact decodeMoraine_of _ 0x02 _ (by simp only [encodeMoraine, mrEnc_op]; rfl) (by simp [moraineOf, encodeMoraine, mrOf_mrEnc]) (by simp [encodeMoraine]) h
theorem vstG (w : MR) : Statement (.vstG w) := by
  intro h; refine ⟨nofun, fun _ => ?_⟩
  exact decodeMoraine_of _ 0x03 _ (by simp only [encodeMoraine, mrEnc_op]; rfl) (by simp [moraineOf, encodeMoraine, mrOf_mrEnc]) (by simp [encodeMoraine]) h
theorem kld (w : MI) : Statement (.kld w) := by
  intro h; refine ⟨nofun, fun _ => ?_⟩
  exact decodeMoraine_of _ 0x04 _ (by simp only [encodeMoraine, miEnc_op]; rfl) (by simp [moraineOf, encodeMoraine, miOf_miEnc]) (by simp [encodeMoraine]) h
theorem kst (w : MI) : Statement (.kst w) := by
  intro h; refine ⟨nofun, fun _ => ?_⟩
  exact decodeMoraine_of _ 0x05 _ (by simp only [encodeMoraine, miEnc_op]; rfl) (by simp [moraineOf, encodeMoraine, miOf_miEnc]) (by simp [encodeMoraine]) h
theorem viadd (w : MR) : Statement (.viadd w) := by
  intro h; refine ⟨nofun, fun _ => ?_⟩
  exact decodeMoraine_of _ 0x06 _ (by simp only [encodeMoraine, mrEnc_op]; rfl) (by simp [moraineOf, encodeMoraine, mrOf_mrEnc]) (by simp [encodeMoraine]) h
theorem visub (w : MR) : Statement (.visub w) := by
  intro h; refine ⟨nofun, fun _ => ?_⟩
  exact decodeMoraine_of _ 0x07 _ (by simp only [encodeMoraine, mrEnc_op]; rfl) (by simp [moraineOf, encodeMoraine, mrOf_mrEnc]) (by simp [encodeMoraine]) h
theorem vimul (w : MR) : Statement (.vimul w) := by
  intro h; refine ⟨nofun, fun _ => ?_⟩
  exact decodeMoraine_of _ 0x08 _ (by simp only [encodeMoraine, mrEnc_op]; rfl) (by simp [moraineOf, encodeMoraine, mrOf_mrEnc]) (by simp [encodeMoraine]) h
theorem vfadd (w : MR) : Statement (.vfadd w) := by
  intro h; refine ⟨nofun, fun _ => ?_⟩
  exact decodeMoraine_of _ 0x09 _ (by simp only [encodeMoraine, mrEnc_op]; rfl) (by simp [moraineOf, encodeMoraine, mrOf_mrEnc]) (by simp [encodeMoraine]) h
theorem vfmul (w : MR) : Statement (.vfmul w) := by
  intro h; refine ⟨nofun, fun _ => ?_⟩
  exact decodeMoraine_of _ 0x0A _ (by simp only [encodeMoraine, mrEnc_op]; rfl) (by simp [moraineOf, encodeMoraine, mrOf_mrEnc]) (by simp [encodeMoraine]) h
theorem vfma (w : MR) : Statement (.vfma w) := by
  intro h; refine ⟨nofun, fun _ => ?_⟩
  exact decodeMoraine_of _ 0x0B _ (by simp only [encodeMoraine, mrEnc_op]; rfl) (by simp [moraineOf, encodeMoraine, mrOf_mrEnc]) (by simp [encodeMoraine]) h
theorem vcmp (w : MR) : Statement (.vcmp w) := by
  intro h; refine ⟨nofun, fun _ => ?_⟩
  exact decodeMoraine_of _ 0x0C _ (by simp only [encodeMoraine, mrEnc_op]; rfl) (by simp [moraineOf, encodeMoraine, mrOf_mrEnc]) (by simp [encodeMoraine]) h
theorem vred (w : MR) : Statement (.vred w) := by
  intro h; refine ⟨nofun, fun _ => ?_⟩
  exact decodeMoraine_of _ 0x0D _ (by simp only [encodeMoraine, mrEnc_op]; rfl) (by simp [moraineOf, encodeMoraine, mrOf_mrEnc]) (by simp [encodeMoraine]) h
theorem vcvt (w : MR) : Statement (.vcvt w) := by
  intro h; refine ⟨nofun, fun _ => ?_⟩
  exact decodeMoraine_of _ 0x0E _ (by simp only [encodeMoraine, mrEnc_op]; rfl) (by simp [moraineOf, encodeMoraine, mrOf_mrEnc]) (by simp [encodeMoraine]) h
theorem vmov (w : MR) : Statement (.vmov w) := by
  intro h; refine ⟨nofun, fun _ => ?_⟩
  exact decodeMoraine_of _ 0x0F _ (by simp only [encodeMoraine, mrEnc_op]; rfl) (by simp [moraineOf, encodeMoraine, mrOf_mrEnc]) (by simp [encodeMoraine]) h
theorem vsplat (w : MR) : Statement (.vsplat w) := by
  intro h; refine ⟨nofun, fun _ => ?_⟩
  exact decodeMoraine_of _ 0x10 _ (by simp only [encodeMoraine, mrEnc_op]; rfl) (by simp [moraineOf, encodeMoraine, mrOf_mrEnc]) (by simp [encodeMoraine]) h
theorem vsel (w : MR) : Statement (.vsel w) := by
  intro h; refine ⟨nofun, fun _ => ?_⟩
  exact decodeMoraine_of _ 0x11 _ (by simp only [encodeMoraine, mrEnc_op]; rfl) (by simp [moraineOf, encodeMoraine, mrOf_mrEnc]) (by simp [encodeMoraine]) h
theorem vlogic (w : MR) : Statement (.vlogic w) := by
  intro h; refine ⟨nofun, fun _ => ?_⟩
  exact decodeMoraine_of _ 0x12 _ (by simp only [encodeMoraine, mrEnc_op]; rfl) (by simp [moraineOf, encodeMoraine, mrOf_mrEnc]) (by simp [encodeMoraine]) h
theorem viota (w : MR) : Statement (.viota w) := by
  intro h; refine ⟨nofun, fun _ => ?_⟩
  exact decodeMoraine_of _ 0x13 _ (by simp only [encodeMoraine, mrEnc_op]; rfl) (by simp [moraineOf, encodeMoraine, mrOf_mrEnc]) (by simp [encodeMoraine]) h
theorem plogic (w : MR) : Statement (.plogic w) := by
  intro h; refine ⟨nofun, fun _ => ?_⟩
  exact decodeMoraine_of _ 0x14 _ (by simp only [encodeMoraine, mrEnc_op]; rfl) (by simp [moraineOf, encodeMoraine, mrOf_mrEnc]) (by simp [encodeMoraine]) h
theorem kalu (w : MR) : Statement (.kalu w) := by
  intro h; refine ⟨nofun, fun _ => ?_⟩
  exact decodeMoraine_of _ 0x15 _ (by simp only [encodeMoraine, mrEnc_op]; rfl) (by simp [moraineOf, encodeMoraine, mrOf_mrEnc]) (by simp [encodeMoraine]) h
theorem kaddi (w : MI) : Statement (.kaddi w) := by
  intro h; refine ⟨nofun, fun _ => ?_⟩
  exact decodeMoraine_of _ 0x16 _ (by simp only [encodeMoraine, miEnc_op]; rfl) (by simp [moraineOf, encodeMoraine, miOf_miEnc]) (by simp [encodeMoraine]) h
theorem kmovi (w : MH) : Statement (.kmovi w) := by
  intro h; refine ⟨nofun, fun _ => ?_⟩
  exact decodeMoraine_of _ 0x17 _ (by simp only [encodeMoraine, mhEnc_op]; rfl) (by simp [moraineOf, encodeMoraine, mhOf_mhEnc]) (by simp [encodeMoraine, mhEnc_pad]) h
theorem kget (w : MR) : Statement (.kget w) := by
  intro h; refine ⟨nofun, fun _ => ?_⟩
  exact decodeMoraine_of _ 0x18 _ (by simp only [encodeMoraine, mrEnc_op]; rfl) (by simp [moraineOf, encodeMoraine, mrOf_mrEnc]) (by simp [encodeMoraine]) h
theorem br (w : MJ) : Statement (.br w) := by
  intro h; refine ⟨nofun, fun _ => ?_⟩
  exact decodeMoraine_of _ 0x19 _ (by simp only [encodeMoraine, mjEnc_op]; rfl) (by simp [moraineOf, encodeMoraine, mjOf_mjEnc]) (by simp [encodeMoraine]) h
theorem bz (w : MJ) : Statement (.bz w) := by
  intro h; refine ⟨nofun, fun _ => ?_⟩
  exact decodeMoraine_of _ 0x1A _ (by simp only [encodeMoraine, mjEnc_op]; rfl) (by simp [moraineOf, encodeMoraine, mjOf_mjEnc]) (by simp [encodeMoraine]) h
theorem bnz (w : MJ) : Statement (.bnz w) := by
  intro h; refine ⟨nofun, fun _ => ?_⟩
  exact decodeMoraine_of _ 0x1B _ (by simp only [encodeMoraine, mjEnc_op]; rfl) (by simp [moraineOf, encodeMoraine, mjOf_mjEnc]) (by simp [encodeMoraine]) h
theorem bp (w : MJ) : Statement (.bp w) := by
  intro h; refine ⟨nofun, fun _ => ?_⟩
  exact decodeMoraine_of _ 0x1C _ (by simp only [encodeMoraine, mjEnc_op]; rfl) (by simp [moraineOf, encodeMoraine, mjOf_mjEnc]) (by simp [encodeMoraine]) h
theorem mqapp (w : MR) : Statement (.mqapp w) := by
  intro h; refine ⟨nofun, fun _ => ?_⟩
  exact decodeMoraine_of _ 0x1D _ (by simp only [encodeMoraine, mrEnc_op]; rfl) (by simp [moraineOf, encodeMoraine, mrOf_mrEnc]) (by simp [encodeMoraine]) h
theorem splitFenceReleaseDone (v i : Nat) : Statement (.splitFenceReleaseDone v i) := fun _ => ⟨nofun, nofun⟩
theorem copyChunkRelease (v i k : Nat) : Statement (.copyChunkRelease v i k) := fun _ => ⟨nofun, nofun⟩
theorem quarterThrottle (g : Nat) : Statement (.quarterThrottle g) := fun _ => ⟨nofun, nofun⟩
theorem pcieFundamentalReset : Statement (.pcieFundamentalReset) := fun _ => ⟨nofun, nofun⟩
theorem dieResetModule : Statement (.dieResetModule) := fun _ => ⟨nofun, nofun⟩
theorem quiesceComplete : Statement (.quiesceComplete) := fun _ => ⟨nofun, nofun⟩
theorem quiesceTimeout : Statement (.quiesceTimeout) := fun _ => ⟨nofun, nofun⟩
theorem drainTimeout : Statement (.drainTimeout) := fun _ => ⟨nofun, nofun⟩
theorem heldExpiry : Statement (.heldExpiry) := fun _ => ⟨nofun, nofun⟩
theorem linkRetrainTimeout : Statement (.linkRetrainTimeout) := fun _ => ⟨nofun, nofun⟩
theorem aclkPointChangeDone : Statement (.aclkPointChangeDone) := fun _ => ⟨nofun, nofun⟩
theorem powerLimitExceeded : Statement (.powerLimitExceeded) := fun _ => ⟨nofun, nofun⟩
theorem firmwareBoot : Statement (.firmwareBoot) := fun _ => ⟨nofun, nofun⟩
theorem fwLoad : Statement (.fwLoad) := fun _ => ⟨nofun, nofun⟩
theorem raiseSvn : Statement (.raiseSvn) := fun _ => ⟨nofun, nofun⟩
theorem abortReleaseDone : Statement (.abortReleaseDone) := fun _ => ⟨nofun, nofun⟩
theorem tlbInvalidateDone : Statement (.tlbInvalidateDone) := fun _ => ⟨nofun, nofun⟩
theorem snapFire : Statement (.snapFire) := fun _ => ⟨nofun, nofun⟩
theorem snapRearm : Statement (.snapRearm) := fun _ => ⟨nofun, nofun⟩
theorem videoRdPoll : Statement (.videoRdPoll) := fun _ => ⟨nofun, nofun⟩
theorem graphLoad : Statement (.graphLoad) := fun _ => ⟨nofun, nofun⟩
theorem lingerExpiry : Statement (.lingerExpiry) := fun _ => ⟨nofun, nofun⟩
theorem graphStall : Statement (.graphStall) := fun _ => ⟨nofun, nofun⟩
theorem budgetCharge : Statement (.budgetCharge) := fun _ => ⟨nofun, nofun⟩
theorem budgetPeriodStart : Statement (.budgetPeriodStart) := fun _ => ⟨nofun, nofun⟩
theorem teamStop : Statement (.teamStop) := fun _ => ⟨nofun, nofun⟩
theorem safepointBound : Statement (.safepointBound) := fun _ => ⟨nofun, nofun⟩
theorem npBound : Statement (.npBound) := fun _ => ⟨nofun, nofun⟩
theorem firnTransferDone : Statement (.firnTransferDone) := fun _ => ⟨nofun, nofun⟩
theorem waitlineTimeout : Statement (.waitlineTimeout) := fun _ => ⟨nofun, nofun⟩
theorem tileKeyTimeout : Statement (.tileKeyTimeout) := fun _ => ⟨nofun, nofun⟩
theorem coopJoinTimeout : Statement (.coopJoinTimeout) := fun _ => ⟨nofun, nofun⟩
theorem moraineYield : Statement (.moraineYield) := fun _ => ⟨nofun, fun _ => by decide⟩
theorem moraineExit : Statement (.moraineExit) := fun _ => ⟨nofun, fun _ => by decide⟩

end Laws.RoundTrip

end Sys2Proof
end

