-- ==== Sys2Proof/Tests/Slice0.lean ====
section
/-!
SUPPORT. Small tests: words of the spec's encodings and what they decode to, ill-formed terms that are refused, one step on
small states, and for each statement with hypotheses a state and operands that meet them.
-/

open Sys2Proof Sys2Proof.Machine

namespace Sys2Proof.Tests

set_option Elab.async false

/-! ### Small states -/

def isNext (o : Host.Outcome State Fault Refusal) : Bool := match o with | .next _ => true | _ => false

theorem isNext_spec {o : Host.Outcome State Fault Refusal} (h : isNext o = true) : ∃ t, o = .next t := by
  cases o <;> simp [isNext] at h; exact ⟨_, rfl⟩

/-- Wave 0 of core 0 at its word, with a few registers filled. -/
def waveAt (w : Nat) : State :=
  let s := State.reset.withFetchWord 64 w
  { s with
    cur := some (.wave 0)
    waves := s.waves.map (fun e => (e.1, { e.2 with
      v := [(4 * 64, 0x2000), (4 * 64 + 1, 0x2040), (9 * 64, 0x80000000)]
      w := [(1, 0x12345)]
      m := [(1, 0xF0F1), (2, 1)] })) }

/-- The state's node changed. -/
def withNode (s : State) (f : NodeInfo → NodeInfo) : State :=
  { s with ctxs := s.ctxs.map (fun c => (c.1, { c.2 with images := c.2.images.map (fun m => (m.1, { m.2 with nodes := m.2.nodes.map f })) })) }

/-- The state's waves changed. -/
def withWave (s : State) (f : Wave → Wave) : State := { s with waves := s.waves.map (fun e => (e.1, f e.2)) }

/-- The state's teams changed. -/
def withTeam (s : State) (f : Team → Team) : State := { s with teams := s.teams.map (fun e => (e.1, f e.2)) }

def xOf (s : State) (m : BitVec 4) : WCtx :=
  (waveOf s m).getD { v := 0, wv := placedWave 0, cl := placedClause 0 0, nd := placedNode 0, e := 0 }

def tw : State := waveAt 0x3000E0B0560401E0
def tx : WCtx := xOf tw 15

/-- A plain word: no modifier, no token, every active lane, d = v6, a = v4, b = v9. -/
def vw : VWord := { stall := 0, token := 7, d := 6, a := 4, b := 9, c := 0, msel := 15, reuse := false, mod := 0 }

/-! ### What the statements suppose -/

theorem witness_WordsDecode :
    (Instr.iadd vw).wf = true ∧ (Instr.iadd vw).kind = .native ∧ Instr.moraineExit.wf = true ∧ Instr.moraineExit.kind = .moraine := by
  decide +kernel

theorem witness_DecodedWords :
    decodeNative (encodeNative (.iadd vw)) = .ok (.iadd vw) ∧ decodeMoraine 0x7C000000 = .ok .moraineExit := by decide +kernel

def sw : State := State.reset.withFetchWord 64 0x3000E0B0560401E0
def swTick : Tick := { a := 1, h := 1, m := [1, 1, 1, 1], act := .issue (.wave 0) }
def swX : WCtx := (wctxOf (afterEdges sw swTick []) 0 (·.run)).getD tx

def checksOk (c : WordCheck) : Bool := match c with | .ok _ => true | _ => false

theorem witness_StepOfAWave :
    sw.sched = [swTick] ∧ sw.power = true ∧ wctxOf (afterEdges sw swTick []) 0 (·.run) = some swX ∧ swX.wv.stopped = false ∧
    midClause (afterEdges sw swTick []) swX.wv.ctx = true ∧ stackRuns (afterEdges sw swTick []) (stackOfCore (coreOfWave 0)) = true ∧
    edgeHere (afterEdges sw swTick []) (coreOfWave 0) = true ∧ npOver (afterEdges sw swTick []) 0 swX.wv = false ∧
    swX.cl.i < swX.cl.count ∧ swX.wv.cyc ≤ coreEdges (afterEdges sw swTick []) (coreOfWave 0) ∧
    (portFor (afterEdges sw swTick []) 0 swX.cl).isSome = true ∧ swX.wv.spcount < 4096 ∧
    waveFetch (afterEdges sw swTick []) 0 swX.wv (swX.cl.h + 8 * (swX.cl.i + 1)) = .word 0x3000E0B0560401E0 ∧
    checksOk (checkWord swX.wv.access false swX.cl (waveFetch (afterEdges sw swTick []) 0 swX.wv) 0x3000E0B0560401E0) = true := by
  decide +kernel

theorem witness_FetchedBytes :
    0x1008 < 2 ^ 52 ∧ translate sw (some 0) 0 0 0x1008 .fetch = .hit 0x1008 ∧ offline sw 0x1008 = false ∧ poisoned sw 0x1008 8 = false ∧
    pathWaits sw 0 (homeEnd 0x1008) = false := by
  decide +kernel

theorem witness_ClauseMovesOn :
    tw.issue = .done ∧ (SMap.find? tw.waves 0).bind (·.run) = some (placedClause 0 (BitVec.allOnes 64)) ∧
    (placedClause 0 (BitVec.allOnes 64)).i + 1 < (placedClause 0 (BitVec.allOnes 64)).count ∧
    (placedClause 0 (BitVec.allOnes 64)).run ≠ 0 := by decide +kernel

def sq0 : State := State.reset.withFetchWord 64 0xDC00E0300E1401E0
def sqTick : Tick := { a := 1, h := 1, m := [1, 1, 1, 1], act := .issue (.seq 0) }
def sqCl : Clause := placedClause 7 1
def sm0 : State := State.reset.withFetchWord 32 0x5863FFFF
def smTick : Tick := { a := 1, h := 1, m := [1, 1, 1, 1], act := .issue (.mor 0) }

theorem witness_StepOfASequencer :
    sq0.sched = [sqTick] ∧ sq0.power = true ∧ SMap.find? (afterEdges sq0 sqTick []).seqs 0 = some (placedSeq 7) ∧
    seqRuns (afterEdges sq0 sqTick []) 0 (placedSeq 7) = true ∧ (placedSeq 7).run = some sqCl ∧ sqCl.i < sqCl.count ∧
    (placedSeq 7).cyc ≤ (afterEdges sq0 sqTick []).aclk ∧ seqFetch (afterEdges sq0 sqTick []) 0 (placedSeq 7) (sqCl.h + 8 * (sqCl.i + 1)) = .word 0xDC00E0300E1401E0 ∧
    checksOk (checkWord false true sqCl (seqFetch (afterEdges sq0 sqTick []) 0 (placedSeq 7)) 0xDC00E0300E1401E0) = true := by
  decide +kernel

theorem witness_StepOfAMoraineCore :
    sm0.sched = [smTick] ∧ sm0.power = true ∧ SMap.find? (afterEdges sm0 smTick []).kerns 0 = some placedKern ∧
    moraineRuns (afterEdges sm0 smTick []) 0 placedKern = true ∧
    (imageOf (afterEdges sm0 smTick []) 0 0).bind (·.mcode[placedKern.regs.pc]?) = some 0x5863FFFF ∧
    decodeMoraine 0x5863FFFF = .ok (.kaddi { d := 3, a := 3, imm := 0xFFFF }) := by decide +kernel

def tick1 (act : Act) : Tick := { a := 1, h := 1, m := [1, 1, 1, 1], act := act }

theorem witness_StepOfAnEvent :
    (Instr.wavePark 0).kind = .event ∧ hostRow (.wavePark 0) = false ∧ State.reset.power = true ∧ State.reset.moving = none ∧
    SMap.sortedFrom 0 State.reset.mclk = true ∧ treeRow (.wavePark 0) = true ∧ { State.reset with moving := some 20 }.moving ≠ none ∧
    { State.reset with power := false }.power = false := by decide +kernel

theorem witness_StepsFromReset :
    (State.reset.memWf = true ∧ State.reset.canon = true ∧ State.reset.inOrder = true) ∧ ∃ t, step State.reset = .next t :=
  ⟨by decide +kernel, isNext_spec (by decide +kernel)⟩

theorem witness_IntegerWords :
    intOperands (.iadd vw) = some (vw, [(.dst, vw.d), (.src, vw.a), (.src, vw.b)], 2) ∧ waveOf tw vw.msel = some tx ∧
    issueFault tw tx [(.dst, vw.d), (.src, vw.a), (.src, vw.b)] 2 = none := by decide +kernel

theorem witness_ComparesSelectsAndAddressWords :
    waveOf tw 15 = some tx ∧ issueFault tw tx [(.maskOrDst, 6), (.src, 4), (.src, 5)] 2 = none ∧
    issueFault tw tx [(.maskOrDst, 0x141), (.src, 4), (.src, 5)] 2 = none ∧
    issueFault tw tx [(.dst, 6), (.src, 4), (.src, 5), (.maskSrc, 0x141)] 2 = none ∧ issueFault tw tx [(.dst, 6), (.src, 4)] 2 = none ∧
    issueFault tw tx [(.dst, 6)] 2 = none ∧ issueFault tw tx [(.dstN 2, 6), (.srcN 2, 4), (.src, 8)] 2 = none ∧
    issueFault tw tx [(.dstN 2, 6), (.srcN 2, 4), (.src, 8), (.src, 9)] 4 = none := by decide +kernel

theorem witness_RegisterWrites :
    SMap.sortedFrom 0 tx.wv.v = true ∧ SMap.sortedFrom 0 tx.wv.w = true ∧ SMap.sortedFrom 0 tx.wv.m = true ∧
    (6 : BitVec 9).toNat < 0x100 ∧ isW (0x101 : BitVec 9).toNat = true := by decide +kernel

/-- A destination that is a constant, and a register above the node's count. -/
theorem witness_ChecksComeFirst :
    operandsReason [(.dst, 0x180), (.src, 4)] = some 3 ∧ (issueFault tw tx [(.dst, 0x180), (.src, 4)] 2).isSome = true ∧
    operandsReason [(.dst, 6), (.src, 4)] = none ∧
    (let s := withNode tw (fun n => { n with vregs := 4 })
     waveOf s 15 = some (xOf s 15) ∧ operandInRange (xOf s 15).nd (xOf s 15).wv.access (.dst, 6) = false ∧
     (issueFault s (xOf s 15) [(.dst, 6), (.src, 4)] 2).isSome = true) ∧
    (tw.ctx tx.wv.ctx).dbgScb = false ∧ (tw.ctx tx.wv.ctx).st = .active ∧
    ((tw.setCtx 0 { tw.ctx 0 with st := .faulted }).ctx tx.wv.ctx).st = .faulted := by decide +kernel

theorem witness_FloatingWords :
    issueFault tw tx [(.dst, 6), (.src, 4), (.src, 5)] 4 = none ∧ issueFault tw tx [(.dst, 6), (.src, 4), (.src, 5), (.src, 7)] 4 = none ∧
    issueFault tw tx [(.dst, 6), (.src, 4)] 6 = none ∧ issueFault tw tx [(.maskOrDst, 6), (.src, 4), (.src, 5)] 4 = none ∧
    isM (6 : BitVec 9).toNat = false ∧ issueFault tw tx [(.maskOrDst, 0x141), (.src, 4), (.src, 5)] 4 = none ∧
    isM (0x141 : BitVec 9).toNat = true := by decide +kernel

def fullTok (k : Nat) : State := withWave tw (fun wv => { wv with tok := [(k, 63)] })

theorem witness_VariableLatencyWords :
    fnRow (.frcp { vw with token := 1 }) = some ({ vw with token := 1 }, .rcp) ∧ waveOf tw 15 = some tx ∧
    issueFault tw tx [(.dst, 6), (.src, 4)] 1000 = none ∧ tx.e ≠ 0 ∧ tokenFull tx.wv 1 = false ∧
    issueFault tw tx [(.dstN 2, 6), (.srcN 2, 4), (.srcN 2, 8)] 1000 = none ∧
    issueFault tw tx [(.dstN 2, 6), (.srcN 2, 4), (.srcN 2, 8), (.srcN 2, 10)] 1000 = none ∧
    waveOf (fullTok 1) 15 = some (xOf (fullTok 1) 15) ∧ tokenFull (xOf (fullTok 1) 15).wv 1 = true ∧ (xOf (fullTok 1) 15).e ≠ 0 ∧
    issueFault (fullTok 1) (xOf (fullTok 1) 15) [(.dst, 6), (.src, 4)] 1000 = none ∧
    tokenOf 1 = some 1 ∧ SMap.sortedFrom 0 tx.wv.tok = true := by decide +kernel

/-- Slots 0: FP32; 1: BF16, stochastic; 2: I8 with a block scale; 3: LG8. -/
def slotWord (e bl rd : Nat) : DWord := BitVec.ofNat 64 (e * 2 ^ 28 + bl * 2 ^ 24 + rd * 2 ^ 20)
def cvS : State := withNode tw (fun n => { n with slots := [slotWord 0 0 0, slotWord 2 0 1, slotWord 6 1 0, slotWord 8 0 0] })
def cvX : WCtx := xOf cvS 15

theorem witness_Conversions :
    cvtRow (.cvt { vw with c := 0x08 }) = some ({ vw with c := 0x08 }, .cvt, 4) ∧ waveOf cvS 15 = some cvX ∧ cvX.e ≠ 0 ∧
    cvX.nd.slots.getD 0 0 = slotWord 0 0 0 ∧ elemOf (slotElem (slotWord 0 0 0)) = some (.flt fp32) ∧
    elemOf (slotElem (slotWord 2 0 1)) = some (.flt bf16) ∧ elemOf (slotElem (slotWord 6 1 0)) = some (.int 8) ∧
    slotBlock (slotWord 0 0 0) = 0 ∧ slotBlock (slotWord 2 0 1) = 0 ∧ slotBlock (slotWord 6 1 0) = 1 ∧
    slotsSuit .cvt (slotWord 0 0 0) (slotWord 2 0 1) = true ∧ slotsSuit .cvt (slotWord 0 0 0) (slotWord 8 0 0) = false ∧
    slotsSuit .cvt (slotWord 0 0 0) (slotWord 6 1 0) = true ∧ slotRound (slotWord 2 0 1) = 1 ∧ slotRound (slotWord 6 1 0) = 0 ∧
    issueFault cvS cvX [(.dst, 6), (.src, 4)] 4 = none ∧ issueFault cvS cvX [(.dst, 6), (.src, 4), (.src, 9)] 4 = none ∧
    isConst (4 : BitVec 9).toNat = false ∧ isConst (0x181 : BitVec 9).toNat = true ∧ issueFault cvS cvX [(.dst, 6), (.src, 0x181)] 4 = none ∧
    (!({ vw with c := 0x08 } : VWord).mod.getLsbD 2 && slotRound (slotWord 2 0 1) == 1) = true ∧ clusterOfCore (coreOfWave cvX.v) = 0 ∧
    rngTurn cvS 0 (rngPlace cvX.v) = true ∧
    rngTurn { cvS with rngs := [(0, { Rng.reset with served := (cvS.aclk, 5) })] } 0 (rngPlace cvX.v) = false ∧ 0 / 48 / 4 = 191 / 48 / 4 ∧
    SMap.sortedFrom 0 cvS.rngs = true ∧ readSrc cvS cvX.v cvX.wv .int 9 1 >>> 24 = 0 ∧
    readSrc cvS cvX.v cvX.wv .int 9 0 >>> 24 ≠ 0 ∧ (∀ l ∈ lanesOf cvX.e, readSrc cvS cvX.v cvX.wv .int 10 l >>> 24 = 0) ∧
    ({ vw with c := 0x08 } : VWord).slotA = 0 ∧ ({ vw with c := 0x08 } : VWord).slotB = 1 := by decide +kernel

theorem witness_Shuffles :
    (shufTable (.shflXor { vw with mod := 3, c := 0x180 })).isSome = true ∧
    issueFault tw tx [(.dst, 6), (.src, 4), (.src, 9), (.src, 0x180)] 6 = none ∧ issueFault tw tx [(.dst, 6), (.src, 4)] 6 = none := by
  decide +kernel

theorem witness_Reductions :
    reduceRow (.redx .add { vw with mod := 3 }) = some ({ vw with mod := 3 }, .add, false) ∧
    reduceRow (.scanx .fadd { vw with mod := 3 }) = some ({ vw with mod := 3 }, .fadd, true) ∧
    (intCombine .add false).isSome = true ∧ (intCombine .fadd false).isSome = false ∧ ({ vw with mod := 3 } : VWord).mod.toNat % 8 < 7 := by
  decide +kernel

/-- x0 spans registers 4 to 7, x1 the registers from 250 on, x2 none; v10 is 0, v9 large in lane 0. -/
def ixS : State := withNode (withWave tw (fun wv => { wv with x := [(0, (4, 8)), (1, (200, 256))] })) (fun n => { n with vregs := 128 })
def ixX : WCtx := xOf ixS 15

theorem witness_IndexedWords :
    waveOf ixS 15 = some ixX ∧ (ixS.ctx ixX.wv.ctx).dbgScb = false ∧
    issueFault ixS ixX [(.vDst 1 1, 6), (.idxSrc, 0x150), (.src, 10)] 4 = none ∧
    issueFault ixS ixX [(.idxSrc, 0x150), (.src, 10), (.src, 7)] 0 = none ∧
    (lanesOf ixX.e).filter (fun l => decide ((readX ixS ixX.wv 0 l).2 ≤ (readX ixS ixX.wv 0 l).1 + (readSrc ixS 0 ixX.wv .int 10 l).toNat)) = [] ∧
    (lanesOf ixX.e).filter (fun l => !vInRange ixX.nd ixX.wv.access ((readX ixS ixX.wv 0 l).1 + (readSrc ixS 0 ixX.wv .int 10 l).toNat)) = [] ∧
    (lanesOf ixX.e).filter (fun l => decide ((readX ixS ixX.wv 0 l).2 ≤ (readX ixS ixX.wv 0 l).1 + (readSrc ixS 0 ixX.wv .int 9 l).toNat)) = [0] ∧
    (lanesOf ixX.e).filter (fun l => decide ((readX ixS ixX.wv 1 l).2 ≤ (readX ixS ixX.wv 1 l).1 + (readSrc ixS 0 ixX.wv .int 10 l).toNat)) = [] ∧
    (lanesOf ixX.e).filter (fun l => !vInRange ixX.nd ixX.wv.access ((readX ixS ixX.wv 1 l).1 + (readSrc ixS 0 ixX.wv .int 10 l).toNat)) ≠ [] ∧
    issueFault ixS ixX [(.vDst 1 1, 6), (.idxSrc, 0x151), (.src, 10)] 4 = none := by decide +kernel

/-- XSET with base 0 and limit 1 by immediates, and with a base out of range in w1. -/
theorem witness_IndexSet :
    issueFault tw tx [(.idxDst, 0x150), (.uni, 0x180), (.uni, 0x181)] 2 = none ∧ tx.e ≠ 0 ∧
    (readUni tw 0 tx.wv 0x180).toNat ≤ 255 ∧ (readUni tw 0 tx.wv 0x181).toNat ≤ 256 ∧
    issueFault tw tx [(.idxDst, 0x150), (.uni, 0x101), (.uni, 0x181)] 2 = none ∧ 255 < (readUni tw 0 tx.wv 0x101).toNat := by
  decide +kernel

def arrS : State := withWave tw (fun wv => { wv with arr := [(1, 1)] })

theorem witness_MaskWords :
    (maskTable (.mand { vw with d := 0x141, a := 0x142, b := 0x143 })).isSome = true ∧
    issueFault tw tx [(.maskDst, 0x141), (.maskSrc, 0x142), (.maskSrc, 0x143)] 2 = none ∧ tx.e ≠ 0 ∧ SMap.get 0 tx.wv.arr 1 = 0 ∧
    waveOf arrS 15 = some (xOf arrS 15) ∧ SMap.get 0 (xOf arrS 15).wv.arr 1 ≠ 0 ∧ (xOf arrS 15).e ≠ 0 ∧
    issueFault arrS (xOf arrS 15) [(.maskDst, 0x141), (.maskSrc, 0x142), (.maskSrc, 0x143)] 2 = none ∧
    issueFault tw tx [(.dstN 2, 6), (.maskSrc, 0x141)] 2 = none := by decide +kernel

/-- Lanes 0 and 1, which are all of m1, have arrived at it and wait; m0 has arrivals and is not complete. -/
def doneMask : Wave := { tx.wv with
  m := [(0, 7), (1, 3)]
  arr := [(0, 4), (1, 3)]
  pcs := tx.wv.pcs.map (fun p => if p.1 < 2 then (p.1, { p.2 with wait := some (.mask 1) }) else p) }

/-- Mask m1 is complete when all its lanes arrive; m2 of a wave whose one lane is not active is not. -/
theorem witness_ConvergenceWords :
    issueFault tw tx [(.maskJoin, 0x141)] 0 = none ∧ tx.e ≠ 0 ∧ tx.wv.getM 1 &&& ~~~ (SMap.get 0 tx.wv.arr 1 ||| tx.e) = 0 ∧
    waveOf tw 2 = some (xOf tw 2) ∧ (xOf tw 2).e ≠ 0 ∧ issueFault tw (xOf tw 2) [(.maskJoin, 0x141)] 0 = none ∧
    SMap.sortedFrom 0 doneMask.arr = true ∧ SMap.get 0 doneMask.arr 1 ≠ 0 ∧ doneMask.getM 1 &&& ~~~ (SMap.get 0 doneMask.arr 1) = 0 ∧
    (SMap.get 0 doneMask.arr 1).getLsbD 1 = true ∧ (SMap.find? doneMask.pcs 1).isSome = true ∧
    doneMask.getM 0 &&& ~~~ (SMap.get 0 doneMask.arr 0) ≠ 0 ∧ (SMap.get 0 doneMask.arr 1).getLsbD 2 = false ∧
    (SMap.find? doneMask.pcs 2).isSome = true ∧ SMap.find? doneMask.pcs 64 = none ∧
    tx.wv.getM 1 &&& ~~~ (SMap.get 0 tx.wv.arr 1 ||| (xOf tw 2).e) ≠ 0 ∧
    (∀ n, n < 12 → SMap.get 0 tx.wv.arr n = 0 ∨ tx.wv.getM n &&& ~~~ (SMap.get 0 tx.wv.arr n) ≠ 0) := by decide +kernel

/-- A header at 0x1000 as well, with registers and return stacks that name it. -/
def brS : State :=
  let s := withWave tw (fun wv => { wv with
    v := (List.range 64).map (fun l => (4 * 64 + l, 0x1000))
    pcs := wv.pcs.map (fun p => (p.1, { p.2 with ret := [0x1000] })) })
  { s with mem := s.mem ++ [(0x1025, 1), (0x1026, 2)] }
def hdrBytes : List Host.Cell := (bytesOf 8 0xF010A00A00000000).zipIdx.map (fun b => (0x1000 + b.2, b.1))
def brT : State := { brS with mem := (hdrBytes ++ brS.mem).filter (fun c => c.2 != 0) }
def brX : WCtx := xOf brT 15
/-- The clause at 0 a translated SEGEND.CALL whose return segment is at 0x1000. -/
def retS : State :=
  { brT with ctxs := brT.ctxs.map (fun c => (c.1, { c.2 with images := c.2.images.map (fun m => (m.1, { m.2 with rets := [(0, 0x1000)] })) })) }
/-- v4 names 0x1004 in lane 0 and no header, 0x1010, above; the word itself a translated SEGEND.INDIRECT with segment 0 alone. -/
def badBrS : State := withWave brT (fun wv => { wv with v := (List.range 64).map (fun l => (4 * 64 + l, if l = 0 then 0x1004 else 0x1010)) })
def indS (v : Word) : State :=
  let s := withWave brT (fun wv => { wv with v := [(4 * 64 + 1, v)] })
  { s with ctxs := s.ctxs.map (fun c => (c.1, { c.2 with images := c.2.images.map (fun m => (m.1, { m.2 with
    segs := [(0, 0x1000)]
    indir := [0x1008] })) })) }
def deepS : State := withWave tw (fun wv => { wv with pcs := wv.pcs.map (fun p => (p.1, { p.2 with ret := List.replicate 16 0x1000 })) })

theorem headerAt_indS : headerAt (indS 0) (xOf (indS 0) 15) 0x1000 := ⟨rfl, 0xF010A00A00000000, by decide +kernel, by decide +kernel⟩

theorem headerAt_brT : headerAt brT brX 0x1000 := ⟨rfl, 0xF010A00A00000000, by decide +kernel, by decide +kernel⟩

theorem witness_Branches :
    waveOf brT 15 = some brX ∧ brX.e ≠ 0 ∧ (((brX.cl.h : Int) + 8 * (0 : BitVec 24).toInt) % 2 ^ 64).toNat = 0x1000 ∧
    (∀ l ∈ lanesOf brX.e, (retOf brX.wv l).length < 16) ∧
    indirectOf brT brX.wv.ctx brX.wv.img (brX.cl.h + 8 * (brX.cl.i + 1)) = none ∧ issueFault brT brX [(.regPair, 4)] 0 = none ∧
    (∀ l ∈ lanesOf (xOf brT 2).e, (readPair brT 0 (xOf brT 2).wv 4 l).toNat = 0x1000) ∧
    (((brX.cl.h : Int) + 8 * (1 : BitVec 24).toInt) % 2 ^ 64).toNat = 0x1008 ∧ targetReason brT brX 0x1008 = some 2 ∧
    waveOf badBrS 15 = some (xOf badBrS 15) ∧ issueFault badBrS (xOf badBrS 15) [(.regPair, 4)] 0 = none ∧
    (lanesOf (xOf badBrS 15).e).find? (fun j => (targetReason badBrS (xOf badBrS 15) (readPair badBrS 0 (xOf badBrS 15).wv 4 j).toNat).isSome) = some 0 ∧
    targetReason badBrS (xOf badBrS 15) 0x1004 = some 1 ∧ (readPair badBrS 0 (xOf badBrS 15).wv 4 0).toNat = 0x1004 ∧
    (∀ j ∈ lanesOf (xOf badBrS 15).e, (readPair badBrS 0 (xOf badBrS 15).wv 4 j).toNat = if j = 0 then 0x1004 else 0x1010) ∧
    (match waveFetch badBrS 0 (xOf badBrS 15).wv 0x1010 with | .wait _ => false | _ => true) = true ∧
    waveOf (indS 0) 15 = some (xOf (indS 0) 15) ∧ indirectOf (indS 0) 0 0 0x1008 = some [(0, 0x1000)] ∧
    issueFault (indS 0) (xOf (indS 0) 15) [(.src, 4)] 0 = none ∧
    (∀ l ∈ lanesOf (xOf (indS 0) 15).e, SMap.find? ([(0, 0x1000)] : SMap Nat) (readSrc (indS 0) 0 (xOf (indS 0) 15).wv .int 4 l).toNat = some 0x1000) ∧
    (lanesOf (xOf (indS 9) 15).e).find? (fun j =>
      (SMap.find? ([(0, 0x1000)] : SMap Nat) (readSrc (indS 9) 0 (xOf (indS 9) 15).wv .int 4 j).toNat).isNone) = some 1 ∧
    (∀ l ∈ lanesOf brX.e, retOf brX.wv l = [0x1000]) ∧ waveOf deepS 15 = some (xOf deepS 15) ∧
    (lanesOf (xOf deepS 15).e).filter (fun l => decide ((retOf (xOf deepS 15).wv l).length ≥ 16)) ≠ [] ∧
    (lanesOf tx.e).filter (fun l => (retOf tx.wv l).isEmpty) ≠ [] ∧
    ((imageOf brT 0 0).map (fun im => SMap.find? im.rets 0)) = some none ∧
    ((imageOf retS 0 0).map (fun im => SMap.find? im.rets 0)) = some (some 0x1000) ∧ ([(0, 0x1000)].map (·.1)).Nodup := by decide +kernel

def npS : State := withWave tw (fun wv => { wv with np := some 0 })

theorem witness_Regions :
    tx.e ≠ 0 ∧ tx.cl.run = tx.wv.live ∧ tx.wv.np = none ∧ (SMap.find? tw.teams tx.wv.team).all (fun t => t.st != .stopping) = true ∧
    waveOf npS 15 = some (xOf npS 15) ∧ (xOf npS 15).cl.run = (xOf npS 15).wv.live ∧ (xOf npS 15).wv.np ≠ none ∧ (xOf npS 15).e ≠ 0 ∧
    (seqOf { State.reset.withFetchWord 64 0xDC00E0300E1401E0 with cur := some (.seq 0) }).isSome = true := by decide +kernel

def semS (v : Nat) (q : List (Nat × Nat × Mask)) : State := withTeam tw (fun t => { t with sems := [(1, v)], semq := [(1, q)] })
/-- The 64 threads of the team's wave at barrier 3, and one of them not. -/
def barS (n : Nat) : State := withWave tw (fun wv => { wv with
  pcs := wv.pcs.map (fun p => (p.1, if n ≤ p.1 then { p.2 with wait := some (.bar 3) } else p.2)) })
def barX (n : Nat) : WCtx := xOf (barS n) 15
/-- One lane, its line in memory. -/
def wlX : WCtx := xOf tw 2

theorem witness_Synchronisation :
    SMap.find? tw.teams tx.wv.team = some placedTeam ∧ issueFault tw tx [(.uni, 0x181)] 0 = none ∧ (readUni tw 0 tx.wv 0x181).toNat ≤ 15 ∧
    waitingBar tx.wv = none ∧ issueFault tw tx [(.uni, 0x101)] 0 = none ∧ 15 < (readUni tw 0 tx.wv 0x101).toNat ∧
    issueFault tw tx [(.uni, 0x181), (.uni, 0x181)] 0 = none ∧ issueFault tw tx [(.uni, 0x101), (.uni, 0x181)] 0 = none ∧
    (readUni tw 0 tx.wv 0x181).toNat = 1 ∧ 63 < (readUni tw 0 tx.wv 0x101).toNat ∧
    (SMap.find? (semS 65535 []).teams 0).all (fun t => decide (65535 < SMap.get 0 t.sems 1 + 1) && decide (1 ≤ SMap.get 0 t.sems 1) &&
      decide (SMap.get [] t.semq 1 = [])) = true ∧
    (SMap.find? (semS 0 [(1, 0, 1)]).teams 0).all (fun t => decide (SMap.get 0 t.sems 1 < 1) && decide (SMap.get [] t.semq 1 ≠ [])) = true ∧
    semTurn tw tx placedTeam 1 0 = some 0 ∧ semTurn tw tx placedTeam 1 48 = some 0 ∧
    semTurn tw tx { placedTeam with semAt := [(1, (0, 50, 0))] } 1 0 = none ∧
    waitingBar (barX 0).wv = some 3 ∧ (3 : Nat) ≠ (readUni (barS 0) 0 (barX 0).wv 0x181).toNat ∧ waveOf (barS 0) 15 = some (barX 0) ∧
    (barX 0).e ≠ 0 ∧ issueFault (barS 0) (barX 0) [(.uni, 0x181)] 0 = none ∧
    (match SMap.find? (semS 5 [(2, 0, 1), (9, 0, 2)]).teams 0 with
      | some t => SMap.sortedFrom 0 t.sems && SMap.sortedFrom 0 t.semq && decide ((((SMap.get [] t.semq 1).take 1).map (fun h => h.1)).sum = 2) &&
          decide (SMap.get 0 t.sems 1 < 2 + 9)
      | none => false) = true ∧ coreEdges tw (coreOfWave tx.v) = 0 := by
  decide +kernel

theorem witness_Barriers :
    SMap.find? (barS 0).teams 0 = some placedTeam ∧ releaseWaits (barS 0) placedTeam.core = false ∧
    (SMap.find? (barS 0).waves 0).all (fun wv => !wv.access && wv.pcs != [] && (wv.live &&& ~~~ wv.atBar 3 == 0)) = true ∧
    (SMap.find? (barS 1).waves 0).all (fun wv => !wv.access && (wv.live &&& ~~~ wv.atBar 3 != 0)) = true := by decide +kernel

theorem witness_Waitline :
    waveOf tw 2 = some wlX ∧ issueFault tw wlX [(.srcN 2, 4), (.src, 9)] 0 = none ∧ lanesOf wlX.e = [0] ∧
    (readPair tw 0 wlX.wv 4 0).toNat = 0x2000 ∧ placedTeam.locks = [] ∧
    xlate tw (some (coreOfWave 0)) (stackOfCore (coreOfWave 0)) 0 { lane := 0, va := 0x2000, size := 4, acc := .read } = .hit 0x2000 ∧
    isSys 0x2000 = false ∧ natOfBytes (coreRead tw 0 0x2000 4).2 = 0 ∧ (readSrc tw 0 wlX.wv .int 10 0).toNat = 0 ∧
    (readSrc tw 0 wlX.wv .int 9 0).toNat ≠ 0 := by decide +kernel

/-! A graph of three nodes: node 1 compute, node 2 raster; ports 0 and 2 to them, port 1 a continuation edge. -/

def edges3 : List Edge :=
  [{ src := 0, dst := 1, max := 4, port := 0, cont := false }, { src := 0, dst := 1, max := 4, port := 1, cont := true },
   { src := 0, dst := 2, max := 4, port := 2, cont := false }]

def launch0 : Launch :=
  { kind := .graph, img := 0, entryVA := 0, entryN := 1, entryNode := 0, cl0 := 0, cl1 := 0, arg := 0, doneVA := 0, doneVal := 0,
    irq := false, mmrev := 3, fed := 1, feedParked := false, doneParked := false, results := [], queued := [], running := [(0, 1)],
    unret := [(0, 1)], delivered := [], tree := [(0, (none, 0, 0, false))], started := 0, stallFrom := none, order := 0 }

def graphS (resv : SMap Nat) : State :=
  let s := withTeam tw (fun t => { t with cons := { t.cons with resv := resv } })
  { s with
    ctxs := s.ctxs.map (fun c => (c.1, { c.2 with
      launches := [(0, launch0)]
      images := c.2.images.map (fun m => (m.1, { m.2 with
        nodes := [{ placedNode 0 with edges := 3, result := true, vregs := 64 }, placedNode 0, placedNode 1]
        edges := edges3, fmts := [(32, false)], qdir := [0, 1, 2] })) })) }

def gs : State := graphS [(0, 64), (1, 64), (2, 64)]
def gx : WCtx := xOf gs 15
def gs0 : State := graphS []
/-- The raster FIFO of core 0 full. -/
def gsFull : State := { gs with vqs := [(0, { VQueue.reset with ras := List.replicate 8 (.item 0 0 2 placedRec) })] }
def consOf (s : State) : Cons := ((SMap.find? s.teams 0).getD placedTeam).cons

theorem witness_Appends :
    waveOf gs 15 = some gx ∧ (SMap.find? gs.teams gx.wv.team).isSome = true ∧ gx.e ≠ 0 ∧ gx.cl.sent = 0 ∧
    (List.range 4).all (fun p => decide (issueFault gs gx [(.vBlock (portWords gs (consOf gs) p), 4)] 0 = none)) = true ∧
    portEdge gs 0 0 0 3 = none ∧ portEdge gs 0 0 0 0 = edges3[0]? ∧ portEdge gs 0 0 0 1 = edges3[1]? ∧ portEdge gs 0 0 0 2 = edges3[2]? ∧
    recSize gs 0 0 1 = 32 ∧ dataInRange gx 4 8 = true ∧ dataInRange gx 60 8 = false ∧ issueFault gs gx [(.vBlock 8, 60)] 0 = none ∧
    (lanesOf gx.e).length ≤ 64 ∧ waveOf gs0 15 = some (xOf gs0 15) ∧ 0 < (lanesOf (xOf gs0 15).e).length ∧
    kindOf gs 0 0 1 = 0 ∧ kindOf gs 0 0 2 = 1 ∧ fifoDepth 1 < 64 ∧ fifoRoom gs 0 1 64 = true ∧ fifoRoom gsFull 0 1 64 = false ∧
    (lanesOf (xOf gs 2).e).length = 1 ∧ 1 ≤ fifoDepth 1 ∧ fifoRoom gs 0 1 1 = true ∧
    SMap.sortedFrom 0 gs.vqs = true := by decide +kernel

def popS (qc ready : Nat) (alive : Bool) : State :=
  withWave gs (fun wv => { wv with
    qc := qc
    qready := [(0, ready)]
    recs := List.replicate 64 placedRec
    pair := if alive then some 0 else none })

theorem witness_ReservationsResultsRecordReadsAndPops :
    issueFault gs gx [(.uni, 0x181)] 0 = none ∧ portEdge gs 0 0 0 0 = edges3[0]? ∧ portEdge gs 0 0 0 3 = none ∧
    issueFault gs gx [(.src, 4)] 0 = none ∧ gx.nd.result = true ∧ tx.nd.result = false ∧ tx.e ≠ 0 ∧
    issueFault gs gx [(.vDst 1 1, 6), (.src, 10), (.only ((List.range 16).map (· + 0x181)), 0x181)] 1000 = none ∧
    (lanesOf gx.e).filter (fun l => (readSrc gs 0 gx.wv .int 10 l).toNat % 4 != 0 ||
      decide ((readSrc gs 0 gx.wv .int 10 l).toNat + 4 * 1 > recSize gs 0 0 0)) = [] ∧ tokenFull gx.wv 1 = false ∧
    (lanesOf gx.e).filter (fun l => (readSrc gs 0 gx.wv .int 4 l).toNat % 4 != 0 ||
      decide ((readSrc gs 0 gx.wv .int 4 l).toNat + 4 * 1 > recSize gs 0 0 0)) = [0, 1] ∧
    issueFault gs gx [(.vDst 1 1, 6), (.src, 4), (.only ((List.range 16).map (· + 0x181)), 0x181)] 1000 = none ∧
    (let x := xOf (popS 1 1 true) 15
     waveOf (popS 1 1 true) 15 = some x ∧ issueFault (popS 1 1 true) x [(.vDst 1 1, 6)] 2 = none ∧ x.e ≠ 0 ∧ 0 < x.wv.qc ∧
     SMap.get 0 x.wv.qready x.wv.qh = 1 ∧ pendingPops x.wv = [] ∧ SMap.sortedFrom 0 x.wv.v = true) ∧
    (let x := xOf (popS 0 0 false) 15
     waveOf (popS 0 0 false) 15 = some x ∧ issueFault (popS 0 0 false) x [(.vDst 1 1, 6)] 2 = none ∧ x.wv.qc = 0 ∧
     accessAlive (popS 0 0 false) x.wv = false) ∧
    (let x := xOf (popS 0 0 true) 15
     waveOf (popS 0 0 true) 15 = some x ∧ issueFault (popS 0 0 true) x [(.vDst 1 1, 6)] 2 = none ∧ x.wv.qc = 0 ∧
     accessAlive (popS 0 0 true) x.wv = true) := by decide +kernel

def exW (b : BitVec 9) (m : BitVec 4) : VWord := { vw with b := b, mod := m }
def deepRec : State := withWave gs (fun wv => { wv with recs := [{ placedRec with depth := 10 }] })

theorem witness_Exits :
    tx.wv.access = false ∧ (xOf (withWave tw (fun wv => { wv with access := true })) 15).wv.access = true ∧
    SMap.sortedFrom 0 tx.wv.m = true ∧ SMap.sortedFrom 0 gs.ctxs = true ∧ launchOf gs 0 0 = some launch0 ∧
    SMap.sortedFrom 0 launch0.tree = true ∧ SMap.find? launch0.tree 0 = some (none, 0, 0, false) := by decide +kernel

/-- EXIT.C on port 1 twice, on port 0 that is no continuation edge, and on port 1 alone: complete, too deep, and short. -/
theorem witness_ExitC :
    (List.range (exW 0x20 0).nPorts).map (exW 0x20 0).exitPort = [1] ∧
    (List.range (exW 0x22 1).nPorts).map (exW 0x22 1).exitPort = [1, 1] ∧
    (List.range (exW 0 0).nPorts).map (exW 0 0).exitPort = [0] ∧
    gx.cl.sent = 0 ∧ issueFault gs gx [(.vBlock 8, 4)] 0 = none ∧ issueFault gs gx [(.vBlock 8, 60)] 0 = none ∧
    portWords gs (consOf gs) 1 = 8 ∧ portWords gs (consOf gs) 0 = 8 ∧
    dataInRange gx 4 8 = true ∧ dataInRange gx 60 8 = false ∧ (portEdge gs 0 0 0 1).map (·.cont) = some true ∧
    (portEdge gs 0 0 0 0).map (·.cont) = some false ∧ kindOf gs 0 0 1 ≠ 1 ∧ kindOf gs 0 0 1 ≠ 2 ∧
    (lanesOf gx.e).filter (fun l => match laneRec gx.wv l with | some r => decide (10 ≤ r.depth) | none => false) = [] ∧
    (lanesOf (xOf deepRec 15).e).filter (fun l => match laneRec (xOf deepRec 15).wv l with | some r => decide (10 ≤ r.depth) | none => false) = [0] ∧
    waveOf deepRec 15 = some (xOf deepRec 15) := by decide +kernel

def getW (n : Nat) : VWord := { vw with d := 6, b := BitVec.ofNat 9 (n / 128), c := BitVec.ofNat 9 (n % 128 * 4), token := 1 }

theorem witness_WaveSystemRegisters :
    (SMap.find? tw.teams tx.wv.team).isSome = true ∧ tokenFull tx.wv 1 = false ∧ issueFault tw tx [(.dst, 6)] 1000 = none ∧
    issueFault tw tx [(.dst, 6), (.dst, 7)] 1000 = none ∧ issueFault tw tx [(.dst, 7), (.dst, 8)] 1000 = none ∧ issueFault tw tx [(.dst, 0x13F)] 1000 = none ∧
    [0, 1, 2, 3, 0x10, 0x1F, 0x30, 0x33, 4, 0x40].all (fun n => decide ((getW n).imm16 = n)) = true ∧
    (xOf npS 15).wv.np = some 0 ∧ tx.wv.np = none ∧ waveSr 4 = none ∧ issueFault tw tx [(.uni, 0x181)] 0 = none ∧
    (readUni tw 0 tx.wv 0x181).toNat < 64 ∧ issueFault tw tx [(.uni, 0x101)] 0 = none ∧ 64 ≤ (readUni tw 0 tx.wv 0x101).toNat ∧
    (waveSr 1).isSome = true ∧ (waveSr 0x33).isSome = true := by decide +kernel

/-- The sequencer of cluster 0, cores none. -/
def seqAt (w : Nat) (f : Seq → Seq) : State :=
  let s := State.reset.withFetchWord 64 w
  { s with
    cur := some (.seq 0)
    seqs := s.seqs.map (fun e => (e.1, f e.2)) }
def ss : State := seqAt 0xDC00E0300E1401E0 (fun q => { q with q := [(1, 40), (2, 1)] })
def xOfS (s : State) : SCtx := (seqOf s).getD { k := 0, sq := placedSeq 7, cl := placedClause 7 1 }
def sx : SCtx := xOfS ss
/-- A program that has worked: sub-tile 0 not clear. -/
def ssBusy : State := seqAt 0xDC00E0300E1401E0 (fun q => { q with
  q := [(1, 1)]
  subs := [(0, { Sub.reset with clear := false })] })

theorem witness_SequencerSystemRegisters :
    seqOf ss = some sx ∧ [0, 0x40, 0x41, 0x42, 0x43, 0x44, 0x45, 0x46, 0x47].all (fun n => (seqSr n).isSome) = true ∧ seqSr 1 = none ∧
    seqFault sx [(.q, true, 3)] = none ∧ seqFault sx [(.val, false, 2)] = none ∧ (ss.ctx sx.sq.cons.ctx).dbgScb = false ∧
    (seqRead ss sx.k sx.sq 2).toNat = 1 ∧ allClear sx.sq = true ∧ tokenOf 1 = some 1 ∧ SMap.get 0 sx.sq.tok 1 < 63 ∧
    63 ≤ SMap.get 0 (xOfS (seqAt 0xDC00E0300E1401E0 (fun q => { q with tok := [(1, 63)] }))).sq.tok 1 ∧ SMap.sortedFrom 0 sx.sq.tok = true ∧ keyHeld ss 0 0 1 = false ∧
    seqOf ssBusy = some (xOfS ssBusy) ∧ allClear (xOfS ssBusy).sq = false ∧ (seqRead ssBusy 0 (xOfS ssBusy).sq 1).toNat < 2 ∧
    seqFault (xOfS ssBusy) [(.val, false, 1)] = none := by decide +kernel

/-! Memory: one lane (selector 2) at 0x2000; two pages, the second in host memory. -/

def sysTlb : TlbE := { ctx := 0, va := 0x400000, size := 0x200000, pa := 0x10000000000, w := true, x := false }
def ms : State :=
  { tw with
    tlb1 := [(0, [placedTlb, sysTlb])]
    waves := tw.waves.map (fun e => (e.1, { e.2 with v := [(4 * 64, 0x2000), (9 * 64, 5), (12 * 64, 0x2001), (14 * 64, 0x400000)] })) }
/-- Address v4, data v9, immediate offset 0. -/
def mw : VWord := { vw with token := 1, msel := 2, mod := 1 }
def mx : WCtx := xOf ms 2

theorem reaches_load : Reaches ms mw mx placedTeam ([(dstKind .w, 6), (.srcN 2, 4)] ++ offsetOps mw)
    (accOf true false (gAddr ms mx mw 4) 4 mx.e) [0x2000] := by unfold Reaches; decide +kernel

theorem witness_MemoryWordsCheckEveryLaneFirst :
    memRow ms mx (.ld .w mw) = some (mw, [(dstKind .w, 6), (.srcN 2, 4)] ++ offsetOps mw, accOf true false (gAddr ms mx mw 4) 4 mx.e) ∧
    (addrFault placedTeam (regionSize mx.nd) (accOf true false (gAddr ms mx { mw with a := 12 } 4) 4 mx.e)).isSome = true ∧
    waveOf (withWave ms (fun wv => { wv with tok := [(1, 63)] })) 2 = some (xOf (withWave ms (fun wv => { wv with tok := [(1, 63)] })) 2) ∧
    tokenFull (xOf (withWave ms (fun wv => { wv with tok := [(1, 63)] })) 2).wv 1 = true ∧
    (match waveGate { ms with tlb1 := [] } mx ((accOf true false (gAddr ms mx mw 4) 4 mx.e).map reqOf) with | .wait _ => true | _ => false) = true ∧
    (match waveGate { ms with tlb1 := [], tlb2 := [], wfault := [{ ctx := 0, page := 2, acc := .read, cause := 1, who := askerOf ms }] } mx
      ((accOf true false (gAddr ms mx mw 4) 4 mx.e).map reqOf) with | .park _ => true | _ => false) = true ∧
    (match waveGate { ms with tlb1 := [], tlb2 := [], wfault := [{ ctx := 0, page := 2, acc := .read, cause := 3, who := askerOf ms }] } mx
      ((accOf true false (gAddr ms mx mw 4) 4 mx.e).map reqOf) with | .fatal _ => true | _ => false) = true := by decide +kernel

def oneLock : Team := { placedTeam with locks := [(0, { dst := true, glob := true, lo := 0x2000, hi := 0x2004, user := true })] }

/-- An address past 2^52, past the region, misaligned, and in a locked range. -/
theorem witness_AddressChecks :
    (addrFault placedTeam 4096 [{ lane := 0, addr := 2 ^ 52, size := 4, align := 4, glob := true, write := false }]).isSome = true ∧
    (addrFault placedTeam 4096 [{ lane := 0, addr := 4094, size := 4, align := 4, glob := false, write := false }]).isSome = true ∧
    (addrFault placedTeam 4096 [{ lane := 0, addr := 4092, size := 4, align := 4, glob := false, write := false }]).isSome = false ∧
    (addrFault placedTeam 4096 [{ lane := 0, addr := 2, size := 4, align := 4, glob := true, write := false }]).isSome = true ∧
    (addrFault oneLock 4096 [{ lane := 0, addr := 0x2000, size := 4, align := 4, glob := true, write := false }]).isSome = true ∧
    (addrFault oneLock 4096 [{ lane := 0, addr := 0x2004, size := 4, align := 4, glob := true, write := false }]).isSome = false := by
  decide +kernel

/-- An access wave (1) beside its compute wave (0), loads to the window of four entries. -/
def accS (qc : Nat) : State :=
  let s := withNode ms (fun n => { n with qbase := 200, qlen := 4 })
  { s with
    cur := some (.wave 1)
    waves := match SMap.find? s.waves 0 with
      | some wv => [(0, { wv with pair := some 1, qc := qc }), (1, { wv with access := true, pair := some 0 })]
      | none => [] }
def ldW : VWord := { mw with d := 0xFF }

theorem reaches_window (qc : Nat) (h : qc = 0 ∨ qc = 4) :
    Reaches (accS qc) ldW (xOf (accS qc) 2) placedTeam ([(.srcN 2, 4)] ++ offsetOps ldW)
      (accOf true false (gAddr (accS qc) (xOf (accS qc) 2) ldW 4) 4 (xOf (accS qc) 2).e) [0x2000] := by
  rcases h with rfl | rfl <;> unfold Reaches <;> decide +kernel

theorem rows_load :
    memRow ms mx (.lda .w mw) = some (mw, [(dstKind .w, 6), (.srcN 2, 4)] ++ offsetOps mw, accOf true false (gAddr ms mx mw 4) 4 mx.e) ∧
    memRow ms mx (.ldl .w { mw with a := 10 }) = some ({ mw with a := 10 }, [(dstKind .w, 6), (.src, 10)] ++ offsetOps { mw with a := 10 },
      accOf false false (lAddr ms mx { mw with a := 10 } 4) 4 mx.e) := ⟨rfl, rfl⟩

theorem witness_Loads :
    (mx.wv.access && mw.d == 0xFF) = false ∧ ms.inOrder = true ∧ List.length ms.l1 = 0 ∧
    inflightIn ms placedTeam = [] ∧ lAddr ms mx { mw with a := 10 } 4 0 = 0 := by decide +kernel

theorem witness_WindowLoads :
    (xOf (accS 0) 2).wv.access = true ∧ (xOf (accS 0) 2).wv.pair = some 0 ∧ (xOf (accS 0) 2).v = 1 ∧
    (SMap.find? (accS 0).waves 0).map (·.qc) = some 0 ∧ (SMap.find? (accS 4).waves 0).map (·.qc) = some 4 ∧
    (xOf (accS 0) 2).nd.qlen = 4 := by decide +kernel

theorem reaches_localLoad : Reaches ms { mw with a := 10 } mx placedTeam ([(dstKind .w, 6), (.src, 10)] ++ offsetOps { mw with a := 10 })
    (accOf false false (lAddr ms mx { mw with a := 10 } 4) 4 mx.e) [] := by unfold Reaches; decide +kernel

theorem reaches_store : Reaches ms mw mx placedTeam ([(.srcN 2, 4), (dataKind .w, 9)] ++ offsetOps mw)
    (accOf true true (gAddr ms mx mw 4) 4 mx.e) [0x2000] := by unfold Reaches; decide +kernel

theorem reaches_localStore : Reaches ms { mw with a := 10 } mx placedTeam ([(.src, 10), (dataKind .w, 9)] ++ offsetOps { mw with a := 10 })
    (accOf false true (lAddr ms mx { mw with a := 10 } 4) 4 mx.e) [] := by unfold Reaches; decide +kernel

theorem witness_Stores :
    memRow ms mx (.strl .w mw) = some (mw, [(.srcN 2, 4), (dataKind .w, 9)] ++ offsetOps mw, accOf true true (gAddr ms mx mw 4) 4 mx.e) ∧
    isSys 0x2000 = false ∧ SMap.sortedFrom 0 placedTeam.mem = true ∧ outside [] 4 0x2000 = (∀ pa ∈ [], 0x2000 < pa ∨ pa + 4 ≤ 0x2000) := by
  refine ⟨by decide +kernel, by decide +kernel, by decide +kernel, rfl⟩

/-- MOD[0] 0: 32-bit operands. -/
def aw : VWord := { mw with mod := 0, c := 0 }

theorem reaches_atomic : Reaches ms aw mx placedTeam [(.dst, 6), (.srcN 2, 4), (.src, 9)]
    (rmwOf true (fun l => ((readPair ms 0 mx.wv 4 l).toNat : Int)) 4 mx.e) [0x2000] := by unfold Reaches; decide +kernel

theorem reaches_reduction : Reaches ms aw mx placedTeam [(.srcN 2, 4), (.src, 9)]
    (rmwOf false (fun l => ((readPair ms 0 mx.wv 4 l).toNat : Int)) 4 mx.e) [0x2000] := by unfold Reaches; decide +kernel

theorem reaches_twoSum : Reaches ms aw mx placedTeam [(.srcN 2, 4), (.src, 9)]
    (rmwOf false (fun l => ((readPair ms 0 mx.wv 4 l).toNat : Int)) 8 mx.e) [0x2000] := by unfold Reaches; decide +kernel

theorem reaches_hostAtomic : Reaches ms { aw with a := 14 } mx placedTeam [(.dst, 6), (.srcN 2, 14), (.src, 9)]
    (rmwOf true (fun l => ((readPair ms 0 mx.wv 14 l).toNat : Int)) 4 mx.e) [0x10000000000] := by unfold Reaches; decide +kernel

/-- Every lane of the wave active: lane 0 at 0x2000, the others all at 0. -/
def msX : WCtx := xOf ms 15
def laneAddrs : List Nat := 0x2000 :: List.replicate 63 0

theorem reaches_lanes : Reaches ms { aw with msel := 15 } msX placedTeam [(.dst, 6), (.srcN 2, 4), (.src, 9)]
    (rmwOf true (fun l => ((readPair ms 0 msX.wv 4 l).toNat : Int)) 4 msX.e) laneAddrs := by unfold Reaches; decide +kernel

theorem rows_atomic :
    memRow ms mx (.atom .add .none aw) = some (aw, [(.dst, 6), (.srcN 2, 4), (.src, 9)] ++ [],
      rmwOf true (fun l => ((readPair ms 0 mx.wv 4 l).toNat : Int)) 4 mx.e) ∧
    memRow ms mx (.red .add aw) = some (aw, [(.srcN 2, 4), (.src, 9)], rmwOf false (fun l => ((readPair ms 0 mx.wv 4 l).toNat : Int)) 4 mx.e) ∧
    memRow ms mx (.fredC2 aw) = some (aw, [(.srcN 2, 4), (.src, 9)], rmwOf false (fun l => ((readPair ms 0 mx.wv 4 l).toNat : Int)) 8 mx.e) ∧
    memRow ms mx (.atom .add .none { aw with a := 14 }) = some ({ aw with a := 14 }, [(.dst, 6), (.srcN 2, 14), (.src, 9)] ++ [],
      rmwOf true (fun l => ((readPair ms 0 mx.wv 14 l).toNat : Int)) 4 mx.e) := ⟨rfl, rfl, rfl, rfl⟩

/-- A reduction at a system address: its lanes are translated, and the lowest of them is at home in host memory. -/
theorem witness_SystemAtomics :
    (let accs := rmwOf false (fun l => ((readPair ms 0 mx.wv 14 l).toNat : Int)) 4 mx.e
     memRow ms mx (.red .add { aw with a := 14 }) = some ({ aw with a := 14 }, [(.srcN 2, 14), (.src, 9)], accs) ∧
     issueFault ms mx [(.srcN 2, 14), (.src, 9)] 1000 = none ∧ addrFault placedTeam (regionSize mx.nd) accs = none ∧
     accs.map (fun a => translate ms (some 0) 0 0 a.addr.toNat .write) = [.hit 0x10000000000]) := by decide +kernel

theorem linkBars_of (s : State) (hl : s.links = []) (l : Nat) : linkBars s l = false := by
  unfold linkBars linkTrains linkDown; rw [hl]; simp [SMap.find?, SMap.get]

theorem homesUp_of (s : State) (hp : s.poison = []) (hd : s.dies = []) (hl : s.links = []) : s.homesUp := by
  refine ⟨hp, fun pa => ?_, fun l => ?_⟩
  · unfold offline State.die; rw [hd]; cases dramOf pa <;> rfl
  · exact linkBars_of s hl l

theorem witness_HomesUp : ms.homesUp ∧ tw.homesUp ∧ noParts ms (0x2000 / 128) ∧ l1Room ms 0 64 :=
  ⟨homesUp_of _ rfl rfl rfl, homesUp_of _ rfl rfl rfl, by unfold noParts; decide +kernel, by unfold l1Room; decide +kernel⟩

theorem witness_Atomics :
    lanesOf mx.e = [0] ∧ (lanesOf msX.e).length = 64 ∧ laneAddrs.all (fun pa => !isSys pa) = true ∧ isSys 0x2000 = false ∧ isSys 0x10000000000 = true ∧ poisoned ms 0x2000 8 = false ∧ ms.inOrder = true ∧
    List.length ms.l1 = 0 := by decide +kernel

/-! Fences, copies and locks, for the active lane of selector 2. -/

def fnS (f : SMap (Nat × Bool)) : State := withWave tw (fun wv => { wv with
  fences := f
  w := [(1, 0x12345), (2, 0xF1000000)] })

theorem witness_Fences :
    issueFault tw tx [] 1000 = none ∧ tokenFull tx.wv 1 = false ∧ wide ({ vw with mod := 0xA } : VWord).scope = true ∧
    wide ({ vw with mod := 0 } : VWord).scope = false ∧ strengthened tw 0 = false ∧ issueFault tw tx [(.wDst, 0x106)] 1000 = none ∧
    (List.range 4).find? (fun i => (SMap.find? tx.wv.fences i).isNone) = some 0 ∧
    (∀ i, i < 4 → (SMap.find? (xOf (fnS [(0, (0, false)), (1, (1, false)), (2, (2, false)), (3, (3, false))]) 15).wv.fences i).isSome = true) ∧
    issueFault tw tx [(.uni, 0x101)] 1000 = none ∧ (readUni tw 0 tx.wv 0x101).toNat / 2 ^ 24 ≠ 0xF1 ∧
    (readUni (fnS []) 0 (xOf (fnS []) 15).wv 0x102).toNat = 0xF1000000 ∧ issueFault (fnS []) (xOf (fnS []) 15) [(.uni, 0x102)] 1000 = none ∧
    SMap.find? (xOf (fnS []) 15).wv.fences 0 = none ∧
    SMap.find? (xOf (fnS [(0, (0, false))]) 15).wv.fences 0 = some (0, false) ∧
    SMap.find? (xOf (fnS [(0, (0, true))]) 15).wv.fences 0 = some (0, true) ∧ tw.inOrder = true := by decide +kernel

/-- Global address v4, region address v10, four bytes. -/
def cpW : VWord := { vw with token := 1, msel := 2, b := 10, c := 0x184 }
theorem reaches_copyIn : Reaches ms cpW mx placedTeam (acopyOps cpW) (acopyAccs true ms cpW mx) [0x2000] := by
  unfold Reaches; decide +kernel
theorem reaches_copyOut : Reaches ms cpW mx placedTeam (acopyOps cpW) (acopyAccs false ms cpW mx) [0x2000] := by
  unfold Reaches; decide +kernel

def copyOp (inward : Bool) : PendOp :=
  { id := 5, tok := some 1, regs := [], kind := .copy inward [0] [(0, 7)] [(0, 0, 0)], earliest := 0, latest := 0 }
def flyS (inward : Bool) : State := withWave tw (fun wv => { wv with ops := [copyOp inward] })
def outOp : PendOp :=
  { id := 5, tok := some 1, regs := [], kind := .copy false [] [(0x2000, 7)] [(0, 0x2000, 0)], earliest := 0, latest := 0 }
def outS : State := withWave tw (fun wv => { wv with ops := [outOp] })
def cntS : State := withTeam tw (fun t => { t with cin := [(0, 1)] })

theorem witness_Copies :
    (SMap.find? (flyS true).waves 0).bind (fun wv => wv.ops.find? (fun o => o.id == 5)) = some (copyOp true) ∧
    (SMap.find? outS.waves 0).bind (fun wv => wv.ops.find? (fun o => o.id == 5)) = some outOp ∧ edgeHere outS (coreOfWave 0) = true ∧
    outOp.earliest ≤ coreEdges outS (coreOfWave 0) ∧ outS.inOrder = true ∧ List.length outS.l1 = 0 ∧
    (SMap.find? outS.waves 0).all (fun wv => decide (wv.pcs ≠ []) && SMap.sortedFrom 0 wv.tok) = true ∧
    releaseWaits tw 0 = false ∧ releaseLoss tw 0 = none ∧ SMap.sortedFrom 0 placedTeam.cout = true ∧
    SMap.sortedFrom 0 placedTeam.mem = true ∧ SMap.sortedFrom 0 placedTeam.cin = true ∧ ([(0, (7 : Byte))].map (·.1)).Nodup ∧
    issueFault tw tx [(.codes [0x180, 0x181, 0x182, 0x183], 0x180), (.uniPair, 0x181), (.codes [0x181, 0x182, 0x183], 0x181)] 1000 = none ∧
    lanesOf (readUniPair tw 0 tx.wv 0x181) = [0] ∧ SMap.get 0 placedTeam.cin 0 = 0 ∧
    (SMap.find? cntS.teams 0).map (fun t => SMap.get 0 t.cin 0) = some 1 ∧
    ((SMap.find? (flyS false).waves 0).map (fun wv => wv.ops.any (outwardOp (flyS false)))) = some true ∧
    tx.wv.ops.all (fun o => !outwardOp tw o) = true := by decide +kernel

def locked (n : Nat) : Team :=
  { placedTeam with locks := (List.range n).map (fun i => (i, { dst := true, glob := true, lo := 0, hi := 4, user := decide (i ≠ 1) })) }

/-- RLOCK of 0x181 bytes at w pair 2 with C 0, 1; RUNLOCK of handles 0x100, 0x101 and 5. -/
theorem witness_Locks :
    issueFault tw tx [(.wDst, 0x106), (.uniPair, 0x102), (.uni, 0x181), (.codes [0x180, 0x181], 0x180)] 1000 = none ∧
    issueFault tw tx [(.wDst, 0x106), (.uni, 0x102), (.uni, 0x181), (.codes [0x180, 0x181], 0x181)] 1000 = none ∧
    issueFault tw tx [(.wDst, 0x106), (.uni, 0x102), (.uni, 0x180), (.codes [0x180, 0x181], 0x181)] 1000 = none ∧
    (readUni tw 0 tx.wv 0x181).toNat = 1 ∧ (readUni tw 0 tx.wv 0x180).toNat = 0 ∧ (readUni tw 0 tx.wv 0x102).toNat + 1 ≤ regionSize tx.nd ∧
    regionSize tx.nd < (readUni (fnS []) 0 (xOf (fnS []) 15).wv 0x102).toNat + 1 ∧ freeLocks placedTeam = List.range 16 ∧ freeLocks (locked 16) = [] ∧
    (readUniPair tw 0 tx.wv 0x102).toNat < 2 ^ 52 ∧
    (SMap.find? (locked 2).locks 0).map (·.user) = some true ∧ (SMap.find? (locked 2).locks 1).map (·.user) = some false ∧
    SMap.find? (locked 2).locks 2 = none := by decide +kernel

/-- PREF of one lane at 0x2000, translated and not. -/
theorem witness_Prefetch :
    issueFault ms mx ([(.srcN 2, 4)] ++ offsetOps { mw with mod := 0, c := 10 }) 1000 = none ∧ gAddr ms mx { mw with mod := 0, c := 10 } 128 0 = 0x2000 ∧
    xlate ms (some (coreOfWave 0)) (stackOfCore (coreOfWave 0)) 0 { lane := 0, va := 0x2000, size := 1, acc := .read } = .hit 0x2000 ∧
    xlate { ms with tlb1 := [] } (some (coreOfWave 0)) (stackOfCore (coreOfWave 0)) 0 { lane := 0, va := 0x2000, size := 1, acc := .read } = .miss := by
  decide +kernel

/-- A descriptor at 0x2000: four words at 0x3000 on, to the region from 0 on. -/
def descBytes : List (Nat × Nat) := [(0x2001, 0x30), (0x2010, 8), (0x2020, 4), (0x2028, 4)]
def tcMem : List Host.Cell := descBytes.map (fun b => (b.1, BitVec.ofNat 8 b.2)) ++ [(0x3000, 0x11), (0x3004, 0x22)]
def tcS : State := { ms with mem := tcMem }
def tcD : List Nat := descOf (homeBytes tcS 0x2000 192)

theorem witness_TensorCopyIssue :
    waveOf tcS 2 = some (xOf tcS 2) ∧ issueFault tcS (xOf tcS 2) [(.srcN 2, 4)] 1000 = none ∧ lowestLane (xOf tcS 2).e = 0 ∧
    addrFault placedTeam (regionSize (xOf tcS 2).nd) [LaneAcc.mk 0 0x2000 192 0 true false true] = none ∧
    waveGate tcS (xOf tcS 2) ((List.range 3).map (fun j => Req.mk 0 (0x2000 + 64 * j) 64 .read true)) = .go [0x2000, 0x2040, 0x2080] ∧
    descReason (homeBytes tcS 0x2000 192) (regionSize (xOf tcS 2).nd) = none ∧ extentHit placedTeam (dExtents tcD).1 false = none ∧
    extentHit placedTeam (dExtents tcD).2 true = none ∧ (freeLocks placedTeam).length = 16 ∧ (freeLocks (locked 15)).length < 2 ∧
    (descReason (homeBytes ms 0x2000 192) (regionSize mx.nd)).isSome = true ∧
    dRank tcD ≤ 9 ∧ (∀ k, k < dRank tcD → 1 ≤ dSize tcD k) ∧ 0 ≤ dLow tcD ∧
    (List.range (dRank tcD)).foldl (fun p k => p * dSize tcD k) 1 = 4 := by decide +kernel

def longT : LongOp :=
  { id := 3, pc := 0x1000, ctx := 0, team := 0, wave := 0, op := 3, kind := .tcopy tcD, locks := [0, 1], inward := [0], outward := [],
    park := .no, captured := false }
def tcR : State := { tcS with longs := [longT], tlb2 := [(0, [placedTlb])] }
def tcWave : Wave := (SMap.find? tcR.waves 0).getD (placedWave 0)

theorem witness_TensorCopyCommit :
    tcR.longs.find? (fun l => l.id == 3) = some longT ∧ SMap.find? tcR.teams 0 = some placedTeam ∧ longT.park = .no ∧ longT.captured = false ∧
    ctxRuns tcR 0 = true ∧ stackRuns tcR (stackOfCore (coreOfWave 0)) = true ∧ SMap.find? tcR.waves 0 = some tcWave ∧
    inflightIn tcR placedTeam = [] ∧ tcR.inOrder = true ∧ List.length tcR.l1 = 0 ∧ dDir tcD = 0 ∧
    gate tcR none (stackOfCore (coreOfWave 0)) 0 (readsOf ((dElements tcD).map (·.1)) 4 .read) (askOp 3) = .go [0x3000, 0x3004, 0x3008, 0x300C] := by
  decide +kernel

/-! Tiles: a program on cluster 0 that holds key 1; the wave's offsets are 4 × lane. -/

def tileProg (st : TileSt) : Seq := { placedSeq 7 with bind := 1, tst := [(1, st)] }
def tlS (st : TileSt) : State :=
  let s := withWave tw (fun wv => { wv with
    v := (List.range 64).map (fun l => (9 * 64 + l, BitVec.ofNat 32 (4 * l)))
    w := [(1, 1), (2, 0x20080), (3, 0x20081)] })
  { s with seqs := [(0, tileProg st)] }
def tlX (st : TileSt) : WCtx := xOf (tlS st) 15
/-- TFEED and TTAKE of tile 1 of key w1, offsets v9, data v4. -/
def tfW : VWord := { vw with d := 0x101, a := 4, b := 9, c := 32, token := 1 }

theorem witness_TileWords :
    waveOf (tlS .empty) 15 = some (tlX .empty) ∧ (tlX .empty).e ≠ 0 ∧ tokenFull (tlX .empty).wv 1 = false ∧
    issueFault (tlS .empty) (tlX .empty) [(.uni, 0x101), (.vSrc 1, 4), (.src, 9)] 1000 = none ∧
    issueFault (tlS .empty) (tlX .empty) [(.uni, 0x101), (.vSrc 3, 4), (.src, 9)] 1000 = none ∧
    issueFault (tlS .empty) (tlX .empty) [(.uni, 0x180), (.vSrc 1, 4), (.src, 9)] 1000 = none ∧
    badOffsets (tlX .empty) false (fun l => (readSrc (tlS .empty) 0 (tlX .empty).wv .int 9 l).toNat) = [] ∧
    badOffsets (tlX .empty) true (fun l => (readSrc (tlS .empty) 0 (tlX .empty).wv .int 9 l).toNat) = [] ∧
    readUni (tlS .empty) 0 (tlX .empty).wv 0x101 = 1 ∧ readUni (tlS .empty) 0 (tlX .empty).wv 0x180 = 0 ∧
    keyProg (tlS .empty) 0 1 = some 0 ∧ keyProg (tlS .empty) 0 0x20080 = none ∧ (tlX .empty).wv.keySince = none ∧
    tfW.tile = 1 ∧ tileState (tileProg .empty) 1 = .empty ∧ tileRead (tlS .empty) 0 1 = false ∧ tileState (tileProg .full) 1 = .full ∧
    SMap.sortedFrom 0 (tileProg .empty).tst = true ∧ (∀ l, l < 64 → subBusy (tlS .empty) 0 (subOfElem (4 * l)) = false) ∧
    (tileProg .empty).bad = [] ∧ SMap.sortedFrom 0 (tileProg .empty).tiles = true ∧ SMap.sortedFrom 0 (tileProg .empty).acc = true ∧
    { tileProg .full with bad := [1] }.bad.contains 1 = true := by decide +kernel

theorem witness_TilesTaken :
    issueFault (tlS .full) (tlX .full) [(.vDst 1 1, 6), (.uni, 0x101), (.src, 9)] 1000 = none ∧
    issueFault (tlS .full) (tlX .full) [(.vDst 4 1, 8), (.uni, 0x101), (.src, 9)] 1000 = none ∧
    keyProg (tlS .full) 0 1 = some 0 ∧ SMap.find? (tlS .full).seqs 0 = some (tileProg .full) := by decide +kernel

def keyWave : Wave := { placedWave 0 with keySince := some (0, 5, 1) }
def keyS : State := { tw with
  waves := [(0, keyWave)]
  aclk := 65536 }

theorem witness_TileKeyTimeout :
    keyWave.keySince = some (0, 5, 1) ∧ 0 + 65536 ≤ coreEdges keyS (coreOfWave 0) ∧ keyProg keyS 0 5 = none ∧ keySaved keyS 0 5 = false ∧
    (keyS.ctx 0).st = .active ∧ keyS.waves.length = 1 ∧ keyWave.stopped = false := by decide +kernel

/-- A panel of two words a row, pitch 128, at 0x2000. -/
def pnS (st : TileSt) : State := { tlS st with waves := (tlS st).waves.map (fun e => (e.1, { e.2 with v := [(4 * 64, 0x2000)] })) }

theorem witness_PanelsIssue :
    waveOf (pnS .empty) 15 = some (xOf (pnS .empty) 15) ∧ lowestLane (xOf (pnS .empty) 15).e = 0 ∧
    (readPair (pnS .empty) 0 (xOf (pnS .empty) 15).wv 4 0).toNat = 0x2000 ∧ (readUni (pnS .empty) 0 (xOf (pnS .empty) 15).wv 0x102).toNat = 0x20080 ∧
    issueFault (pnS .empty) (xOf (pnS .empty) 15) [(.uni, 0x101), (.srcN 2, 4), (.uni, 0x102)] 1000 = none ∧
    layoutBad 0x20080 0x2000 false (some 0) = false ∧ layoutBad 0x20080 0x2000 false none = false ∧ layoutBad 0x20081 0x2000 false none = true ∧
    (let ext := wordExtent true 0x2000 (rowAddrs 0x20080 0x2000)
     addrFault placedTeam (regionSize tx.nd) [LaneAcc.mk 0 0x2000 (ext.2.2 - 0x2000) 0 true false true, LaneAcc.mk 0 (ext.2.2 - 1 : Nat) 1 0 true false true] = none) ∧
    keyProg (pnS .empty) 0 1 = some 0 ∧ freeLocks placedTeam = List.range 16 := by decide +kernel

/-- A panel of two words a row in the region. -/
def pnLong (kind : LongKind) : LongOp := { longT with kind := kind, locks := [0], inward := [], outward := [] }
def pnR (st : TileSt) (kind : LongKind) : State := { pnS st with longs := [pnLong kind] }

/-- Slots of scaled I8 rows: scales between the blocks, and in an array of their own. -/
def mixSlot : DWord := BitVec.ofNat 64 (6 * 2 ^ 28 + 2 ^ 24 + 2 ^ 22)
def apartSlot : DWord := BitVec.ofNat 64 (6 * 2 ^ 28 + 2 ^ 24 + 2 * 2 ^ 22)
/-- The same panel in global memory. -/
def pnG (kind : LongKind) : State := { pnR .busy kind with tlb2 := [(0, [placedTlb])] }

theorem longReady_pn (st : TileSt) (kind : LongKind) (h : (st = .busy ∧ kind = .tld 0 1 0 0x20080 false 0) ∨
    (st = .full ∧ kind = .tst 0 1 0 0x20080 false true)) :
    LongReady (pnR st kind) 3 (pnLong kind) placedTeam ((SMap.find? (pnR st kind).waves 0).getD (placedWave 0)) := by
  rcases h with ⟨rfl, rfl⟩ | ⟨rfl, rfl⟩ <;> unfold LongReady <;> decide +kernel

theorem witness_ScaledPanels :
    slotRows mixSlot = 1 ∧ slotRows apartSlot = 2 ∧ rowwOk (some mixSlot) 36 = true ∧ rowwOk (some apartSlot) 32 = true ∧
    rowwOk (some 0) (layRoww 0x20080) = true ∧
    pieceByte (pnR .busy (.tld 0 1 0 0x20080 false 0)) { placedTeam with mem := [(3, 1)] } false 0 3 ≠ 0 ∧
    pieceByte (pnR .busy (.tld 0 1 0 0x20080 false 0)) placedTeam false 0 3 = 0 ∧
    (match gate (pnG (.tld 0 1 0x2000 0x20080 true 0)) none 0 0 (readsOf (rowAddrs 0x20080 0x2000 ++ scaleAddrs 0 0x20080 0x2000) 4 .read) (askOp 3) with
      | .go l => l == rowAddrs 0x20080 0x2000 | _ => false) = true ∧
    (match gate (pnG (.tst 0 1 0x2000 0x20080 true false)) none 0 0 (readsOf (rowAddrs 0x20080 0x2000) 4 .write) (askOp 3) with
      | .go l => l == rowAddrs 0x20080 0x2000 | _ => false) = true := by decide +kernel

theorem witness_PanelsCommit :
    SMap.sortedFrom 0 placedTeam.locks = true ∧ SMap.sortedFrom 0 (pnR .full (.tst 0 1 0 0x20080 false true)).seqs = true ∧
    (tileProg .full).bad = [] ∧ (tileProg .full).standing = none ∧ SMap.sortedFrom 0 (tileProg .full).tst = true ∧
    tileState (tileProg .full) 1 = .full ∧ readersOf (pnR .full (.tst 0 1 0 0x20080 false true)) 0 (tileProg .full) 1 = [0] ∧
    (pnR .busy (.tld 0 1 0 0x20080 false 0)).longs.find? (fun l => l.id == 3) = some (pnLong (.tld 0 1 0 0x20080 false 0)) ∧
    progAt (pnR .busy (.tld 0 1 0 0x20080 false 0)) 0 = some 0 ∧ slotRows 0 = 0 ∧ layRoww 0x20080 = 2 ∧
    inflightIn (pnR .busy (.tld 0 1 0 0x20080 false 0)) placedTeam = [] ∧
    (pnR .full (.tst 0 1 0 0x20080 false true)).inOrder = true ∧ (rowAddrs 0x20080 0).Nodup ∧ (∀ c ∈ rowAddrs 0x20080 0, c % 4 = 0) ∧
    ctxRuns (pnS .full) 0 = true ∧ stackRuns (pnS .full) 0 = true ∧ (SMap.find? (pnS .full).waves 0).all (fun wv => decide (wv.pcs ≠ [])) = true := by
  decide +kernel

/-! Sequencers. -/

theorem witness_SequencerScalars :
    (seqTable (.sadd { vw with d := 3, a := 1, b := 2 })).isSome = true ∧ seqFault sx [(.q, true, 3), (.val, false, 1), (.val, false, 2)] = none ∧
    seqFault sx [(.q, true, 3), (.val, false, 1)] = none ∧ seqFault sx [(.q, true, 3)] = none ∧
    (seqFault sx [(.q, true, 0x40), (.val, false, 1), (.val, false, 2)]).isSome = true ∧ SMap.sortedFrom 0 sx.sq.q = true := by decide +kernel

/-- A header at 0x1000; q1 is 0x1000. -/
def sbS (f : Seq → Seq) : State :=
  let s := seqAt 0xDC00E0300E1401E0 (fun q => f { q with q := [(1, 0x1000)] })
  { s with mem := (hdrBytes ++ s.mem).filter (fun c => c.2 != 0) }
def sbT : State := sbS (fun q => { q with ret := [0x1000] })
def sbX : SCtx := xOfS sbT

theorem witness_SequencerBranches :
    seqOf sbT = some sbX ∧ 0x1000 % 8 = 0 ∧ fetchCode sbT none (sbX.k / 24) sbX.sq.cons.ctx 0x1000 = .word 0xF010A00A00000000 ∧
    isHeader 0xF010A00A00000000 = true ∧ (((sbX.cl.h : Int) + 8 * (0 : BitVec 24).toInt) % 2 ^ 64).toNat = 0x1000 ∧
    seqFault sbX [(.q, false, 1)] = none ∧ seqFault sbX [(.q, false, 2)] = none ∧ (sbT.ctx 0).dbgScb = false ∧
    (seqRead sbT 0 sbX.sq 1).toNat = 0x1000 ∧ seqRead sbT 0 sbX.sq 2 = 0 ∧ sbX.sq.ret = [0x1000] ∧
    indirectOf sbT 0 0 (sbX.cl.h + 8 * (sbX.cl.i + 1)) = none ∧ (xOfS ss).sq.ret = [] ∧
    16 ≤ (xOfS (sbS (fun q => { q with ret := List.replicate 16 0 }))).sq.ret.length := by decide +kernel

/-- The program's record in the tree of its launch, its node's queue with one record outstanding. -/
def seS : State :=
  { ss with
    ctxs := ss.ctxs.map (fun c => (c.1, { c.2 with launches := [(0, launch0)] }))
    queues := [(qidOf ss 0 0 0, { ctx := 0, img := 0, node := 0, half0 := .empty, half1 := .empty, far := [], pages := [], occ := 1, rv := 0, lingered := [] })] }

theorem witness_SequencerEnds :
    seqOf seS = some sx ∧ sx.sq.cons.recs = [placedRec] ∧ launchOf seS 0 0 = some launch0 ∧ SMap.sortedFrom 0 seS.ctxs = true ∧
    SMap.sortedFrom 0 launch0.tree = true ∧ SMap.sortedFrom 0 launch0.running = true ∧ SMap.find? launch0.tree placedRec.id = some (none, 0, 0, false) ∧
    (SMap.find? seS.queues (qidOf seS sx.sq.cons.ctx sx.sq.cons.img sx.sq.cons.node)).isSome = true ∧ sx.sq.queue = [] ∧ (∀ t ∈ sx.sq.tst, t.2 = .empty) ∧ SMap.sortedFrom 0 ss.seqs = true ∧
    (xOfS (sbS (fun q => { q with queue := [(.mzero 1, none)] }))).sq.queue ≠ [] ∧
    (∃ t ∈ (xOfS (sbS (fun q => { q with tst := [(1, .full)] }))).sq.tst, t.2 ≠ .empty) := by decide +kernel

/-- Slots: I8, LG8, FP32; tiles 1 and 9 FULL. -/
def mxS (f : Seq → Seq) : State :=
  withNode (seqAt 0xDC00E0300E1401E0 (fun q => f { q with
    q := [(1, 512), (2, 40000)]
    tst := [(1, .full), (9, .full)] })) (fun n => { n with slots := [slotWord 6 0 0, slotWord 8 0 0, slotWord 0 0 0] })
def mt : State := mxS id
def mtX : SCtx := xOfS mt
def one8 (n : Nat) : List (MOp × Option Nat) := List.replicate n (.mwait, none)

theorem witness_MatrixWords :
    seqOf mt = some mtX ∧ (mt.ctx mtX.sq.cons.ctx).dbgScb = false ∧ mtX.sq.queue.length < 8 ∧ tokenOf 1 = some 1 ∧
    SMap.get 0 mtX.sq.tok 1 < 63 ∧ 8 ≤ (xOfS (mxS (fun q => { q with queue := one8 8 }))).sq.queue.length ∧
    seqFault mtX [(.qOrConst, false, 0x181)] = none ∧ (seqRead mt 0 mtX.sq 0x181).toNat = 1 ∧
    seqFault mtX [(.qOrConst, false, 1)] = none ∧ (seqRead mt 0 mtX.sq 1).toNat = 512 ∧ mtX.sq.queue = [] ∧ mtX.sq.grp = none ∧
    (∀ t, t < 16 → (2 : Nat).testBit t = true → tileState mtX.sq t = .full) ∧ (seqRead mt 0 mtX.sq 0x182).toNat = 2 ∧
    SMap.find? mt.seqs 0 = some mtX.sq ∧ seqFault mtX [(.qOrConst, false, 0x181), (.qOrConst, false, 2)] = none ∧
    32767 < (seqRead mt 0 mtX.sq 2).toInt ∧ seqFault mtX [(.qOrConst, false, 0x181), (.qOrConst, false, 0x1A0)] = none ∧
    (seqRead mt 0 mtX.sq 0x1A0).toInt ≤ 32767 ∧ (∀ i, i < 9 → (1 : Nat).testBit i = true → clearAfter mtX.sq i = true) ∧
    clearAfter (xOfS (mxS (fun q => { q with subs := [(0, { Sub.reset with clear := false })] }))).sq 0 = false := by decide +kernel

theorem witness_DrainAndMma :
    seqFault mtX [(.tile, true, 0x22), (.qOrConst, false, 0x180)] = none ∧ (seqRead mt 0 mtX.sq 0x180).toNat ≤ 8 ∧
    drainSlotOk false (slotWord 0 0 0) = true ∧ drainSlotOk true (slotWord 6 0 0) = false ∧ drainSlotOk true (slotWord 8 0 0) = true ∧
    tileState mtX.sq 2 = .empty ∧ tileState mtX.sq 1 ≠ .empty ∧ tileRead mt 0 2 = false ∧
    seqFault mtX [(.qOrConst, false, 0x180), (.tile, false, 0x21), (.tile, false, 0x29)] = none ∧
    seqFault mtX [(.qOrConst, false, 1), (.tile, false, 0x21), (.tile, false, 0x29)] = none ∧ 8 < (seqRead mt 0 mtX.sq 1).toNat ∧
    mmaSlotsOk (slotWord 6 0 0) (slotWord 6 0 0) = true ∧ mmaSlotsOk (slotWord 6 0 0) (slotWord 8 0 0) = false ∧
    triAfter mtX.sq 0 = false ∧
    triAfter (xOfS (mxS (fun q => { q with subs := [(0, { Sub.reset with tri := some (0, 0) })] }))).sq 0 = true ∧
    tileState mtX.sq 9 = .full ∧
    (xOfS (mxS (fun q => { q with latch := some (1, 0, []) }))).sq.latch = some (1, 0, []) := by decide +kernel

def own0 : Owners := { a := 0, b := 0, red := 0 }
def mma0 : MOp := .mma 0 1 9 0 0 false false [] [] 0 0 false own0
def cmS (o : MOp) (f : Seq → Seq) : State := mxS (fun q => f { q with
  queue := [(o, some 1)]
  tok := [(1, 1)] })
def cmQ (o : MOp) (f : Seq → Seq) : Seq := (xOfS (cmS o f)).sq

theorem witness_MatrixCommits :
    [MOp.mzero 1, .mscale 1 (-3) 0, mma0, .msync 2 own0, .mwait, .mcoop, .mleave, .mdrain 2 0 2 0 false false].all (fun o =>
      decide (SMap.find? (cmS o id).seqs 0 = some (cmQ o id)) && (cmQ o id).queue == [(o, some 1)] && engineRuns (cmS o id) 0 (cmQ o id) &&
      decide (((cmS o id).ctx 0).st = .active) && SMap.sortedFrom 0 (cmQ o id).tok && SMap.sortedFrom 0 (cmQ o id).tst &&
      (cmQ o id).grp.isNone && !(cmQ o id).mctl && SMap.sortedFrom 0 (cmQ o id).acc && SMap.sortedFrom 0 (cmQ o id).subs && SMap.sortedFrom 0 (cmQ o id).tiles &&
      !meetsError (cmS o id) 0 (cmQ o id) o && !drainHeld (cmS o id) 0 (cmQ o id) o && (SMap.get Sub.reset (cmQ o id).subs 0).clear) = true ∧
    (let q := cmQ mma0 (fun q => { q with bad := [9] })
     meetsError (cmS mma0 (fun q => { q with bad := [9] })) 0 q mma0 = true) ∧
    ownerAt (cmS mma0 id) 0 (cmQ mma0 id) (cmQ mma0 id).prog = some 0 ∧ (SMap.get Sub.reset (cmQ mma0 id).subs 0).tri = none ∧
    own0.a = (cmQ mma0 id).prog ∧ own0.b = (cmQ mma0 id).prog ∧
    (let q := cmQ (.mdrain 2 0 1 0 false false) id
     let s := withNode (cmS (.mdrain 2 0 1 0 false false) id) (fun n => { n with slots := [slotWord 0 0 0, slotWord 2 0 1] })
     drainHeld s 0 q (.mdrain 2 0 1 0 false false) = false ∧
       drainHeld { s with rngs := [(0, { Rng.reset with served := (s.aclk, 3) })] } 0 q (.mdrain 2 0 1 0 false false) = true) ∧
    (SMap.get Sub.reset (cmQ (.mscale 1 (-3) 0) (fun q => { q with subs := [(0, { Sub.reset with clear := false })] })).subs 0).clear = false ∧
    slotRound (slotWord 0 0 0) ≠ 1 ∧
    (let q := cmQ (.mdrain 2 0 2 0 false true) (fun q => { q with
       mctl := true
       acc := [(accKey 0 0, { AccE.zero with sum := 1 })] })
     q.mctl = true ∧ (SMap.get Sub.reset q.subs 0).fedA = false ∧ mismatchRow q 0 = some 0) ∧
    AccE.zero.count + [((1 : Int), false, false)].length < 2 ^ 32 := by decide +kernel

/-- Descriptors of group 5: a shape, an operation. -/
def coopD (rows cols op : Nat) : DWord := BitVec.ofNat 64 (5 * 2 ^ 32 + (rows - 1) * 2 ^ 14 + (cols - 1) * 2 ^ 12 + op * 2 ^ 18)
def cgS (d : DWord) (f : Seq → Seq) : State := seqAt 0xDC00E0300E1401E0 (fun q => f { q with q := [(1, d)] })
def inGrp (formed sync : Bool) (q : Seq) : Seq := { q with
  grp := some { coopGrp (coopD 1 1 0).toNat 0 with formed := formed }
  syncing := sync }
def inGrpTwo (n : Nat) (q : Seq) : Seq := { q with grp := some { coopGrp (coopD 1 2 0).toNat 0 with formed := true, syncs := n } }
/-- A program that waits in JOIN for the group of a descriptor. -/
def inGrpOf (d : DWord) (q : Seq) : Seq := { q with
  grp := some (coopGrp d.toNat 0)
  syncing := true }
def otherMember (d : DWord) (s : State) : State := { s with seqs := s.seqs ++ [(1, { placedSeq 7 with grp := some (coopGrp d.toNat 0) })] }

theorem witness_CooperativeGroups :
    (let s := cgS (coopD 1 1 0) id
     let x := xOfS s
     seqOf s = some x ∧ seqFault x [(.q, false, 1)] = none ∧ (s.ctx 0).dbgScb = false ∧ x.sq.queue.length < 8 ∧ SMap.get 0 x.sq.tok 1 < 63 ∧
     (seqRead s 0 x.sq 1) = coopD 1 1 0 ∧ x.sq.syncing = false ∧ x.sq.grp = none ∧ x.sq.queue.length = 0 ∧
     groupOf s 0 5 = [] ∧ groupSaved s 0 5 = []) ∧
    coopBad 0 = true ∧ coopBad (coopD 1 1 0).toNat = false ∧ (coopD 1 1 0).toNat / 2 ^ 18 % 4 = 0 ∧
    (coopGrp (coopD 1 1 0).toNat 0).rows * (coopGrp (coopD 1 1 0).toNat 0).cols = 1 ∧
    (coopGrp (coopD 2 2 0).toNat 0).rows * (coopGrp (coopD 2 2 0).toNat 0).cols = 4 ∧ coopBad (coopD 2 2 0).toNat = false ∧
    (let s := otherMember (coopD 1 2 0) (cgS (coopD 2 2 0) id)
     (groupOf s 0 5).any (fun m => m.2.grp.any (fun h => !agrees (coopGrp (coopD 2 2 0).toNat 0) h)) = true) ∧
    (let s := otherMember (coopD 1 2 0) (cgS (coopD 1 2 0) (inGrpOf (coopD 1 2 0)))
     groupFull s 0 (coopGrp (coopD 1 2 0).toNat 0) = true ∧ ((xOfS s).sq.grp.map (·.formed)) = some false ∧ (xOfS s).sq.syncing = true) ∧
    (let s := cgS (coopD 1 2 0) (inGrpOf (coopD 1 2 0))
     groupFull s 0 (coopGrp (coopD 1 2 0).toNat 0) = false) ∧
    (let s := { cgS (coopD 1 2 0) id with savedSeqs := [{ placedSeq 7 with grp := some (coopGrp (coopD 1 2 0).toNat 0) }] }
     groupSaved s 0 5 ≠ [] ∧ (groupSaved s 0 5).all (fun m => m.grp.all (agrees (coopGrp (coopD 1 2 0 + 64).toNat 0))) = true) ∧
    coopBad (coopD 1 1 1).toNat = false ∧ (coopD 1 1 1).toNat / 2 ^ 18 % 4 = 1 ∧ coopBad (coopD 1 1 2).toNat = false ∧
    (coopD 1 1 2).toNat / 2 ^ 18 % 4 = 2 ∧
    (let x := xOfS (cgS (coopD 1 1 1) (inGrp true false))
     x.sq.grp.isSome = true ∧ x.sq.inGroup.isSome = true ∧ x.sq.syncing = false ∧ x.sq.queue.length = 0 ∧
     (x.sq.inGroup.map (·.key)) = some ((coopD 1 1 1).toNat / 2 ^ 32)) ∧
    (let x := xOfS (cgS (coopD 1 1 0) (inGrp true true))
     x.sq.syncing = true ∧ (x.sq.grp.map (·.formed)) = some true) := by decide +kernel

/-- A SYNC of a group of two: the other member has issued as many, or not yet. -/
def syncS (n : Nat) : State :=
  let s := cgS (coopD 1 2 1) (inGrpTwo 0)
  { s with seqs := s.seqs ++ [(1, inGrpTwo n (placedSeq 7))] }

theorem witness_Sync :
    (let x := xOfS (syncS 1)
     SMap.sortedFrom 0 (syncS 1).seqs = true ∧ x.sq.inGroup.isSome = true ∧ x.sq.queue.length = 0 ∧
     (members (syncS 1) x.sq).length = 2 ∧
     (members (syncS 1) x.sq).all (fun m => m.1 == 0 || m.2.grp.all (fun h => h.syncs == 1 && !m.2.syncing)) = true) ∧
    (members (syncS 0) (xOfS (syncS 0)).sq).any (fun m => m.1 == 1 && m.2.grp.any (fun h => decide (h.syncs < 1))) = true := by decide +kernel

theorem witness_JoinTimeout :
    (let s := { cgS (coopD 1 1 0) (inGrp false true) with aclk := 1048576 }
     s.seqs.length = 1 ∧ SMap.sortedFrom 0 s.ctxs = true ∧ (s.ctx 0).st = .active ∧ ((xOfS s).sq.grp.map (·.formed)) = some false ∧
     0 + 1048576 ≤ s.aclk) := by decide +kernel

/-! The vertical queue: the sampler's entries, and records for traversal on port 2. -/

def tvS (n : Nat) : State :=
  let s := graphS [(2, n)]
  { s with ctxs := s.ctxs.map (fun c => (c.1, { c.2 with images := c.2.images.map (fun m => (m.1, { m.2 with
    nodes := [{ placedNode 0 with edges := 3 }, placedNode 0, placedNode 2] })) })) }
def fullTex : State := { tw with vqs := [(0, { VQueue.reset with tex := List.replicate 16 (.item 0 0 0 placedRec) })] }

def xTv : WCtx := xOf (tvS 64) 15

theorem witness_VerticalWords :
    (texRow (.texSample { vw with d := 8, a := 0x100, b := 0x102, c := 12 })).isSome = true ∧
    issueFault tw tx ([(.vDst 4 4, 8), (.uniPair, 0x100), (.uniPair, 0x102), (.vSrc 4, 12)]) 1000 = none ∧
    samplerRoom tw 0 = true ∧ samplerRoom fullTex 0 = false ∧ SMap.sortedFrom 0 tw.vqs = true ∧
    issueFault (tvS 64) (xOf (tvS 64) 15) [(.vSrc 64, 16), (.codes ((List.range 16).map (· + 0x180)), 0x182)] 1000 = none ∧
    (portEdge (tvS 64) 0 0 0 2).map (·.cont) = some false ∧ kindOf (tvS 64) 0 0 2 = 2 ∧ kindOf (tvS 64) 0 0 1 ≠ 2 ∧
    xTv.cl.sent = 0 ∧ { xTv.cl with sent := 1 }.sent ≠ 0 ∧ SMap.sortedFrom 0 ([(2, 64)] : SMap Nat) = true ∧ (tvS 64).issue ≠ .hold ∧
    (lanesOf (xOf (tvS 64) 2).e).length ≤ 16 ∧ 16 < (lanesOf xTv.e).length ∧
    portEdge (tvS 64) 0 0 0 3 = none ∧ (lanesOf (xOf (tvS 64) 15).e).length = 64 ∧ fifoRoom (tvS 64) 0 2 64 = true ∧
    fifoRoom { tvS 64 with vqs := [(0, { VQueue.reset with trv := [.item 0 0 2 placedRec] })] } 0 2 64 = false := by decide +kernel

/-! Moraine cores. -/

/-- A kernel with a few registers: k2 is 0x2000, k3 is 4, z1 counts lanes. -/
def mk (f : MRegs → MRegs) : Kern :=
  { placedKern with regs := f { placedKern.regs with
      k := [(2, 0x2000), (3, 4)]
      z := (List.range 64).map (fun l => (64 + l, BitVec.ofNat 32 l))
      p := [(0, BitVec.allOnes 64), (1, 1)] } }
def mkS : State :=
  { (State.reset.withFetchWord 32 0x5863FFFF).setKern 0 (mk id) with
    cur := some (.mor 0)
    tlb2 := [(0, [placedTlb])] }
def mr : MR := { d := 2, a := 1, b := 1, pred := 0, t := 0, f := 0 }

theorem runsKern_mkS : RunsKern mkS 0 (mk id) := ⟨rfl, rfl⟩

theorem witness_MoraineWords :
    (mk id).regs.canon = true ∧ (morVecTable (.viadd mr)).isSome = true ∧ (Instr.viadd mr).wf = true ∧
    (List.range 10).all (fun f => (vcvtTable f).isSome) = true ∧ (List.range 8).all (fun f => (vredTable f).isSome) = true ∧
    (List.range 17).all (fun f => (kaluTable f 1 2).isSome) = true ∧
    ([Cmp.eq, .ne, .lt, .le, .gt, .ge][0]?).isSome = true ∧ ([XOp.fadd, .fmin, .fmax][8 - 8]?).isSome = true ∧
    (Instr.plogic { mr with a := 1, b := 0, pred := 0 }).wf = true := by decide +kernel

/-- KLD and KST of k2 + 0, VLD.S and VST.S of k2 + 4 i in lane 0 alone (p1). -/
def kldI : Instr := .kld { d := 4, a := 2, imm := 0 }
def vldI : Instr := .vldS { mr with a := 2, b := 3, pred := 1 }
def vstI : Instr := .vstS { mr with a := 2, b := 3, pred := 1 }
def onePlace : List MAcc := [{ lane := 0, addr := 0x2000 }]
def morReqs : List Req := onePlace.map (fun a => { lane := a.lane, va := a.addr, size := 4, acc := .read })
/-- What the translation of the kernel's one address answers. -/
def morTr (s : State) : Gate := gateBy none 0 0 (askerOf s) (fun r => translate s none 0 0 r.va r.acc) morReqs
def vldB (k2 : DWord) : MRegs := { (mk id).regs with k := [(2, k2), (3, 4)] }

theorem witness_MoraineMemory :
    kldI.wf = true ∧ vldI.wf = true ∧ vstI.wf = true ∧
    (morRow (mk id).regs kldI).map (fun p => (p.1.map (·.addr), p.2.1)) = some ([0x2000], 8) ∧
    (morRow (mk id).regs vldI).map (fun p => (p.1.map (·.addr), p.2.1)) = some ([0x2000], 4) ∧
    (morRow (mk id).regs vstI).map (fun p => (p.1.map (·.addr), p.2.1)) = some ([0x2000], 4) ∧
    (morRow (vldB (2 ^ 52)) vldI).map (fun p => (p.1.filter (fun a => decide (2 ^ 52 ≤ a.addr))).length) = some 1 ∧
    (morRow (vldB 0x2002) vldI).map (fun p => (p.1.filter (fun a => a.addr % 4 != 0)).length) = some 1 ∧
    (match morTr { mkS with tlb2 := [], wfault := [{ ctx := 0, page := 2, acc := .read, cause := 1, who := askerOf mkS }] } with
      | .park _ => true | _ => false) = true ∧
    (match morTr { mkS with tlb2 := [], wfault := [{ ctx := 0, page := 2, acc := .read, cause := 3, who := askerOf mkS }] } with
      | .fatal _ => true | _ => false) = true ∧
    (match morTr mkS with | .go l => l == [0x2000] | _ => false) = true ∧ dramOf 0x2000 = some (0 / 8) ∧
    (match gate { mkS with poison := [0x2000 / 32] } none 0 0 morReqs with | .fatal _ => true | _ => false) = true ∧
    (onePlace.zip [0x600000000]).filter (fun a => dramOf a.2 != some (0 / 8)) ≠ [] ∧
    spanSectors [(0x2000, 1)] ≤ 2048 := by decide +kernel

/-- What a span's own bytes, and the home, answer to a read of four bytes. -/
def morX (s : State) (ws : SMap Byte) : Xl :=
  morXl s { m := 0, kn := { mk id with writes := ws } } { lane := 0, va := 0x2000, size := 4, acc := .read }

theorem witness_MoraineHomes :
    translate mkS none 0 0 0x2000 .read = .hit 0x2000 ∧ (SMap.find? ([(0x2000, 1), (0x2001, 1), (0x2002, 1), (0x2003, 1)] : SMap Byte) 0x2003).isSome = true ∧
    morX { mkS with poison := [0x2000 / 32] } [(0x2000, 1), (0x2001, 1), (0x2002, 1), (0x2003, 1)] = .hit 0x2000 ∧
    poisoned { mkS with poison := [0x2000 / 32] } 0x2003 1 = true ∧ offline (mkS.setDie 2 { Die.reset with st := .held }) 0x2000 = true ∧
    (match gateBy none 0 0 (askerOf mkS) (morXl { mkS with poison := [0x2000 / 32] } { m := 0, kn := mk id }) morReqs with
      | .fatal _ => true | _ => false) = true := by decide +kernel

theorem morReaches_load : MorReaches mkS 0 (mk id) onePlace 4 .read [0x2000] := by unfold MorReaches; decide +kernel
theorem morReaches_store : MorReaches mkS 0 (mk id) onePlace 4 .write [0x2000] := by unfold MorReaches; decide +kernel

def mjW (off : BitVec 21) : MJ := { test := 0, off := off }
def mkImg : Image := (imageOf mkS 0 0).getD (placedImage 4 [])
/-- The kernel's image with the three nodes and edges, and kernels that have queued records. -/
def mqS (resv : SMap Nat) (recs : List (Nat × List Word)) : State :=
  let s := mkS.setKern 0 { mk id with
    recs := recs
    cons := { placedCons with resv := resv } }
  { s with ctxs := s.ctxs.map (fun c => (c.1, { c.2 with images := c.2.images.map (fun m => (m.1, { m.2 with
    nodes := [{ placedNode 4 with edges := 3 }, placedNode 0, placedNode 1]
    edges := edges3
    fmts := [(32, false)] })) })) }

theorem witness_MoraineControl :
    imageOf mkS 0 0 = some mkImg ∧ mkImg.mcode.length = 1 ∧ morBranchRow (mk id).regs (.br (mjW 0)) = some (mjW 0, true) ∧
    (Instr.br (mjW 0)).wf = true ∧ morBranchRow (mk id).regs (.bz { mjW 0 with test := 2 }) = some ({ mjW 0 with test := 2 }, false) ∧
    (Instr.bz { mjW 0 with test := 2 }).wf = true ∧ ((mk id).regs.pc : Int) + (mjW (-1)).off.toInt < 0 ∧ (Instr.mqapp { mr with d := 0, b := 0 }).wf = true ∧
    portEdge mkS 0 0 0 0 = none ∧ (portEdge (mqS [(0, 1)] []) 0 0 0 0).map (·.cont) = some false ∧
    (portEdge (mqS [(0, 1)] []) 0 0 0 1).map (·.cont) = some true ∧ SMap.get 0 ([(0, 1)] : SMap Nat) 0 = 1 ∧
    ((List.replicate 16 ((5 : Nat), ([] : List Word))).filter (fun r => r.1 == 0)).length = 0 ∧ (mkS.ctx 0).st = .active := by decide +kernel

/-- A record of the placed node waiting at the dispatcher of DRAM stack 0. -/
def kTransit : Transit :=
  { src := 0, stack := 0, ctx := 0, img := 0, node := 0, rcd := { placedRec with words := [5, 0, 7] }, park := .no }
def kStart : State := { mkS with
  kerns := []
  mdisp := [(0, [kTransit])] }
def kSaved : State := { mkS with
  kerns := []
  savedKerns := [(0, 0, mk id)] }

theorem witness_KernelStart :
    freeMor kStart 0 = some 0 ∧ bestKern (kernMoves kStart 0) = some (.start 0) ∧ (SMap.get [] kStart.mdisp 0)[0]? = some kTransit ∧
    nodeOf kStart 0 0 0 = some (placedNode 4) ∧ SMap.sortedFrom 0 kStart.mdisp = true ∧
    freeMor kSaved 0 = some 0 ∧ bestKern (kernMoves kSaved 0) = some (.back 0) := by decide +kernel

def kEnd (e : Nat) : Kern := { mk id with
  ending := e
  writes := [(0x2000, 9)]
  recs := [(0, [1])]
  cons := { placedCons with resv := [(0, 1)] } }
def kEndS (e : Nat) : State := (mqS [] []).setKern 0 (kEnd e)

theorem witness_KernelCommitsAndStops :
    SMap.find? (kEndS 1).kerns 0 = some (kEnd 1) ∧ SMap.find? (kEndS 2).kerns 0 = some (kEnd 2) ∧ ctxRuns (kEndS 1) 0 = true ∧
    (kEndS 1).power = true ∧ dieRuns (kEndS 1) 2 = true ∧ (kEndS 1).memWf = true ∧ SMap.sortedFrom 0 (kEnd 1).writes = true ∧
    SMap.sortedFrom 0 (kEndS 1).kerns = true ∧ dramOf 0x2000 = some 0 ∧ homeLoss (kEndS 1) (kEnd 1).writes = none ∧
    homeLoss { kEndS 1 with poison := [0x2000 / 32] } (kEnd 1).writes = some 0x30 ∧ (portEdge (kEndS 1) 0 0 0 0).isSome = true ∧
    (mk id).ending = 0 ∧ freeSlot mkS 0 = some 0 ∧ (mk id).stop = false ∧ { mk id with stop := true }.stop = true ∧ (mk id).park = .no ∧
    ((mkS.setCtx 0 { mkS.ctx 0 with st := .faulted }).ctx 0).st = .faulted := by decide +kernel

def dieS (d : Nat) (st : DieSt) : State := { State.reset.setDie d { Die.reset with st := st } with hclk := 300000 }

/-- A die in DRAIN with the team of core 0 and its queue; one with a dirty line whose home a training link cuts off. -/
def drainS : State :=
  { dieS 0 .drain with
    hclk := 5
    teams := [(0, placedTeam)]
    waves := [(0, placedWave 0)]
    queues := [(qidOf tw 0 0 0, { ctx := 0, img := 0, node := 0, half0 := .empty, half1 := .empty, far := [], pages := [], occ := 1, rv := 0, lingered := [] })]
    ctxs := tw.ctxs }
def cutS : State :=
  { dieS 1 .drain with
    hclk := 5
    links := [(0, .training 0)]
    l1 := [(l1Key 96 64, { st := .m, data := 1, dirty := 1, part := [] })] }

theorem witness_Drain :
    drainS.hclk < (drainS.die 0).since + 262144 ∧ drainWaits drainS 0 = false ∧ placedTeam.st ≠ .written ∧ stackOfCore placedTeam.core = 0 ∧
    (SMap.find? drainS.queues (qidOf drainS 0 0 0)).isSome = true ∧ (computeWaves drainS placedTeam).any (fun w => w.2.recs != []) = true ∧
    cutS.hclk < (cutS.die 1).since + 262144 ∧ drainWaits cutS 1 = true ∧
    (let s := (dieS 0 .held).setDie 0 { Die.reset with st := .held, since := 299999 }
     (s.die 0).st = .held ∧ s.hclk < (s.die 0).since + 4096) ∧
    (let s := (dieS 2 .held).setDie 0 { Die.reset with st := .init }
     (s.die 2).st = .held ∧ (s.die 0).st = .init ∧ (s.die 2).since + 4096 ≤ s.hclk) ∧
    (let s := (dieS 0 .init).setDie 0 { Die.reset with st := .init, follow := true }
     (s.die 0).st = .init ∧ (s.die 0).follow = true) ∧
    linkDown { dieS 0 .init with links := [(1, .down)] } 1 = true := by decide +kernel

theorem witness_DieResets :
    (State.reset.die 0).st = .run ∧ ((dieS 0 .quiesce).die 0).st ≠ .run ∧ ((dieS 2 .quiesce).die 2).st ≠ .run ∧
    ((dieS 0 .quiesce).die 0).st = .quiesce ∧ (∀ e, e < 4 → e ≠ 0 → ((dieS 0 .quiesce).die e).st ≠ .quiesce) ∧
    dieEmpty (dieS 0 .quiesce) 0 = true ∧ dieEmpty { dieS 0 .quiesce with waves := tw.waves } 0 = false ∧
    ((dieS 0 .quiesce).die 0).since + 65536 ≤ (dieS 0 .quiesce).hclk ∧ ((dieS 1 .drain).die 1).st = .drain ∧
    ((dieS 1 .drain).die 1).since + 262144 ≤ (dieS 1 .drain).hclk ∧ (∀ e, e < 4 → e ≠ 1 → ((dieS 1 .drain).die e).st ≠ .drain) ∧
    (∀ e, e < 4 → (State.reset.die e).st = .drain → State.reset.hclk < (State.reset.die e).since + 262144) ∧
    (∀ d, d < 4 → heldOver State.reset d = false) ∧ ((dieS 0 .held).die 0).st = .held ∧ ((dieS 0 .held).die 0).since + 4096 ≤ (dieS 0 .held).hclk ∧
    linkDown (dieS 0 .held) 1 = false ∧ linkDown { dieS 0 .held with links := [(1, .down)] } 1 = true ∧ ((dieS 0 .held).die 0).follow = false ∧
    ((dieS 1 .drain).die 1).fail = false ∧ linkDown (dieS 2 .init) 1 = false ∧ (dieS 2 .init).hub.held = [] ∧
    (let s := (dieS 2 .held).setDie 0 { Die.reset with st := .held, follow := true }
     (s.die 2).st = .held ∧ (s.die 0).st = .held ∧ (s.die 2).since + 4096 ≤ s.hclk) ∧
    (let s := State.reset.setDie 0 { Die.reset with st := .held, follow := true }
     (s.die 2).st ≠ .held ∧ (s.die 0).follow = true) ∧
    SMap.sortedFrom 0 (dieS 2 .init).dies = true ∧ ((dieS 2 .init).die 2).st = .init := by decide +kernel

/-- A die in DRAIN leaves the homes in service. -/
theorem homesUp_drain : (dieS 0 .drain).homesUp := by
  refine ⟨rfl, fun pa => ?_, linkBars_of _ rfl⟩
  have h : (dieS 0 .drain).dies = [(0, { Die.reset with st := .drain })] := by decide +kernel
  unfold offline
  cases dramOf pa with
  | none => rfl
  | some d =>
    have e : (dieS 0 .drain).die (2 + d / 2) = Die.reset := by
      unfold State.die; rw [h]; unfold SMap.get SMap.find?
      rw [if_neg (by omega)]; rfl
    simp only [e]; rfl

/-- A die's L1 with a dirty line. -/
def dirtyLine : Line := { st := .m, data := 0xAB, dirty := 1, part := [] }
theorem witness_DrainedLines :
    (let s := { dieS 0 .drain with l1 := [(l1Key 0 64, dirtyLine)] }
     s.inOrder = true ∧ (∀ e ∈ s.l1, l1Core e.1 / 96 = 0 ∧ e.2.st = .m ∧ e.2.st ≠ .u)) := by decide +kernel

theorem witness_LinksAndClocks :
    SMap.get .up State.reset.links 0 = .up ∧
    (let s := { dieS 0 .run with links := [(1, .training 0)] }
     SMap.get .up s.links 1 = .training 0 ∧ SMap.sortedFrom 0 s.links = true ∧ SMap.get .up s.links 1 ≠ .up) ∧
    (let s := { State.reset with hclk := 1048576, links := [(1, .training 0)] }
     SMap.get .up s.links 1 = .training 0 ∧ 0 + 1048576 ≤ s.hclk ∧ (s.die 2).st = .run) ∧
    State.reset.power = true ∧ State.reset.lock = 0 ∧ (∀ e ∈ State.reset.ctxs, e.2.st = .active → e.2.clklock = 0) ∧
    { State.reset with lock := 20 }.lock ≠ 0 ∧ { State.reset with moving := some 20 }.moving = some 20 ∧
    (let s := { State.reset.setCtx 3 { Ctx.reset with st := .waitClock, clklock := 20 } with lock := 20 }
     (s.ctx 3).st = .waitClock ∧ (s.ctx 3).clklock = 20 ∧ s.lock = 20) ∧
    (let s := State.reset.setCtx 3 { Ctx.reset with st := .waitClock, clklock := 16 }
     (s.ctx 3).st = .waitClock ∧ s.lock = 0 ∧ (s.ctx 3).clklock ≠ 0 ∧ s.point = (s.ctx 3).clklock ∧ s.moving = none ∧
     (∀ e ∈ s.ctxs, e.2.st = .active → e.2.clklock = 0)) ∧
    (let s := State.reset.setCtx 3 { Ctx.reset with st := .waitClock, clklock := 20 }
     let t := s.setCtx 4 { Ctx.reset with st := .active, clklock := 20 }
     let u := s.setCtx 4 { Ctx.reset with st := .active, clklock := 30 }
     s.point ≠ (s.ctx 3).clklock ∧ (t.ctx 4).clklock = (t.ctx 3).clklock ∧ (u.ctx 4).clklock ≠ (u.ctx 3).clklock) ∧
    (let s := { State.reset with hclk := 30, links := [(1, .training 0)] }
     SMap.get .up s.links 1 = .training 0 ∧ s.hclk < 0 + 1048576 ∧ SMap.sortedFrom 0 s.links = true) ∧
    (let s := { State.reset with hclk := 30, moving := some 20, stopAt := 20 }
     s.moving.isSome = true ∧ s.hclk < s.stopAt + 20000) ∧
    (let s := { State.reset with hclk := 30000, moving := some 20, stopAt := 20 }
     s.moving.isSome = true ∧ s.stopAt + 20000 ≤ s.hclk) ∧
    16 < { State.reset with point := 20 }.point ∧ State.reset.point ≤ 16 ∧ State.reset.moving = none ∧ (State.reset.ctx 0).st ≠ .waitClock ∧
    (let s := State.reset.setCtx 4 { Ctx.reset with st := .active, clklock := 30 }
     (∃ e ∈ s.ctxs, e.2.st = .active ∧ e.2.clklock ≠ 0) ∧ (∀ e ∈ s.ctxs, e.2.st = .active → e.2.clklock ≠ 0 → e.2.clklock = 30) ∧
     (∀ e ∈ s.ctxs, e.2.st = .active → e.2.clklock ≠ 20)) := by decide +kernel

def runningHub : Hub := { State.reset.hub with fwState := 1, keys := some { ecdsa := 5, seed := [], lmsId := [], certE := [], certL := [] } }
/-- The header of a firmware image: its magic and format, all else 0 (R82). -/
def fwForm : SMap Byte := [(0, 0x57), (1, 0x46), (2, 0x4C), (3, 0x4E), (4, 1)]

def fwGet (o n : Nat) : List Byte := (List.range n).map (fun j => SMap.get 0 fwForm (o + j))

theorem witness_FirmwareForm :
    natOfBytes (fwGet 0 4) = 0x4E4C4657 ∧ natOfBytes (fwGet 4 4) = 1 ∧ natOfBytes (fwGet 0x14 4) = 0 ∧ natOfBytes (fwGet 0x10 4) = 0 ∧
    (fwGet 0x18 0x68).all (· == 0) = true ∧ (fwGet 0x8EC 0x714).all (· == 0) = true := by decide +kernel

theorem witness_PowerAndFirmware :
    (let s := { tw with ratio := [(0, 2)], teams := [(0, { placedTeam with migrate := true, st := .stopping })] }
     SMap.get 1 s.ratio 0 = 2 ∧ (∃ t ∈ s.teams, t.2.core = 0 ∧ t.2.migrate = true ∧ t.2.st = .stopping)) ∧
    SMap.get 1 State.reset.ratio 0 ≠ 2 ∧ runningHub.keys = some { ecdsa := 5, seed := [], lmsId := [], certE := [], certL := [] } ∧ runningHub.fwState = 1 ∧
    runningHub.reportsDone < 32768 ∧ State.reset.hub.keys = none ∧
    natOfBytes ((List.range 4).map (fun j => SMap.get 0 ([] : SMap Byte) j)) ≠ 0x4E4C4657 ∧ State.reset.hub.fwState = 0 ∧
    { State.reset.hub with fwState := 2 }.fwState = 2 ∧ { State.reset.hub with fwState := 1 }.fwState = 1 ∧
    State.reset.hub.reportsDone < 32768 ∧ State.reset.fuses.boots < 1048576 := by decide +kernel

theorem eraseDups_of_nodup {l : List Nat} (h : l.Nodup) : l.eraseDups = l := by
  induction l with
  | nil => rfl
  | cons a as ih =>
    have h' := List.nodup_cons.1 h
    rw [List.eraseDups_cons, List.filter_eq_self.2 (fun b hb => by simpa using fun e : b = a => h'.1 (e ▸ hb)), ih h'.2]

/-- A span of 2,049 sectors. -/
theorem witness_SpanTooLarge : 2048 < spanSectors ((List.range 2049).map (fun j => (32 * j, (1 : Byte)))) := by
  have h : ((List.range 2049).map (fun j => (32 * j, (1 : Byte)))).map (fun e => e.1 / 32) = List.range 2049 := by
    simp [Function.comp_def]
  unfold spanSectors
  rw [h, eraseDups_of_nodup List.nodup_range, List.length_range]
  decide

/-! The host. -/

def hw (off : Nat) (v : BitVec 64) : HostWrite := { off := off, wide := true, val := v, relaxed := false }

def ctxS (x : Ctx) : State := State.reset.setCtx 3 x
def idle64 : Ctx := { Ctx.reset with st := .idle, ringBase := 0x10000, ringLog := 6 }
/-- Head 0 enabled. -/
def headS1 : State := { State.reset with heads := [(0, { Head.reset with ctl := 1 })] }

theorem witness_HostWrites :
    wReg (hw 0x100100 0x100000000) = none ∧ writeErr State.reset (hw 0x200 1) = some 1 ∧ writeErr (headS1) (hw 0x1000008 0) = some 3 ∧
    writeErr (ctxS idle64) { hw 0x103030 1 with relaxed := true } = some 4 ∧ writeErr (ctxS idle64) (hw 0x103030 65) = some 5 ∧
    writeErr (ctxS { idle64 with st := .faulted }) (hw 0x103030 1) = some 6 ∧ writeErr State.reset (hw 0x100001 0) = some 7 ∧
    State.reset.msix = [] ∧ SMap.sortedFrom 0 State.reset.l2old = true ∧
    writeErr State.reset (hw 0x90000 0) = some 2 ∧ State.reset.hub.errStatus % 2 = 0 ∧
    { State.reset.hub with errStatus := 1 }.errStatus % 2 ≠ 0 ∧ wReg (hw 0x90000 0) = none ∧
    wReg (hw 0x100001 0) = some (.ctx 0 .ctl) ∧ (hw 0x100001 0).off % 4 ≠ 0 ∧
    [CReg.ctl, .nbv, .filter, .clklock, .ptBase, .ringBase, .ringCfg, .scb, .status].zipIdx.all (fun k =>
      let off := 0x100000 + [0x00, 0x08, 0x10, 0x18, 0x20, 0x50, 0x58, 0x60, 0x38].getD k.2 0
      let v := [1, 4, 4, 0, 0x1000, 0x1000, 6, 1, 1024].getD k.2 0
      decide (writeErr State.reset (hw off v) = none) && decide (wReg (hw off v) = some (.ctx 0 k.1))) = true ∧
    [Reg.errStatus, .sysOffset, .apBase, .fwCtl, .snapCtl].zipIdx.all (fun k =>
      let off := [0x100, 0x310, 0x318, 0x408, 0x600].getD k.2 0
      decide (writeErr State.reset (hw off 0) = none) && decide (wReg (hw off 0) = some k.1)) = true ∧
    [Reg.time, .errLast, .errCorr, .linkRetry, .flogWr, .tlbStatus, .fwStatus, .snapStatus].zipIdx.all (fun k =>
      let off := [0x500, 0x108, 0x110, 0x118, 0x210, 0x308, 0x400, 0x608].getD k.2 0
      decide (writeErr State.reset (hw off 0) = none) && decide (wReg (hw off 0) = some k.1)) = true := by decide +kernel

def recovery : State := { State.reset with hub := { State.reset.hub with fwState := 2 } }
/-- The aperture over reserved addresses. -/
def apReserved : State := { State.reset with hub := { State.reset.hub with apBase := 0x4000000000 } }

theorem witness_Aperture :
    recovery.hub.fwState = 2 ∧ 0x100 < 0x4000000 ∧ inStaging State.reset 0x100 = false ∧
    touchesReserved (State.reset.hub.apBase.toNat / 2 ^ State.reset.hub.barLog * 2 ^ State.reset.hub.barLog + 0x100) 8 = false ∧
    offline State.reset 0x100 = false ∧ 0x100 + 8 ≤ 2 ^ State.reset.hub.barLog ∧ (∀ e ∈ State.reset.l1, l1Core e.1 < 192) ∧
    poisoned { State.reset with poison := [8] } 0x100 8 = true ∧ offline (dieS 2 .held) 0x100 = true ∧
    vecMasked State.reset 3 = true ∧ vecMasked { State.reset with hub := { State.reset.hub with vecTab := [(60, 0)] } } 3 = false ∧
    poisoned State.reset 0x100 8 = false ∧ State.reset.inOrder = true ∧ List.length State.reset.l1 = 0 ∧
    inStaging apReserved 0x100 = false ∧
    touchesReserved (apReserved.hub.apBase.toNat / 2 ^ apReserved.hub.barLog * 2 ^ apReserved.hub.barLog + 0x100) 8 = true ∧
    SMap.sortedFrom 0 recovery.hub.staging = true ∧ ([1, 2] : List Byte).length ≤ 4096 := by decide +kernel

/-- A kernel whose span used page 2, of context 3. -/
def spanKern : Kern := { mk id with
  cons := { placedCons with ctx := 3 }
  pages := [2] }

theorem witness_ContextCommands :
    (SMap.find? { ctxS idle64 with kerns := [(0, spanKern)] }.kerns 0).any (fun kn => kn.cons.ctx == 3 && kn.pages.any (fun p => p == 2)) = true ∧
    ((ctxS { idle64 with st := .waitClock }).ctx 3).st = .waitClock ∧
    writeErr (ctxS idle64) (hw 0x103030 1) = none ∧ wReg (hw 0x103030 1) = some (.ctx 3 .tail) ∧ (ctxS idle64).hub.fwState ≠ 2 ∧
    ((ctxS idle64).ctx 3).st = .idle ∧ BitVec.ofNat 32 (wMerged (hw 0x103030 1) 0) ≠ ((ctxS idle64).ctx 3).head ∧
    ((ctxS idle64).ctx 3).clklock = 0 ∧ ((ctxS { idle64 with clklock := 16 }).ctx 3).clklock ≠ 0 ∧
    (ctxS { idle64 with clklock := 16 }).point = 16 ∧ (ctxS { idle64 with clklock := 20 }).point ≠ 20 ∧
    (∀ e ∈ (ctxS { idle64 with clklock := 20 }).ctxs, e.2.st ≠ .active) ∧
    writeErr State.reset (hw 0x103000 1) = none ∧ wReg (hw 0x103000 1) = some (.ctx 3 .ctl) ∧ (State.reset.ctx 3).st = .disabled ∧
    wMerged (hw 0x103000 1) (regVal State.reset (.ctx 3 .ctl)) % 2 = 1 ∧ writeErr (ctxS idle64) (hw 0x103000 0) = none ∧
    wMerged (hw 0x103000 0) (regVal (ctxS idle64) (.ctx 3 .ctl)) % 2 = 0 ∧ SMap.sortedFrom 0 (ctxS idle64).ctxs = true ∧
    ((ctxS { idle64 with st := .active }).ctx 3).st = .active ∧ ((ctxS { idle64 with st := .faulted }).ctx 3).st = .faulted ∧
    ((ctxS { idle64 with st := .aborting }).ctx 3).st = .aborting ∧
    writeErr State.reset (hw 0x300 (2 ^ 63)) = none ∧ wReg (hw 0x300 (2 ^ 63)) = some .tlbInval ∧
    (wValue (hw 0x300 (2 ^ 63))).testBit 63 = true ∧ State.reset.hub.inval = none ∧
    { State.reset.hub with inval := some (0, 2, 0) }.inval = some (0, 2, 0) ∧ copyInFlight tw 0 = false ∧ copyInFlight (flyS true) 0 = true := by decide +kernel

def rep : Report := { reportOf 3 0x1000 0 0 (.of 0x11 2 1) with flags := 1 }
def logS (lg held : Nat) : State := { State.reset with hub := { State.reset.hub with
  flogLog := lg, flogBase := 0x100000, reports := [rep], held := List.replicate held rep, snapClass := 2 } }

theorem witness_Reports :
    (logS 6 0).hub.reports[0]? = some rep ∧ arrives (logS 6 0) 0 rep = true ∧ (logS 6 0).hub.held.length = 0 ∧ 0 < logRoom (logS 6 0) ∧
    arrives { logS 6 0 with links := [(1, .down)] } 0 rep = false ∧ regionOf 0x100000 ≠ .reserved ∧ (logS 6 0).memWf = true ∧
    logRoom (logS 0 0) = 0 ∧ (logS 0 0).hub.held.length < 256 ∧ 256 ≤ (logS 0 256).hub.held.length ∧
    (List.range 8).any (fun k => fires { logS 6 0 with hub := { (logS 6 0).hub with snapClass := 2 ^ k } } rep) = true ∧
    fires { logS 6 0 with hub := { (logS 6 0).hub with snapClass := 0 } } rep = false ∧
    writeErr (logS 0 2) (hw 0x218 0) = none ∧ wReg (hw 0x218 0) = some .flogRd ∧ writeErr (logS 0 2) (hw 0x200 0x100000) = none ∧
    wReg (hw 0x200 0x100000) = some .flogBase ∧ writeErr (logS 0 2) (hw 0x208 6) = none ∧ wReg (hw 0x208 6) = some .flogCfg ∧
    State.reset.hub.armed = true ∧ { State.reset.hub with armed := false }.armed = false := by decide +kernel

/-! Launches: the ring of context 0 at 0x4000, its entry 0; a loaded image at 0x8000. -/

def entryCells (ws : List (Nat × Nat)) : List Host.Cell := ws.map (fun w => (0x4000 + w.1, BitVec.ofNat 8 w.2))
def ringS (ws : List (Nat × Nat)) (f : Ctx → Ctx) : State :=
  let s := gs
  { s with
    mem := s.mem ++ entryCells ws
    tlb2 := [(0, [placedTlb])]
    ctxs := s.ctxs.map (fun c => (c.1, f { c.2 with
      ringBase := 0x4000
      ringLog := 6
      tail := 1
      launches := []
      images := c.2.images.map (fun m => (m.1, { m.2 with addr := 0x8000 })) })) }
/-- A graph launch of the image (IMAGE, one record of node 0, cluster 0 of stack 0). -/
def launchWs : List (Nat × Nat) := [(1, 0x80), (0x10, 1), (0x18, 1)]
/-- A request to unload it (IMAGE and container 0, argument the image). -/
def unloadWs : List (Nat × Nat) := [(0x21, 0x80)]

def entryOf (s : State) : State × List Byte := match hubGate s 0 0 0x4000 64 .read (askHub 0) with | .go ps => hubRead s ps | _ => (s, [])

theorem witness_RingEntries :
    (let s := ringS launchWs id
     (s.ctx 0).st = .active ∧ (s.ctx 0).head ≠ (s.ctx 0).tail ∧ (s.ctx 0).launches.length < 8 ∧ (s.ctx 0).ringLog ≠ 0 ∧
     (match hubGate s 0 0 0x4000 64 .read (askHub 0) with | .go _ => true | _ => false) = true ∧
     leAt (entryOf s).2 0 8 = 0x8000 ∧ (leAt (entryOf s).2 0x38 4).testBit 1 = false ∧ (imageAt (entryOf s).1 0 0x8000).isSome = true ∧
     loadPending (entryOf s).1 0 0 = false ∧ launchFault (entryOf s).1 (entryOf s).2 (imageAt (entryOf s).1 0 0x8000) = none) ∧
    (let s := ringS (launchWs ++ [(0x38, 2)]) (fun c => { c with launches := [(0, launch0)] })
     (leAt (entryOf s).2 0x38 4).testBit 1 = true ∧ (s.ctx 0).launches ≠ []) ∧
    (let s := ringS (launchWs ++ [(0x38, 2)]) id
     (leAt (entryOf s).2 0x38 4).testBit 1 = true ∧ (s.ctx 0).launches = [] ∧ ∀ g ∈ l1Cores (entryOf s).1, releaseWaits (entryOf s).1 g = false) ∧
    (let s := ringS (launchWs ++ [(0x3F, 1)]) id
     launchFault (entryOf s).1 (entryOf s).2 (imageAt (entryOf s).1 0 0x8000) = some 1) ∧
    (let s := ringS unloadWs id
     leAt (entryOf s).2 0 8 = 0 ∧ leAt (entryOf s).2 8 8 = 0 ∧ requestFault (entryOf s).1 0 (entryOf s).2 = none ∧
     leAt (entryOf s).2 0x20 8 / 4096 * 4096 = 0x8000 ∧ ((entryOf s).1.ctx 0).images.any (fun e => e.2.addr == 0x8000 && loadPending (entryOf s).1 0 e.1) = false) ∧
    (let s := ringS (unloadWs ++ [(0x3F, 1)]) id
     requestFault (entryOf s).1 0 (entryOf s).2 = some 1) ∧
    (let s := { ringS launchWs id with tlb2 := [], wfault := [{ ctx := 0, page := 4, acc := .read, cause := 1, who := askHub 0 }] }
     (match hubGate s 0 0 0x4000 64 .read (askHub 0) with | .park (_ :: _) => true | _ => false) = true) := by decide +kernel

/-! Loads: context 0 with an image at 0x8000 and a container at 0x6000 of one moraine node (R90-R92, R94). -/

def loadBody : List Byte :=
  bytesOf 2 1 ++ bytesOf 2 0 ++ bytesOf 4 112 ++ bytesOf 4 64 ++ bytesOf 4 1 ++
  bytesOf 2 4 ++ bytesOf 2 0 ++ bytesOf 4 176 ++ bytesOf 4 16 ++ bytesOf 4 1 ++
  bytesOf 2 13 ++ bytesOf 2 0 ++ bytesOf 4 192 ++ bytesOf 4 4 ++ bytesOf 4 1 ++
  (bytesOf 1 4 ++ bytesOf 1 0 ++ bytesOf 2 0 ++ bytesOf 4 0 ++ bytesOf 4 0xFFFFFFFF ++ bytesOf 2 0 ++ bytesOf 1 0xFF ++ bytesOf 1 0 ++
    bytesOf 16 0 ++ bytesOf 4 64 ++ bytesOf 4 0 ++ bytesOf 24 0) ++
  (bytesOf 2 32 ++ bytesOf 2 1 ++ bytesOf 12 0) ++ bytesOf 4 0x78000000
def container (crc : Nat) : List Byte :=
  bytesOf 4 0x4E4C4743 ++ bytesOf 2 1 ++ bytesOf 1 4 ++ bytesOf 1 3 ++ bytesOf 4 196 ++ bytesOf 4 crc ++ bytesOf 8 8192 ++
  bytesOf 2 3 ++ bytesOf 2 1 ++ bytesOf 36 0 ++ loadBody

def loadL (n : Nat) : Launch := { launch0 with kind := .load, entryVA := 0x6000, entryN := 1, entryNode := n, fed := 0, running := [], unret := [] }
def loadS (n crc : Nat) : State :=
  let s := gs
  { s with
    mem := s.mem ++ ((container crc).zipIdx.map (fun b => (0x6000 + b.2, b.1))).filter (fun e => e.2 != 0)
    tlb2 := [(0, [placedTlb])]
    ctxs := s.ctxs.map (fun c => (c.1, { c.2 with
      launches := [(0, loadL n)]
      images := [(0, { placedImage 4 [] with addr := 0x8000, st := .loading, nodes := [], qdir := [] })] })) }
def loadIm : Image := (imageOf (loadS 0 0) 0 0).getD (placedImage 4 [])
def okOf {α : Type} (r : LRes α) : Bool := match r with | .ok _ => true | _ => false
def readOf (s : State) (va n : Nat) : State × List Byte := match loadRead s 0 va n with | .ok p => p | _ => (s, [])
def writeOf (s : State) (va : Nat) (bs : List Byte) : State := match loadWrite s 0 va bs with | .ok t => t | _ => s

set_option maxRecDepth 20000 in
theorem witness_GraphLoad :
    nextLoad (loadS 0 0) = some (0, 0, loadL 0) ∧ imageOf (loadS 0 0) 0 0 = some loadIm ∧
    okOf (loadWrite (loadS 0 0) 0 0x8000 (imageHeader (loadS 0 0) (loadL 0) none 0xFFFFFFFF 0 0 0 0)) = true ∧
    (match loadWrite { loadS 0 0 with tlb2 := [] } 0 0x8000 [0] with | .walk _ _ => true | _ => false) = true ∧
    (let s := loadS 1 0
     let h := readOf s 0x6000 64
     let r := readOf h.1 0x6000 196
     okOf (loadRead s 0 0x6000 64) = true ∧ headErr h.2 = none ∧ (cheadOf h.2).length = 196 ∧ okOf (loadRead h.1 0 0x6000 196) = true ∧
     (match checkContainer r.1 0 0x8000 r.2 with | .inl e => e == (2, 0) | .inr _ => false) = true ∧
     okOf (loadWrite r.1 0 0x8000 (imageHeader r.1 (loadL 1) (some (cheadOf h.2)) 2 0 0 0 0)) = true) ∧
    (let s := loadS 1 (crc32 loadBody)
     let h := readOf s 0x6000 64
     let r := readOf h.1 0x6000 196
     (match checkContainer r.1 0 0x8000 r.2 with
     | .inl _ => false
     | .inr t =>
       let ps := placeClauses (0x8000 + 4096) (allClauses (segsOf t.words 0 []) t.safes t.nodes)
       let used := ps.foldl (fun n p => n + p.2.size) 4096
       let s3 := writeOf r.1 0x9000 (ps.flatMap (clauseBytes ps))
       decide ((freeDir r.1 t.nodes.length).length = t.nodes.length ∧ t.nodes.length = 1 ∧ (morainePlace r.1 (4 * t.mcode.length)).isSome = true ∧
       used ≤ t.head.isize ∧ okOf (loadWrite r.1 0 0x9000 (ps.flatMap (clauseBytes ps))) = true ∧
       okOf (copyData r.2 t 0 t.plan s3).2 = true ∧
       okOf (loadWrite (copyData r.2 t 0 t.plan s3).1 0 0x8000
         (imageHeader (copyData r.2 t 0 t.plan s3).1 (loadL 1) (some t.head) 0 0 1 used 0)) = true)) = true) := by decide +kernel

/-! Retirement, stalls, the entry feed and conditional delivery, over the graph of `gs` with its queues. -/

def queueS (f : Queue → Queue) (l : Launch → Launch) : State :=
  let s := gs
  { s with
    tlb2 := [(0, [placedTlb])]
    queues := [(0, f (emptyQueue 0 0 0)), (1, f (emptyQueue 0 0 1)), (2, f (emptyQueue 0 0 2))]
    ctxs := s.ctxs.map (fun c => (c.1, { c.2 with
      launches := [(0, l launch0)]
      images := c.2.images.map (fun m => (m.1, { m.2 with
        cedges := [{ src := 0, dst := 1, mask := 1, value := 1 }]
        nodes := m.2.nodes.mapIdx (fun n d => { d with qcap := 64, cedges := if n = 0 then 1 else 0 }) })) })) }
def overL (l : Launch) : Launch := { l with fed := 1, queued := [], running := [], unret := [], delivered := [0], results := [(0, 1)] }
def feedL (n : Nat) (l : Launch) : Launch := { l with fed := 0, entryNode := n, cl0 := 1, entryVA := 0x5000, running := [], unret := [] }

theorem witness_Retirement :
    (let s := queueS id overL
     launchOf s 0 0 = some (overL launch0) ∧ mayRetire s 0 (overL launch0) = true ∧ (s.ctx 0).st = .active ∧
     SMap.sortedFrom 0 (s.ctx 0).launches = true ∧ (s.ctx 0).launches = [(0, overL launch0)] ∧ (s.ctx 0).head = (s.ctx 0).tail ∧
     SMap.sortedFrom 0 (s.ctx 0).images = true) ∧
    (let s := queueS id (fun l => { overL l with doneVA := 0x2000 })
     (match hubGate (releaseAll s) 0 0 0x2000 8 .write (askTag 0 0) with | .go l => l == [(0x2000, 8)] | _ => false) = true ∧ s.inOrder = true ∧ mayRetire s 0 { overL launch0 with doneVA := 0x2000 } = true) ∧
    mayRetire (queueS id id) 0 launch0 = false ∧
    (let l : Launch := { launch0 with kind := .unload, fed := 0 }
     let s := queueS id (fun _ => l)
     launchOf s 0 0 = some l ∧ l.entryN = 1 ∧ (s.ctx 0).launches.all (fun k => k.2.kind != .graph || k.2.img != 0) = true) := by decide +kernel

theorem witness_EntryFeed :
    (let s := queueS id (feedL 0)
     let l := feedL 0 launch0
     launchOf s 0 0 = some l ∧ (nodeOf s 0 0 0).map (·.kind) = some 0 ∧ (nodeOf s 0 0 0).map (·.qcap) = some 64 ∧ (nodeOf s 0 0 0).map (fun n => n.width * n.team) = some 64 ∧
     SMap.find? s.queues (qidOf s 0 0 0) = some (emptyQueue 0 0 0) ∧ feedDone l = false ∧ l.feedParked = false ∧ (s.ctx 0).st = .active ∧
     (coreSet s l 0 ++ coreSet s l 1) = [0, 1, 2, 3] ∧ recSize s 0 0 0 = 32 ∧
     (match hubGate s 0 0 0x5000 32 .read (askTag 0 0) with | .go _ => true | _ => false) = true) ∧
    (let s := queueS id (feedL 2)
     (nodeOf s 0 0 2).map (·.kind) = some 1 ∧ recSize s 0 0 2 = 32 ∧ coreSet s (feedL 2 launch0) 0 ≠ [] ∧ qidOf s 0 0 2 = 2) ∧
    (let s := queueS (fun q => { q with occ := 64 }) (feedL 0)
     SMap.find? s.queues (qidOf s 0 0 0) = some { emptyQueue 0 0 0 with occ := 64 }) ∧
    (let l : Launch := { overL launch0 with delivered := [] }
     let s := queueS id (fun _ => l)
     let im := (imageOf s 0 0).getD (placedImage 0 [])
     imageOf s 0 0 = some im ∧ cedgesFrom im 0 ≠ [] ∧ (closureOf im l 0).drained = true ∧ (closureOf im launch0 0).drained = false) := by decide +kernel

/-- A record that cannot start: its place has no room for what it may append. -/
def stallS : State :=
  let s := queueS (fun q => if q.node = 0 then
    { q with
      occ := 1
      half0 := { q.half0 with st := .mapped, recs := [{ placedRec with load := none }] }
      lingered := [0] }
    else { q with occ := 64 }) (fun l => { l with fed := 1, cl0 := 1, queued := [(0, 1)], running := [], unret := [], stallFrom := some 0 })
  { s with hclk := 2000000 }

theorem witness_Stall :
    launchOf stallS 0 0 ≠ none ∧ runnable stallS 0 = true ∧ heldRecs stallS 0 0 ≠ [] ∧ onlyRoom stallS 0 0 = true ∧
    total ((launchOf stallS 0 0).getD launch0).queued = 1 ∧ total ((launchOf stallS 0 0).getD launch0).running = 0 ∧
    ((launchOf stallS 0 0).getD launch0).stallFrom = some 0 ∧ (candsOf stallS 0 0).length = 1 ∧ stalls stallS 0 0 ((launchOf stallS 0 0).getD launch0) = true ∧
    (∀ x ∈ gs.ctxs, ∀ l ∈ x.2.launches, l.2.stallFrom = none) := by decide +kernel

/-! Records: one on its way to a node of each kind, and queues whose halves are mapped or not. -/

def sentTo (n src : Nat) : Transit := { src := src, stack := 0, ctx := 0, img := 0, node := n, rcd := { placedRec with words := [0x2000, 0, 0, 5] }, park := .no }
/-- Node 0 of a KIND, its half on stack 0 in a state, and a spill region of `pages` pages. -/
def atS (kind : Nat) (st : HalfSt) (pages : Nat) (ts : List Transit) : State :=
  let s := queueS (fun q => { q with
    occ := 1
    half0 := { q.half0 with st := st } }) id
  { s with
    transit := ts
    ctxs := s.ctxs.map (fun c => (c.1, { c.2 with images := c.2.images.map (fun m => (m.1, { m.2 with
      spill := some (0x100000, 4096 * pages)
      nodes := m.2.nodes.mapIdx (fun n d => if n = 0 then { d with kind := kind } else d) })) })) }
def goesTo (s : State) : Option (Option Nat) :=
  match hubGate s 0 0 0x2000 1 .read (askRec 0) with | .go ((pa, _) :: _) => some (dramOf pa) | _ => none

def pteCells (at_ e : Nat) : List Host.Cell := ((bytesOf 8 e).zipIdx.map (fun b => (at_ + b.2, b.1))).filter (fun c => c.2 != 0)
/-- The same with page tables at 0x10000, 0x11000, 0x12000 and 0x13000, a leaf of 2 MiB at 0x200000. -/
def spillS : State :=
  let s := atS 0 .unmapped 1 [sentTo 0 1]
  { s with
    mem := s.mem ++ pteCells 0x10000 0x11001 ++ pteCells 0x11000 0x12001 ++ pteCells 0x12000 0x13001 ++ pteCells 0x13000 0x200033
    ctxs := s.ctxs.map (fun c => (c.1, { c.2 with ptRoot := 0x10000 })) }

theorem homesUp_spill : spillS.homesUp := homesUp_of _ rfl rfl rfl

theorem witness_Arrival :
    overtakes (atS 0 .mapped 1 [sentTo 0 1, sentTo 0 1]) 1 (sentTo 0 1) = true ∧
    overtakes (atS 0 .mapped 1 [sentTo 0 1]) 0 (sentTo 0 1) = false ∧ (sentTo 0 1).park = .no ∧
    ((atS 0 .mapped 1 [sentTo 0 1]).ctx 0).st = .active ∧ kindOf (atS 4 .mapped 1 [sentTo 0 1]) 0 0 0 = 4 ∧
    goesTo (atS 4 .mapped 1 [sentTo 0 1]) = some (some 0) ∧
    goesTo { atS 4 .mapped 1 [sentTo 0 1] with tlb2 := [(0, [{ placedTlb with pa := 0x10000000000 }])] } = some none ∧
    kindOf (atS 5 .mapped 1 [sentTo 0 1]) 0 0 0 = 5 ∧ kindOf (atS 0 .mapped 1 []) 0 0 0 = 0 ∧
    (SMap.find? (atS 0 .mapped 1 []).queues (qidOf (atS 0 .mapped 1 []) 0 0 0)).isSome = true ∧ (sentTo 0 1).stack ≤ 1 ∧
    (SMap.find? (atS 0 .mapped 1 []).queues 0).map (fun q => halfRoom (atS 0 .mapped 1 []) q 0) = some true ∧
    (SMap.find? (atS 0 .mapped 1 []).queues 0).map (fun q => decide (64 ≤ q.occ - 1)) = some false ∧
    (sentTo 0 1).rcd.page = none ∧
    (SMap.find? (atS 0 .unmapped 1 []).queues 0).map (fun q => (q.half 0).st != .mapped && (q.half 1).st != .mapped) = some true ∧
    (SMap.find? (atS 0 .unmapped 1 []).queues 0).bind (spillPlace (atS 0 .unmapped 1 [])) = some 0 ∧
    (SMap.find? (atS 0 .unmapped 1 []).queues 0).map (fun q => roomIn (atS 0 .unmapped 1 []) { q with pages := [(1, 1)] } != []) = some true ∧
    (SMap.find? (atS 0 .unmapped 0 []).queues 0).bind (spillPlace (atS 0 .unmapped 0 [])) = none ∧
    (let s := spillS
     ((imageOf s 0 0).bind (·.spill)) = some (0x100000, 4096) ∧ (match walkFrom s 0x100000 .write 4 (s.ctx 0).ptRoot with
       | .page _ _ _ _ _ => true | _ => false) = true ∧ s.inOrder = true) := by decide +kernel

def farRec : Rec := { placedRec with id := 9 }
/-- Queue 0 with a record in its far segment, and `n` further queues whose halves on stack 0 stand as `h` says. -/
def halfS (st : HalfSt) (far : List Rec) (n : Nat) (h : Half) : State :=
  let s := queueS (fun q => if q.node = 0 then
    { q with
      far := far
      half0 := { q.half0 with st := st } } else q) (fun l => { l with cl0 := 1 })
  { s with
    claims := []
    queues := s.queues ++ (List.range n).map (fun k => (k + 3, { emptyQueue 0 0 0 with half0 := h })) }
def halfQ (st : HalfSt) (far : List Rec) : Queue := { emptyQueue 0 0 0 with far := far, half0 := { Half.empty with st := st } }
def mappedHalf (rs : List Rec) : Half := { Half.empty with st := .mapped, recs := rs }

theorem witness_Halves :
    SMap.find? (halfS .unmapped [farRec] 0 Half.empty).queues 0 = some (halfQ .unmapped [farRec]) ∧
    wantsHalf (halfS .unmapped [farRec] 0 Half.empty) (halfQ .unmapped [farRec]) 0 = true ∧
    wantsHalf (halfS .unmapped [] 0 Half.empty) (halfQ .unmapped []) 0 = false ∧
    (halfS .unmapped [farRec] 0 Half.empty).claims.any (fun e => e.2 == 0 * 2 + 0 + 1) = false ∧
    slotsUsed (halfS .unmapped [farRec] 0 Half.empty) 0 < 512 ∧
    512 ≤ slotsUsed (halfS .unmapped [farRec] 512 (mappedHalf [])) 0 ∧
    slotSource (halfS .unmapped [farRec] 512 (mappedHalf [])) 0 0 = .evict 3 ∧
    slotSource (halfS .unmapped [farRec] 512 (mappedHalf [farRec])) 0 0 = .exhausted ∧
    slotSource (halfS .unmapped [farRec] 512 { Half.empty with st := .evicting }) 0 0 = .nothing ∧
    512 ≤ slotsUsed (halfS .unmapped [farRec] 512 { Half.empty with st := .evicting }) 0 ∧
    SMap.find? (halfS .mapping [] 0 Half.empty).queues 0 = some (halfQ .mapping []) ∧ (halfQ .mapping []).far = [] ∧
    ((halfQ .mapping [farRec]).half 0).recs.length < perBlock (halfS .mapping [farRec] 0 Half.empty) (halfQ .mapping [farRec]) ∧
    halfRoom (halfS .mapping [farRec] 0 Half.empty) (halfQ .mapping [farRec]) 0 = true ∧
    SMap.find? (halfS .mapped [farRec] 0 Half.empty).queues 0 = some (halfQ .mapped [farRec]) ∧
    halfRoom (halfS .mapped [farRec] 0 Half.empty) (halfQ .mapped [farRec]) 0 = true ∧ pathWaits (halfS .mapped [farRec] 0 Half.empty) 2 0 = false ∧
    pathWaits { halfS .mapped [farRec] 0 Half.empty with links := [(1, .training 0)] } 2 0 = true ∧
    pathWaits { halfS .evicting [farRec] 0 Half.empty with links := [(1, .training 0)] } 0 2 = true ∧
    (spillRecs (halfS .evicting [] 0 Half.empty) 0 []).2 = [] ∧ SMap.get 0 (halfS .evicting [] 0 Half.empty).claims (0 * 2 + 0) = 0 ∧
    (spillRecs (halfS .evicting [] 1 { mappedHalf [farRec] with st := .evicting }) 3 [farRec]).2 ≠ [] ∧
    (let s := stallS
     let q := (SMap.find? s.queues 0).getD (emptyQueue 0 0 0)
     let nd := (nodeOf s 0 0 0).getD (placedNode 0)
     groupKeys (hasCont s 0 0 0) ((q.half 0).recs.filter (·.load.isNone)) = [(0, 0)] ∧
     halfBatches s q nd 0 (0, 0) = [[placedRec]] ∧ nd.kind = 0 ∧ 1 < nd.width ∧ placedRec.lodged + nd.linger ≤ s.aclk) := by decide +kernel

/-- A record of node 0 waits in the half of stack `sk`, and nothing hinders its start; `kind` is the node's KIND. -/
def goS (kind sk : Nat) : State :=
  let s := queueS (fun q => if q.node = 0 then
    q.setHalf sk { q.half0 with st := .mapped, recs := [placedRec] }
    else q) (fun l => { l with fed := 1, cl0 := 1, queued := [(0, 1)], running := [], unret := [] })
  { s with
    teams := []
    waves := []
    ctxs := s.ctxs.map (fun c => (c.1, { c.2 with images := c.2.images.map (fun m => (m.1, { m.2 with
      edges := []
      cedges := []
      nodes := m.2.nodes.map (fun d => { d with kind := kind, cedges := 0, edges := 0 }) })) })) }
def goC : Cand := { qid := 0, ctx := 0, img := 0, node := 0, tag := 0, batches := [[placedRec]], own := none }

theorem witness_Starts :
    bestMove (movesOf (goS 0 0) 0) = some (.team goC 0) ∧ (nodeAt (goS 0 0) goC).isSome = true ∧
    carveWaits (goS 0 0) goC 0 = false ∧
    carveWaits { goS 0 0 with links := [(0, .training 0)], l1 := [(l1Key 0 (0xC00000000 / 128), { st := .m, data := 1, dirty := 1, part := [] })] } goC 0 = true ∧
    bestMove (movesOf (goS 3 0) 0) = some (.prog goC 0) ∧ (nodeAt (goS 3 0) goC).isSome = true ∧ goC.recs = [placedRec] ∧
    movesOf (goS 0 1) 0 = [] ∧ bestMove (movesOf (goS 0 1) 0) = none ∧
    (let s := goS 0 1
     let im := (imageOf s 0 0).getD (placedImage 0 [])
     let q := (SMap.find? s.queues 0).getD (emptyQueue 0 0 0)
     imageOf s 0 0 = some im ∧ SMap.find? s.queues 0 = some q ∧ (q.half 1).st = .mapped ∧ (im.nodes[0]?).isSome = true ∧ runnable s 0 = true ∧
     teamCands s 0 q (im.nodes.getD 0 (placedNode 0)) im 1 = [goC] ∧ placeFor s goC 0 = some 0 ∧ roomFor s 0 0 0 [placedRec] = true) ∧
    (let s := goS 0 1
     s.steals = [] ∧ nothingToStart s 0 = true ∧ stealable s 0 1 = some goC ∧ (placeFor s goC 0).isSome = true ∧ roomFor s 0 0 0 goC.recs = true ∧
     nothingToStart (goS 0 0) 0 = false) ∧
    (let t := Steal.mk 0 0 0 0 0 0 [placedRec] false
     let s := { goS 0 1 with steals := [t] }
     let q := (SMap.find? s.queues 0).getD (emptyQueue 0 0 0)
     s.steals.find? (fun t => t.sk == 0 && t.qid == 0) = some t ∧ SMap.find? s.queues 0 = some q ∧ (∀ x ∈ t.recs, x ∈ (q.half 1).recs) ∧
     (∃ x ∈ t.recs, ∀ y ∈ (q.half 0).recs, y.id ≠ x.id) ∧ (nodeOf s 0 0 0).isSome = true ∧ placeFor s t.cand 0 = some 0 ∧ runnable s 0 = true) ∧
    goC.batches.length * (if (placedNode 0).access.isSome then 2 else 1) ≤ (freeSlots (goS 0 0) 0).length := by decide +kernel

/-! Budgets. -/

def budS (charged slice lastInt : Nat) (out : Bool) : State :=
  { ctxS { Ctx.reset with st := .active, period := 4, slice := slice, charged := charged, lastInt := lastInt, budgetOut := out } with
    hclk := 2048 * 10 }

theorem witness_Budgets :
    ((budS 0 2 0 false).ctx 3).period ≠ 0 ∧ ((budS 0 2 0 false).ctx 3).lastInt < (budS 0 2 0 false).hclk / 2048 / 4 * 4 ∧
    (budS 2 2 9 false).hclk / 2048 = 10 ∧ 10 / 4 * 4 ≤ ((budS 2 2 9 false).ctx 3).lastInt ∧ (budS 2 2 9 false).ctxs.length = 1 ∧
    (budS 2 2 9 false).ctx 3 ≠ Ctx.reset ∧ SMap.sortedFrom 0 (budS 2 2 9 false).seqs = true ∧
    SMap.sortedFrom 0 (budS 2 2 9 false).teams = true ∧ ((budS 2 2 9 false).ctx 3).slice < 4 ∧ ((budS 2 2 9 false).ctx 3).slice ≠ 0 ∧
    ((budS 2 2 9 false).ctx 3).lastInt < 10 ∧ ((budS 2 2 9 false).ctx 3).budgetOut = false ∧
    ((budS 2 2 9 false).ctx 3).slice ≤ ((budS 2 2 9 false).ctx 3).charged ∧
    ((budS 0 2 9 false).ctx 3).charged + 1 < ((budS 0 2 9 false).ctx 3).slice ∧ ((budS 2 0 9 false).ctx 3).slice = 0 ∧
    10 ≤ ((budS 2 2 10 false).ctx 3).lastInt ∧ 4 ≤ ((budS 2 4 9 false).ctx 3).slice ∧ ((State.reset.ctx 3).period = 0) := by decide +kernel

/-! Pre-emption: context 0 has a team on core 0 (alone in service) and a program on its sequencer; context 1, of PRIO 5,
has a record waiting for a node of a KIND. -/

def preS (kind : Nat) (f : Team → Team) : State :=
  let s := goS kind 0
  let base := waveAt 0x3000E0B0560401E0
  { s with
    fuses := { s.fuses with fused := (List.range 95).map (· + 1) }
    carve := [(0, 4)]
    waves := base.waves
    teams := [(0, f placedTeam)]
    seqs := [(0, placedSeq 7)]
    queues := s.queues.map (fun q => (q.1, { q.2 with ctx := 1 }))
    ctxs := [(0, { s.ctx 0 with launches := [(0, { launch0 with cl0 := 1 })] }),
      (1, { s.ctx 0 with
        prio := 5
        images := (s.ctx 0).images.map (fun m => (m.1, { m.2 with nodes := m.2.nodes.map (fun d => { d with loc := 2 }) })) })] }
def preC : Cand := { goC with ctx := 1 }
def kernS : State :=
  let s := preS 4 id
  { s with
    kerns := (List.range 8).map (fun k => (k, placedKern))
    mdisp := [(0, [{ sentTo 0 1 with ctx := 1 }])] }

/-- What waits for a place of stack 0, in the order of R131. -/
def ordered (s : State) : List Cand := sortBy (fun (c : Cand) => orderKey s c.ctx c.node c.recs) (wants s 0)

theorem witness_Preemption :
    ordered (preS 0 id) = [preC] ∧ kindOf (preS 0 id) 1 0 0 = 0 ∧ teamVictims (preS 0 id) preC 0 = [0] ∧
    ordered (preS 3 id) = [preC] ∧ kindOf (preS 3 id) 1 0 0 = 3 ∧ progVictim (preS 3 id) preC 0 = some 0 ∧
    SMap.find? (preS 3 id).seqs 0 = some (placedSeq 7) ∧ SMap.sortedFrom 0 (preS 3 id).seqs = true ∧
    SMap.sortedFrom 0 (preS 3 id).teams = true ∧ kernVictim kernS 0 = some 0 ∧ SMap.find? kernS.kerns 0 = some placedKern ∧
    (placedSeq 7).grp = none ∧ (placedSeq 7).gets = [] ∧
    wants (goS 0 0) 0 = [] ∧ kernVictim (goS 0 0) 0 = none ∧ kernVictim (goS 0 0) 1 = none := by decide +kernel

def stopS (st : TeamSt) : State :=
  let s := preS 0 (fun t => { t with st := st })
  { s with waves := s.waves.map (fun w => (w.1, { w.2 with stopped := true, run := none })) }
/-- The team alone, in the state given, with nothing else waiting. -/
def aloneS (f : Team → Team) : State :=
  let s := preS 0 f
  { s with
    queues := s.queues.map (fun q => (q.1, { q.2 with half0 := Half.empty }))
    waves := s.waves.map (fun w => (w.1, { w.2 with stopped := true, run := none })) }

theorem witness_Stopping :
    SMap.find? (stopS .stopping).teams 0 = some { placedTeam with st := .stopping } ∧ allStopped (stopS .stopping) { placedTeam with st := .stopping } = true ∧
    (∀ t ∈ (stopS .running).teams, t.2.st ≠ .stopping) ∧
    fitsSave (stopS .stopped) { placedTeam with st := .stopped } = true ∧ needed (stopS .stopped) { placedTeam with st := .stopped } = true ∧
    releaseWaits (stopS .stopped) 0 = false ∧
    SMap.find? (stopS .stopped).teams 0 = some { placedTeam with st := .stopped } ∧
    placedTeam.migrate = false ∧ teamInRegion (stopS .running) placedTeam = false ∧ fitsSave (stopS .running) placedTeam = true ∧
    fitsSave (withNode (stopS .running) (fun n => { n with vregs := 2 ^ 24 })) placedTeam = false ∧
    teamInRegion (withWave (stopS .running) (fun w => { w with np := some 0 })) placedTeam = true ∧
    bestMove (movesOf (aloneS (fun t => { t with st := .stopped })) 0) = some (.teamBack 0 0) ∧
    (nodeOf (aloneS id) 0 0 0).isSome = true ∧
    (let wv := placedWave 0
     let t : Team := { placedTeam with st := .written, waves := [], saved := [(0, wv)] }
     let s := { aloneS (fun _ => t) with waves := [] }
     bestMove (movesOf s 0) = some (.teamBack 0 0) ∧ (t.saved.map (·.1)).Nodup ∧ t.saved.length ≤ (freeSlots s 0).length ∧ t.saved[0]? = some (0, wv)) ∧
    (let s := { aloneS id with seqs := [], savedSeqs := [placedSeq 7] }
     bestMove (movesOf s 0) = some (.progBack 0 0) ∧ s.savedSeqs[0]? = some (placedSeq 7) ∧ groupPlaces s (savedGroup s (placedSeq 7)) [] = some [0]) ∧
    bestMove (movesOf (aloneS id) 0) = none := by decide +kernel

/-! Core events: wave 0 of core 0 between clauses, its header in memory. -/

def selS (hdr : List Host.Cell) (f : Wave → Wave) : State :=
  let s := withWave brT (fun w => f { w with run := none })
  { s with mem := (hdr ++ s.mem.filter (fun c => !decide (0x1000 ≤ c.1 ∧ c.1 < 0x1008))).filter (fun c => c.2 != 0) }
def selW (s : State) (v : Nat) : Wave := (SMap.find? s.waves v).getD (placedWave 0)
def pend (k : OpKind) (regs : List RegWrite) : PendOp := { id := 7, tok := some 1, regs := regs, kind := k, earliest := 0, latest := 0 }
def opS (o : PendOp) : State := withWave tw (fun w => { w with ops := [o], tok := [(1, 1)] })
def write6 : RegWrite := { key := 6 * 64, val := 5, contested := false }
/-- Wave 0 the access wave of wave 1, with a push in flight. -/
def pushS : State :=
  let s := accS 0
  { s with waves := s.waves.map (fun w => (w.1, if w.1 = 1 then { w.2 with ops := [pend (.push [3]) [write6]] } else w.2)) }

theorem witness_CoreSelect :
    ((selS hdrBytes id).waves).length = 1 ∧ (∃ w ∈ coreWaves tw 0, ∃ c, w.2.run = some c ∧ c.port = 0) ∧
    coreWaves (selS hdrBytes id) 0 = (selS hdrBytes id).waves ∧ SMap.find? (selS hdrBytes id).waves 0 = some (selW (selS hdrBytes id) 0) ∧
    SMap.sortedFrom 0 (selS hdrBytes id).waves = true ∧ (headRun (selW (selS hdrBytes id) 0)).isSome = true ∧
    edgeHere (selS hdrBytes id) 0 = true ∧ edgeHere { selS hdrBytes id with ratio := [(0, 2)], aclk := 1 } 0 = false ∧
    (match offered (selS hdrBytes id) 0 (selW (selS hdrBytes id) 0) with | .clause _ => true | _ => false) = true ∧
    (match offered (selS [] id) 0 (selW (selS [] id) 0) with | .bad _ => true | _ => false) = true ∧
    (match offered { selS hdrBytes id with tlb1 := [], tlb2 := [], wfault := [{ ctx := 0, page := 1, acc := .fetch, cause := 1, who := askerOf tw }] } 0
      (selW (selS hdrBytes id) 0) with | .park _ => true | _ => false) = true ∧
    (let s := opS (pend .regs [write6])
     let wv := selW s 0
     SMap.find? s.waves 0 = some wv ∧ wv.ops.find? (fun o => o.id == 7) = some (pend .regs [write6]) ∧ wv.pcs ≠ [] ∧
     SMap.sortedFrom 0 wv.v = true ∧ SMap.sortedFrom 0 wv.w = true ∧ SMap.sortedFrom 0 wv.tok = true ∧ 0 ≤ s.aclk) ∧
    (let s := opS (pend .store [])
     entering s 0 = false ∧ entering { s with vqs := [(0, { VQueue.reset with hold := [(1, 0)] })] } 0 = true) ∧
    (selW (opS (pend (.copy true [] [] []) [])) 0).ops.find? (fun o => o.id == 7) = some (pend (.copy true [] [] []) []) ∧
    edgeHere pushS 0 = true ∧
    (let s := { selS hdrBytes id with tlb1 := [], tlb2 := [] }
     let u := { selW s 0 with res := .parked }
     (match pickWave s 0 u with | .walk _ => true | _ => false) = true ∧ (match offered s 0 (selW s 0) with | .walk _ => true | _ => false) = true) ∧
    (let o : PendOp := { pend .regs [write6] with earliest := 9 }
     (opS o).aclk < o.earliest ∧ (selW (opS o) 0).ops.find? (fun o => o.id == 7) = some o) ∧
    (let o := pend .regs [{ write6 with contested := true }]
     (selW (opS o) 0).ops.find? (fun o => o.id == 7) = some o ∧ o.regs.any (·.contested) = true) ∧
    (let aw := selW pushS 1
     SMap.find? pushS.waves 1 = some aw ∧ aw.ops.find? (·.isPush) = some (pend (.push [3]) [write6]) ∧
     aw.ops.find? (fun q => q.id == 7) = some (pend (.push [3]) [write6]) ∧ aw.pair = some 0 ∧
     SMap.find? pushS.waves 0 = some (selW pushS 0) ∧ pendingPops (selW pushS 0) = [] ∧ aw.pcs ≠ [] ∧
     SMap.sortedFrom 0 (selW pushS 0).v = true) := by decide +kernel

def boundS : State := withWave tw (fun w => { w with spcount := 4096 })
def npLate : State := { withWave tw (fun w => { w with np := some 0 }) with aclk := 70000 }
def resS (slot : Nat) (f : Wave → Wave) : State :=
  let s := withNode (selS hdrBytes id) (fun n => { n with vregs := 2048 })
  let w := selW s 0
  { s with waves := (if slot = 1 then [(0, { w with stopped := true })] else []) ++ [(1, f { w with res := .parked })] }
def lineS : State := { withWave tw (fun w => { w with pcs := w.pcs.map (fun p => (p.1, { p.2 with wait := some (.line 0x40 0) })) }) with
  aclk := 2000000, mons := [{ core := 0, line := 0x40, wave := 0, lane := 3, at_ := 0 }] }

/-- A GETSR of the program in flight. -/
def getS : State := { ss with seqs := [(0, { placedSeq 7 with tok := [(1, 1)], gets := [{ id := 7, tok := 1, q := 3, val := 9, contested := false }] })] }

theorem witness_SequencerCompletes :
    (SMap.find? getS.seqs 0).bind (fun q => q.gets.find? (fun g => g.id == 7)) =
      some { id := 7, tok := 1, q := 3, val := 9, contested := false } ∧ SMap.sortedFrom 0 (placedSeq 7).q = true := by decide +kernel

theorem witness_CoreBounds :
    (wctxOf boundS 0 (·.run)).any (fun x => !x.wv.stopped && decide (4096 ≤ x.wv.spcount) && decide (x.cl.i < x.cl.count) && x.cl.run != 0 &&
      ctxRuns boundS x.wv.ctx) = true ∧ (∀ w ∈ tw.waves, w.2.spcount < 4096) ∧
    (selW npLate 0).np = some 0 ∧ 0 + 65536 ≤ coreEdges npLate (coreOfWave 0) ∧ ctxRuns npLate 0 = true ∧
    (∀ w ∈ tw.waves, w.2.np = none) ∧
    (let s := resS 1 id
     nextRecall s 0 = some (1, selW s 1) ∧ 524288 < residentBytes s 0 + allocWave s (selW s 1) ∧
     SMap.find? s.waves 0 = some (selW s 0) ∧ (selW s 0).res = .resident ∧ (selW s 0).run = none ∧ isReady s 0 (selW s 0) = false ∧
     (∀ w ∈ coreWaves s 0, w.2.res = .resident → w.1 = 0) ∧ (nodeOf s 0 0 0).isSome = true) ∧
    nextRecall tw 0 = none ∧
    (let s := resS 0 id
     nextRecall s 0 = some (1, selW s 1) ∧ residentBytes s 0 + allocWave s (selW s 1) ≤ 524288) ∧
    (selW (resS 0 (fun w => { w with res := .parking 0 })) 1).res = .parking 0 ∧
    (let s := { resS 0 (fun w => { w with res := .recalling 0 }) with aclk := 5 }
     (selW s 1).res = .recalling 0 ∧ 0 < s.aclk) ∧
    SMap.find? (selW lineS 0).pcs 3 = some { h := 0x1000, i := 0, wait := some (.line 0x40 0), ret := [] } ∧
    SMap.find? (selW tw 0).pcs 3 = some { h := 0x1000, i := 0, wait := none, ret := [] } ∧
    (∀ m ∈ lineS.mons, m.at_ + 1048576 ≤ coreEdges lineS m.core) ∧ tw.mons = [] := by decide +kernel

/-- A walk of page 0 of context 0 through tables at 0x10000, 0x11000, 0x12000 and 0x13000, a leaf of 2 MiB. -/
def walkS (leaf : Nat) : State :=
  let s := waveAt 0x3000E0B0560401E0
  { s with
    mem := s.mem ++ pteCells 0x10000 0x11001 ++ pteCells 0x11000 0x12001 ++ pteCells 0x12000 0x13001 ++ pteCells 0x13000 leaf
    ctxs := s.ctxs.map (fun c => (c.1, { c.2 with ptRoot := 0x10000 }))
    walks := [{ ctx := 0, page := 0, acc := .read, stack := 0, core := some 0, who := askerOf tw }] }

theorem witness_Walks :
    (walkS 0x200033).walks[0]? = some { ctx := 0, page := 0, acc := .read, stack := 0, core := some 0, who := askerOf tw } ∧
    ((((walkS 0x200033).walks.map (fun u => (u.ctx, u.page))).eraseDups).take 128).contains (0, 0) = true ∧
    walkFrom { walkS 0x200033 with walks := [] } 0 .read 4 0x10000 = .page 0 0x200000 0x200000 true true ∧
    ((walkS 0x200033).ctx 0).ptRoot = 0x10000 ∧ (walkS 0x200033).l1 = [] ∧
    (match walkFrom { walkS 0 with walks := [] } 0 .read 4 0x10000 with | .fault _ => true | _ => false) = true := by decide +kernel

/-! The engine block of core 0: a LOAD of a one-texel texture at 0x2000, triangles and rays in the FIFOs of core 0. -/

def texAt (ta : DWord) : EItem := .tex 0 7 0x1000 2 0 ta 0 0 0 [(0, [0, 0, 0, 0])] 6 0
def texP : PendOp := pend .tex ((List.range 4).map (fun n => { key := vKey (6 + n) 0, val := 0, contested := false }))
def texS (it : EItem) : State :=
  { opS texP with
    aclk := 1
    tlb2 := [(0, [placedTlb])]
    mem := [(0x1008, 0xE0)] ++ [(0x2001, 0x21), (0x200F, 1), (0x2100, 0x80)]
    engines := [(0, { Engine.reset with lastT := 3 })]
    vqs := [(0, { VQueue.reset with tex := [it] })] }
def texDescs : List Req := [{ lane := 0, va := 0x2000, size := 32, acc := .read }]
def goRes (g : Gate) : Option (List Nat) := match g with | .go l => some l | _ => none
def parksG (g : Gate) : Bool := match g with | .park _ => true | _ => false
def waitsG (g : Gate) : Bool := match g with | .wait _ => true | _ => false
def hubParks (g : HubRes) : Bool := match g with | .park _ => true | _ => false
def tex1 : Texture := { base := 0x2100, width := 1, height := 1, layers := 1, levels := 1, fmt := 1 }
def smp0 : Sampler :=
  { mag := 0, min := 0, mip := 0, au := 0, av := 0, aniso := 0, border := false, bias := .fin 0, lo := .fin 0, hi := .fin 0 }
def pageFault (c p who : Nat) : WalkFault := { ctx := c, page := p, acc := .read, cause := 1, who := who }

theorem witness_Sampler :
    engineOn { texS (texAt 0x2000) with power := false } 0 = false ∧ engineOn (texS (texAt 0x2000)) 0 = true ∧
    (∀ j, j < 4 → texNext tw 0 j = none) ∧
    texNext (texS (texAt 0x2000)) 0 (((texS (texAt 0x2000)).engine 0 |>.lastT) + 1 + 0) = none ∧
    texNext (texS (texAt 0x2000)) 0 ((((texS (texAt 0x2000)).engine 0).lastT + 1 + 0) % 4) = some (texAt 0x2000) ∧
    texNext (texS (texAt 0x2008)) 0 0 = some (texAt 0x2008) ∧ (0x2008 : DWord).toNat % 32 ≠ 0 ∧ (0x2000 : DWord).toNat % 32 = 0 ∧
    parksG (engineGate { texS (texAt 0x2000) with tlb2 := [], wfault := [pageFault 0 2 (askOp 7)] } 0 0 texDescs (askOp 7)) = true ∧
    waitsG (engineGate { texS (texAt 0x2000) with tlb2 := [] } 0 0 texDescs (askOp 7)) = true ∧
    (let s := texS (texAt 0x2000)
     let wv := selW s 0
     edgeHere s 0 = true ∧ edgeHere { s with ratio := [(0, 2)] } 0 = false ∧ goRes (engineGate s 0 0 texDescs (askOp 7)) = some [0x2000] ∧ s.l1 = [] ∧ textureOf (homeBytes s 0x2000 32) = some tex1 ∧
     samplerOf (List.replicate 16 0) = some smp0 ∧
     texReqs tex1 [(0, 0, texPlan s 2 0 tex1 smp0 0 [0, 0, 0, 0])] =
       [{ lane := 0, va := 0x2100, size := 1, acc := .read }] ∧
     goRes (engineGate s 0 0 [{ lane := 0, va := 0x2100, size := 1, acc := .read }] (askOp 7)) = some [0x2100] ∧
     SMap.find? s.waves 0 = some wv ∧ wv.pcs ≠ [] ∧ wv.ops.find? (fun o => o.id == 7) = some texP ∧ texP.isPush = false ∧
     (texP.regs.map (·.key)).Nodup ∧ SMap.sortedFrom 0 wv.v = true) := by decide +kernel

/-- A node of KIND 1 or 2 with an edge on port 0 and one on port 1, and a record in core 0's FIFO. -/
def inS (kind mx : Nat) (r : Rec) : State :=
  let s := queueS id id
  { s with
    aclk := 1
    engines := [(0, Engine.reset)]
    vqs := [(0, if kind = 1 then { VQueue.reset with ras := [.item 0 0 0 r] } else { VQueue.reset with trv := [.item 0 0 0 r] })]
    ctxs := s.ctxs.map (fun c => (c.1, { c.2 with images := c.2.images.map (fun m => (m.1, { m.2 with
      edges := edges3.map (fun e => { e with max := mx, cont := false })
      nodes := m.2.nodes.mapIdx (fun n d => if n = 0 then { d with kind := kind } else d) })) })) }
def recOf (words : List Word) : Rec := { placedRec with words := words }
/-- Vertices (0, 0), (4, 0) and (0, 4) at depth 0, scissor (0, 0) to (1, 1) (R259). -/
def triRec (flags : Word) : Rec := recOf ([0, 0, 0, 0x40800000, 0, 0, 0, 0x40800000, 0, 0, 0, 0, 0x00010001, flags, 0, 0])
def rayRec (w26 : Word) : Rec := recOf ((List.replicate 64 0).set 26 w26)
def taken (s : State) (kind : Nat) : Nat × State × Cons := (takeInput s 0 kind 4).getD (9, s, placedCons)
def readyS (resv : SMap Nat) (ws : List Word) : State :=
  { inS 2 4 (rayRec 0) with vqs := [], engines := [(0, { Engine.reset with ready := [({ placedCons with resv := resv }, ws)] })] }
/-- A ray with one entry on its stack: an inner node at 0x2000 of level 0. -/
def stackWs : List Word := ((List.replicate 64 (0 : Word)).set 26 1).set 30 0x2001

theorem witness_Rasteriser :
    takeInput tw 0 1 (tw.engine 0).lastR = none ∧
    (let s := inS 1 4 (triRec 0)
     let t := taken s 1
     engineOn s 0 = true ∧ (takeInput s 0 1 (s.engine 0).lastR).isSome = true ∧ (s.engine 0).lastR = 4 ∧ (t.2.1.ctx 0).st = .active ∧
     t.2.2.ctx = 0 ∧ SMap.sortedFrom 0 t.2.2.resv = true ∧ (triOf (inputBytes t.2.2)).isSome = true ∧
     (portEdge t.2.1 0 0 0 0).isSome = true ∧ ((triOf (inputBytes t.2.2)).map (fun x => (x.emits (inputBytes t.2.2)).length)) = some 1 ∧
     SMap.get 0 t.2.2.resv 0 = 4) ∧
    (let t := taken (inS 1 0 (triRec 0)) 1
     (takeInput (inS 1 0 (triRec 0)) 0 1 4).isSome = true ∧ SMap.get 0 t.2.2.resv 0 = 0) ∧
    (let t := taken (inS 1 4 (triRec 8)) 1
     (takeInput (inS 1 4 (triRec 8)) 0 1 4).isSome = true ∧ triOf (inputBytes t.2.2) = none) := by decide +kernel

theorem witness_Traversal :
    (tw.engine 0).ready = [] ∧ takeInput tw 0 2 (tw.engine 0).lastV = none ∧
    (let s := inS 2 4 (rayRec 0)
     let t := taken s 2
     engineOn s 0 = true ∧ (s.engine 0).ready = [] ∧ (s.engine 0).parkV.length ≤ 32 ∧ (takeInput s 0 2 (s.engine 0).lastV).isSome = true ∧
     (s.engine 0).lastV = 4 ∧ t.2.2.recs = [rayRec 0] ∧ (t.2.1.ctx 0).st = .active ∧ (rayRec 0).words.length = 64 ∧
     bAt (rayRec 0).words 0x69 = 0 ∧ refType (qAt (rayRec 0).words 0x20) = 0 ∧ refBad (refWithLevel (qAt (rayRec 0).words 0x20) 0) = false ∧
     refBad (qAt (rayRec 0).words 0x20) = false ∧ (portEdge t.2.1 0 0 0 1).isSome = true ∧ SMap.get 0 t.2.2.resv 1 = 4) ∧
    (let s := inS 2 4 (rayRec 0x100)
     (takeInput s 0 2 4).isSome = true ∧ (taken s 2).2.2.recs = [rayRec 0x100] ∧ travBad (rayRec 0x100).words = true) ∧
    (let s := readyS [(0, 1), (1, 1)] (rayRec 0).words
     engineOn s 0 = true ∧ (s.engine 0).ready.length = 1 ∧ bAt (rayRec 0).words 0x68 = 0 ∧ bAt (rayRec 0).words 0x54 = 0 ∧
     SMap.sortedFrom 0 s.engines = true ∧ (portEdge s 0 0 0 1).isSome = true ∧ (portEdge s 0 0 0 0).isSome = true) ∧
    ((readyS [] (rayRec 0).words).engine 0).ready.length = 1 ∧ ((readyS [] (rayRec 0).words).ctx 0).st = .active ∧
    bAt stackWs 0x69 ≠ 2 ∧ bAt stackWs 0x68 = 1 ∧ refType (qAt stackWs 0x78) = 1 ∧ refLevel (qAt stackWs 0x78) = 0 ∧ refBad (qAt stackWs 0x78) = false ∧
    (let s := { readyS [] stackWs with tlb2 := [], wfault := [pageFault 0 2 placedCons.asker] }
     hubParks (hubGate (setEngine s 0 { s.engine 0 with ready := [] }) 0 0 0x2000 128 .read placedCons.asker) = true) := by decide +kernel

/-! A display head that shows 16 by 2 pixels at 0x2000, and a video session with a frame of 16 by 16 pixels. -/

def head0 (ctl : DWord) : Head :=
  { Head.reset with
    ctl := ctl, timing := 0x001000280002000A, sync := 0x0014001800040006, pixclk := 25000, pitch := 256, latched := 0x2000 }
def headS (ctl : DWord) : State := { tw with heads := [(0, head0 ctl)], tlb2 := [(0, [placedTlb])] }
def walks {α : Type} (r : LRes α) : Bool := match r with | .walk c _ => causeKind c == .parks | _ => false
/-- The read leaves the state as it is. -/
def quiet {α : Type} [DecidableEq α] (s : State) (r : LRes (State × α)) : Bool := match r with | .ok p => p.1 == s | _ => false

theorem witness_Display :
    writeErr (headS 0) (hw 0x1000000 1) = none ∧ wReg (hw 0x1000000 1) = some (.disp 0 .ctl) ∧
    (wMerged (hw 0x1000000 1) (regVal (headS 0) (.disp 0 .ctl))) % 2 = 1 ∧ writeErr (headS 1) (hw 0x1000000 0) = none ∧
    writeErr (headS 0) (hw 0x1000010 0x3000) = none ∧ wReg (hw 0x1000010 0x3000) = some (.disp 0 .surf) ∧
    writeErr (headS 1) (hw 0x1000018 0x100000000) = none ∧ wReg (hw 0x1000018 0x100000000) = some (.disp 0 .status) ∧
    writeErr (headS 0) (hw 0x1000008 0) = none ∧ wReg (hw 0x1000008 0) = some (.disp 0 .timing) ∧
    writeErr (headS 0) (hw 0x1000020 0) = none ∧ wReg (hw 0x1000020 0) = some (.disp 0 .pixclk) ∧
    writeErr (headS 0) (hw 0x1000028 0) = none ∧ wReg (hw 0x1000028 0) = some (.disp 0 .sync) ∧
    writeErr (headS 0) (hw 0x1000030 0) = none ∧ wReg (hw 0x1000030 0) = some (.disp 0 .pitch) ∧
    SMap.sortedFrom 0 (headS 0).heads = true ∧ ((headS 1).head 0).ctl.getLsbD 0 = true ∧ ((headS 0).head 0).ctl.getLsbD 0 = false ∧
    ((headS 0).head 0).stopping = false ∧ (head0 1).timing.toNat / 2 ^ 16 % 2 ^ 16 = 2 ∧ (head0 1).timing.toNat / 2 ^ 48 = 16 ∧
    (∀ y, y < 2 → quiet (headS 1) (loadRead (headS 1) 0 (0x2000 + y * 256) (16 * 4)) = true) ∧
    walks (loadRead { headS 1 with tlb2 := [] } 0 0x2000 (16 * 4)) = true ∧ quiet { headS 1 with tlb2 := [] } (loadRead { headS 1 with tlb2 := [] } 0 0x2000 0) = true := by decide +kernel

def vreg : DWord := 0x8000001008100000
def vrec (w3 : Word) : Rec := { placedRec with words := [0x2000, 0, 256, w3, 0x6000, 0, 0, 0] }
def vtr (w3 : Word) : Transit := { src := 1, stack := 0, ctx := 0, img := 0, node := 1, rcd := vrec w3, park := .no }
def vencS (v : Venc) (hdr : List Host.Cell) : State :=
  { queueS id id with vencs := [(0, v)], mem := [(0x1008, 0xE0)] ++ hdr }
def venc0 (w3 : Word) : Venc := { Venc.reset with reg := vreg, queue := [vtr w3] }
def startOf (s : State) : State × Cons :=
  takeCons (setVenc s 0 { s.venc 0 with queue := [] }) 0 0 1 0 [((s.venc 0).queue.getD 0 (vtr 0)).rcd]
/-- A header of a ring of 65,536 bytes. -/
def vhdr : List Host.Cell := [(0x6002, 1)]
def frame0 (next : Nat) : VFrame :=
  { cons := { placedCons with recs := [vrec 0], resv := [(0, 4)] }, begun := true, key := false, size := 65536, start := 0, frames := 0, next := next,
    rd := 0, left := [1, 2] }
def vhdRead (s : State) : List Byte := match loadRead s 0 0x6000 64 with | .ok p => p.2 | _ => []
def lresGet (s : State) (r : LRes State) : State := match r with | .ok t => t | _ => s

theorem witness_Video :
    writeErr (vencS Venc.reset []) (hw 0x1100000 vreg) = none ∧ wReg (hw 0x1100000 vreg) = some (.venc 0) ∧
    SMap.sortedFrom 0 (vencS Venc.reset []).vencs = true ∧ (wMerged (hw 0x1100000 vreg) (regVal (vencS Venc.reset []) (.venc 0))).testBit 63 = true ∧
    ((vencS Venc.reset []).venc 0).reg.getLsbD 63 = false ∧ writeErr (vencS (venc0 0) []) (hw 0x1100000 vreg) = none ∧
    ((vencS (venc0 0) []).venc 0).reg.getLsbD 63 = true ∧ ((vencS Venc.reset []).venc 0).cur = none ∧
    nextFrame (vencS Venc.reset []) ((vencS Venc.reset []).venc 0) = none ∧
    ((vencS { Venc.reset with cur := some (frame0 0) } []).venc 0).cur = some (frame0 0) ∧ (frame0 0).begun = true ∧
    (let s := vencS (venc0 40) []
     nextFrame s (s.venc 0) = some (0, vtr 40) ∧ (startOf s).2.recs = [vrec 40] ∧ frameErr (startOf s).1 0 (recBytes (vrec 40).words) = some 1 ∧
     ((startOf s).1.ctx 0).st = .active) ∧
    (let s := vencS (venc0 0) vhdr
     let b := (startOf s).1
     nextFrame s (s.venc 0) = some (0, vtr 0) ∧ (startOf s).2.recs = [vrec 0] ∧ (startOf s).2.ctx = 0 ∧ frameErr b 0 (recBytes (vrec 0).words) = none ∧
     natOfBytes (((recBytes (vrec 0).words).drop 0x10).take 8) = 0x6000 ∧ walks (loadRead { b with tlb2 := [] } 0 0x6000 64) = true ∧
     quiet b (loadRead b 0 0x6000 64) = true ∧ vheadBad (vhdRead b) = false ∧
     quiet b (surfRows 0 256 (128 * 1) 0x2000 (16 * 1) 0 b []) = true ∧ bits (b.venc 0).reg.toNat 36 9 = 1 ∧ bits (b.venc 0).reg.toNat 27 9 = 1) ∧
    (let b := (startOf (vencS (venc0 0) [])).1
     quiet b (loadRead b 0 0x6000 64) = true ∧ vheadBad (vhdRead b) = true) := by decide +kernel

theorem witness_VideoRing :
    (let s := vencS { Venc.reset with cur := some (frame0 65536) } vhdr
     (frame0 65536).size - ((frame0 65536).next + 2 ^ 64 - (frame0 65536).rd) % 2 ^ 64 = 0 ∧ okOf (streamWrite s 0 0x6000 65536 65536 []) = true) ∧
    (let s := vencS { Venc.reset with cur := some (frame0 0) } vhdr
     let b := lresGet s (streamWrite s 0 0x6000 65536 0 [1, 2])
     let b1 := lresGet b (loadWrite b 0 0x6018 (bytesOf 4 1))
     let b2 := lresGet b1 (loadWrite b1 0 0x6008 (bytesOf 8 2))
     (frame0 0).left.length ≤ (frame0 0).size - ((frame0 0).next + 2 ^ 64 - (frame0 0).rd) % 2 ^ 64 ∧
     okOf (streamWrite s 0 0x6000 65536 0 [1, 2]) = true ∧ okOf (loadWrite b 0 0x6018 (bytesOf 4 1)) = true ∧
     okOf (loadWrite b1 0 0x6008 (bytesOf 8 2)) = true ∧ SMap.sortedFrom 0 b2.vencs = true ∧ (portEdge b2 0 0 0 0).isSome = true) ∧
    (∀ m, m < 32 → (State.reset.venc m).cur = none) ∧
    (let s := vencS { Venc.reset with cur := some (frame0 65536), stalled := true } vhdr
     (s.venc 0).cur = some (frame0 65536) ∧ (s.venc 0).stalled = true ∧ runnable s 0 = true ∧ (∀ m, m < 32 → m ≠ 0 → (s.venc m).stalled = false) ∧
     SMap.sortedFrom 0 s.vencs = true ∧ frameRing (frame0 65536) = 0x6000 ∧ quiet s (loadRead s 0 0x6010 8) = true ∧
     (frame0 65536).size ≤ ((frame0 65536).next + 2 ^ 64 - 0) % 2 ^ 64) ∧
    (let s := vencS { Venc.reset with cur := some (frame0 65536), stalled := true } (vhdr ++ [(0x6010, 1)])
     quiet s (loadRead s 0 0x6010 8) = true ∧ ((frame0 65536).next + 2 ^ 64 - 1) % 2 ^ 64 < (frame0 65536).size) := by decide +kernel

/-! ### Words written out from the encodings (R280, R297-R299, R447, R448) -/

/-- A word with no operands: token 7, mask selector 15. -/
def nw : VWord := { stall := 0, token := 7, d := 0, a := 0, b := 0, c := 0, msel := 15, reuse := false, mod := 0 }
def is (x : Except Nat Instr) (i : Instr) : Bool := match x with | .ok j => i == j | .error _ => false
def bad (x : Except Nat Instr) (n : Nat) : Bool := match x with | .ok _ => false | .error k => k == n
def nm : MR := { d := 0, a := 0, b := 0, pred := 0, t := 0, f := 0 }

/-- Control, masks, records and exits. -/
theorem test_words_control :
    is (decodeNative 0x2000E000400001E1) (.qapp { nw with a := 8, mod := 1 }) = true ∧
    is (decodeNative 0x2030E00041000080) (.exitC { nw with a := 8, b := 0x40, msel := 4 }) = true ∧
    is (decodeNative 0x2028E000000001E0) (.exitW nw) = true ∧
    is (decodeNative 0xE820E00C080201E0) (.setsr { nw with a := 0x181, c := 0x100 }) = true := by decide +kernel

/-- Arithmetic, conversions and exchange. -/
theorem test_words_alu :
    is (decodeNative 0x3C00F4100E0001E0) (.icmp .eq { nw with d := 0x141, a := 1, b := 0x180 }) = true ∧
    is (decodeNative 0x3400E08B562001E0) (.shl { nw with d := 8, a := 0x16A, b := 0x188 }) = true ∧
    is (decodeNative 0x4400E06B902801E0) (.aadd64 { nw with d := 6, a := 0x172, b := 0xA }) = true ∧
    is (decodeNative 0x9000E0602800A1E0) (.cvt { nw with d := 6, a := 5, c := 0x50 }) = true ∧
    is (decodeNative 0x9410E050260701E3) (.shflDown { nw with d := 5, a := 4, b := 0x181, c := 0x180, mod := 3 }) = true ∧
    is (decodeNative 0x9440E020000001E3) (.redx .add { nw with d := 2, mod := 3 }) = true := by decide +kernel

/-- Memory, tiles, engines and sequencers. -/
theorem test_words_memory :
    is (decodeNative 0xA050E000202013E0) (.st .w { nw with a := 4, b := 8, c := 9 }) = true ∧
    is (decodeNative 0xA4F800A020180FEA) (.atom .cas .acqrel { nw with token := 0, d := 0xA, a := 4, b := 6, c := 7, mod := 0xA }) = true ∧
    is (decodeNative 0xAC00E000000001EA) (.fence { nw with mod := 0xA }) = true ∧
    is (decodeNative 0xAC10E008000001E0) (.fwait { nw with a := 0x100 }) = true ∧
    is (decodeNative 0xB818E000060001E0) (.travResume { nw with b := 0x180 }) = true ∧
    is (decodeNative 0xD400F84100A091E8) (.mma { nw with d := 0x184, a := 0x20, b := 0x28, c := 0x48, mod := 8 }) = true ∧
    is (decodeNative 0xD820224C200101E0) (.mdrainLg { nw with token := 1, d := 0x24, a := 0x184, c := 0x80 }) = true := by decide +kernel

/-- Tokens that must be named, and a header word. -/
theorem test_words_refused :
    bad (decodeNative 0x2010E00C000309E0) 4 = true ∧ bad (decodeNative 0xAC08F000000001E0) 4 = true ∧ bad (decodeNative 0x6810E432180001E0) 4 = true ∧
    bad (decodeNative 0xF010A00A00000000) 7 = true ∧
    (match decodeHeader 0xF010A00A00000000 with
     | .ok h => h == { cls := 0, count := 2, wait := 2, s := true, spid := 5, park := false }
     | .error _ => false) = true := by decide +kernel

theorem test_words_moraine :
    is (decodeMoraine 0x54C03000) (.kalu { nm with d := 6, b := 6 }) = true ∧ is (decodeMoraine 0x00402800) (.vldS { nm with d := 2, b := 5 }) = true ∧
    is (decodeMoraine 0x24211000) (.vfadd { nm with d := 1, a := 1, b := 2 }) = true ∧
    is (decodeMoraine 0x04262800) (.vstS { nm with d := 1, a := 6, b := 5 }) = true ∧ is (decodeMoraine 0x78000000) .moraineYield = true ∧
    is (decodeMoraine 0x58000100) (.kaddi { d := 0, a := 0, imm := 0x100 }) = true ∧
    is (decodeMoraine 0x6C7FFFFA) (.bnz { test := 3, off := 0x1FFFFA }) = true ∧ is (decodeMoraine 0x10400000) (.kld { d := 2, a := 0, imm := 0 }) = true ∧
    is (decodeMoraine 0x68400020) (.bz { test := 2, off := 0x20 }) = true ∧ is (decodeMoraine 0x403F0000) (.vsplat { nm with d := 1, a := 0x1F }) = true ∧
    is (decodeMoraine 0x74000000) (.mqapp nm) = true := by decide +kernel

/-! Every word of R297, each field that its form uses filled. -/

def words0 : List (DWord × Instr) := [
  (0x0000E000000081E0, .bra { stall := 0, token := 7, d := 0, off := 0x40, msel := 15 }),
  (0x0008E000000081E0, .call { stall := 0, token := 7, d := 0, off := 0x40, msel := 15 }),
  (0x0010E000200001E0, .brx { nw with a := 4 }),
  (0x0018E000000001E0, .ret nw),
  (0x0020E000000001E0, .nop nw),
  (0x0028E000000001E0, .yield nw),
  (0x0400E050200001E0, .mset { nw with d := 5, a := 4 }),
  (0x0408E050200C01E0, .mand { nw with d := 5, a := 4, b := 3 }),
  (0x0410E050200C01E0, .mor { nw with d := 5, a := 4, b := 3 }),
  (0x0418E050200C01E0, .mxor { nw with d := 5, a := 4, b := 3 }),
  (0x0420E050200001E0, .mnot { nw with d := 5, a := 4 }),
  (0x0428E050200001E0, .mcpy { nw with d := 5, a := 4 }),
  (0x0430E050200001E0, .mbal { nw with d := 5, a := 4 }),
  (0x0440E050000001E0, .join { nw with d := 5 }),
  (0x0448E050000001E0, .leave { nw with d := 5 }),
  (0x0450E050000001E0, .waitm { nw with d := 5 }),
  (0x0800E000200001E0, .bar { nw with a := 4 }),
  (0x0808E000200C01E0, .semsig { nw with a := 4, b := 3 }),
  (0x0810E000200C01E0, .semwait { nw with a := 4, b := 3 }),
  (0x0818E000200C01E0, .waitline { nw with a := 4, b := 3 }),
  (0x0820E000000001E0, .npenter nw),
  (0x0828E000000001E0, .npleave nw),
  (0x2000E000200001E0, .qapp { nw with a := 4 }),
  (0x2008E000200001E0, .qrsv { nw with a := 4 }),
  (0x20100050200011E0, .recld { nw with token := 0, d := 5, a := 4, c := 8 }),
  (0x2018E050000001E0, .qpop { nw with d := 5 }),
  (0x2020E000200001E0, .postr { nw with a := 4 }),
  (0x2028E000000001E0, .exitW nw),
  (0x2030E000200001E0, .exitC { nw with a := 4 }),
  (0x3000E050200C01E0, .iadd { nw with d := 5, a := 4, b := 3 }),
  (0x3008E050200C01E0, .isub { nw with d := 5, a := 4, b := 3 }),
  (0x3010E050200C01E0, .imul { nw with d := 5, a := 4, b := 3 }),
  (0x3018E050200C01E0, .imulh { nw with d := 5, a := 4, b := 3 }),
  (0x3020E050200C11E0, .imad { nw with d := 5, a := 4, b := 3, c := 8 })]
theorem test_every_word_0 : words0.all (fun p => is (decodeNative p.1) p.2) = true := by decide +kernel

def words1 : List (DWord × Instr) := [
  (0x3028E050200C01E0, .imin { nw with d := 5, a := 4, b := 3 }),
  (0x3030E050200C01E0, .imax { nw with d := 5, a := 4, b := 3 }),
  (0x3038E050200001E0, .iabs { nw with d := 5, a := 4 }),
  (0x3400E050200C01E0, .shl { nw with d := 5, a := 4, b := 3 }),
  (0x3408E050200C01E0, .shr { nw with d := 5, a := 4, b := 3 }),
  (0x3410E050200C01E0, .sar { nw with d := 5, a := 4, b := 3 }),
  (0x3418E050200C01E0, .rot { nw with d := 5, a := 4, b := 3 }),
  (0x3420E050200C01E0, .andB { nw with d := 5, a := 4, b := 3 }),
  (0x3428E050200C01E0, .orB { nw with d := 5, a := 4, b := 3 }),
  (0x3430E050200C01E0, .xorB { nw with d := 5, a := 4, b := 3 }),
  (0x3438E050200001E0, .notB { nw with d := 5, a := 4 }),
  (0x3800E050200C11E0, .bfe { nw with d := 5, a := 4, b := 3, c := 8 }),
  (0x3808E050200C11E0, .bfi { nw with d := 5, a := 4, b := 3, c := 8 }),
  (0x3810E050200001E0, .popc { nw with d := 5, a := 4 }),
  (0x3818E050200001E0, .clz { nw with d := 5, a := 4 }),
  (0x3820E050200001E0, .brev { nw with d := 5, a := 4 }),
  (0x3C00E050200C01E0, .icmp .eq { nw with d := 5, a := 4, b := 3 }),
  (0x3C08E050200C01E0, .icmp .ne { nw with d := 5, a := 4, b := 3 }),
  (0x3C10E050200C01E0, .icmp .lt { nw with d := 5, a := 4, b := 3 }),
  (0x3C18E050200C01E0, .icmp .le { nw with d := 5, a := 4, b := 3 }),
  (0x3C20E050200C01E0, .icmp .gt { nw with d := 5, a := 4, b := 3 }),
  (0x3C28E050200C01E0, .icmp .ge { nw with d := 5, a := 4, b := 3 }),
  (0x3C40E050200C11E0, .sel { nw with d := 5, a := 4, b := 3, c := 8 }),
  (0x4000E050200001E0, .mov { nw with d := 5, a := 4 }),
  (0x4008E05012345678, .movi { stall := 0, token := 7, d := 5, imm := 0x12345678 }),
  (0x4400E050200C01E0, .aadd64 { nw with d := 5, a := 4, b := 3 }),
  (0x4408E050200C11E0, .amad64 { nw with d := 5, a := 4, b := 3, c := 8 }),
  (0x6000E050200C01E0, .fadd { nw with d := 5, a := 4, b := 3 }),
  (0x6008E050200C01E0, .fsub { nw with d := 5, a := 4, b := 3 }),
  (0x6010E050200C01E0, .fmul { nw with d := 5, a := 4, b := 3 }),
  (0x6018E050200C11E0, .ffma { nw with d := 5, a := 4, b := 3, c := 8 }),
  (0x6020E050200C01E0, .fmin { nw with d := 5, a := 4, b := 3 }),
  (0x6028E050200C01E0, .fmax { nw with d := 5, a := 4, b := 3 }),
  (0x6400E050200C01E0, .fcmp .eq { nw with d := 5, a := 4, b := 3 })]
theorem test_every_word_1 : words1.all (fun p => is (decodeNative p.1) p.2) = true := by decide +kernel

def words2 : List (DWord × Instr) := [
  (0x6408E050200C01E0, .fcmp .ne { nw with d := 5, a := 4, b := 3 }),
  (0x6410E050200C01E0, .fcmp .lt { nw with d := 5, a := 4, b := 3 }),
  (0x6418E050200C01E0, .fcmp .le { nw with d := 5, a := 4, b := 3 }),
  (0x6420E050200C01E0, .fcmp .gt { nw with d := 5, a := 4, b := 3 }),
  (0x6428E050200C01E0, .fcmp .ge { nw with d := 5, a := 4, b := 3 }),
  (0x6430E050200C01E0, .fcmp .un { nw with d := 5, a := 4, b := 3 }),
  (0x6438E050200C01E0, .fcmp .ord { nw with d := 5, a := 4, b := 3 }),
  (0x68000050200001E0, .frcp { nw with token := 0, d := 5, a := 4 }),
  (0x68080050200001E0, .frsq { nw with token := 0, d := 5, a := 4 }),
  (0x68100050200001E0, .fsqrt { nw with token := 0, d := 5, a := 4 }),
  (0x68180050200001E0, .fexp2 { nw with token := 0, d := 5, a := 4 }),
  (0x68200050200001E0, .flog2 { nw with token := 0, d := 5, a := 4 }),
  (0x68280050200001E0, .fsin { nw with token := 0, d := 5, a := 4 }),
  (0x68300050200001E0, .fcos { nw with token := 0, d := 5, a := 4 }),
  (0x6838E050200001E0, .ffrc { nw with d := 5, a := 4 }),
  (0x6840E050200001E0, .frnd { nw with d := 5, a := 4 }),
  (0x6C000050200C01E0, .dadd { nw with token := 0, d := 5, a := 4, b := 3 }),
  (0x6C080050200C01E0, .dmul { nw with token := 0, d := 5, a := 4, b := 3 }),
  (0x6C100050200C11E0, .dfma { nw with token := 0, d := 5, a := 4, b := 3, c := 8 }),
  (0x9000E050200C01E0, .cvt { nw with d := 5, a := 4, b := 3 }),
  (0x9008E050200C01E0, .cvtlg { nw with d := 5, a := 4, b := 3 }),
  (0x9010E050200C01E0, .cvtln { nw with d := 5, a := 4, b := 3 }),
  (0x9400E050200C11E0, .shflIdx { nw with d := 5, a := 4, b := 3, c := 8 }),
  (0x9408E050200C11E0, .shflUp { nw with d := 5, a := 4, b := 3, c := 8 }),
  (0x9410E050200C11E0, .shflDown { nw with d := 5, a := 4, b := 3, c := 8 }),
  (0x9418E050200C11E0, .shflXor { nw with d := 5, a := 4, b := 3, c := 8 }),
  (0x9420E050200001E0, .bcast { nw with d := 5, a := 4 }),
  (0x9440E050200001E0, .redx .add { nw with d := 5, a := 4 }),
  (0x9448E050200001E0, .redx .min { nw with d := 5, a := 4 }),
  (0x9450E050200001E0, .redx .max { nw with d := 5, a := 4 }),
  (0x9458E050200001E0, .redx .and { nw with d := 5, a := 4 }),
  (0x9460E050200001E0, .redx .or { nw with d := 5, a := 4 }),
  (0x9468E050200001E0, .redx .xor { nw with d := 5, a := 4 }),
  (0x9470E050200001E0, .redx .fadd { nw with d := 5, a := 4 })]
theorem test_every_word_2 : words2.all (fun p => is (decodeNative p.1) p.2) = true := by decide +kernel

def words3 : List (DWord × Instr) := [
  (0x9478E050200001E0, .redx .fmin { nw with d := 5, a := 4 }),
  (0x9480E050200001E0, .redx .fmax { nw with d := 5, a := 4 }),
  (0x94C0E050200001E0, .scanx .add { nw with d := 5, a := 4 }),
  (0x94C8E050200001E0, .scanx .min { nw with d := 5, a := 4 }),
  (0x94D0E050200001E0, .scanx .max { nw with d := 5, a := 4 }),
  (0x94D8E050200001E0, .scanx .and { nw with d := 5, a := 4 }),
  (0x94E0E050200001E0, .scanx .or { nw with d := 5, a := 4 }),
  (0x94E8E050200001E0, .scanx .xor { nw with d := 5, a := 4 }),
  (0x94F0E050200001E0, .scanx .fadd { nw with d := 5, a := 4 }),
  (0x94F8E050200001E0, .scanx .fmin { nw with d := 5, a := 4 }),
  (0x9500E050200001E0, .scanx .fmax { nw with d := 5, a := 4 }),
  (0x9800E050200C01E0, .vldx { nw with d := 5, a := 4, b := 3 }),
  (0x9808E000200C11E0, .vstx { nw with a := 4, b := 3, c := 8 }),
  (0x9810E050200C01E0, .xset { nw with d := 5, a := 4, b := 3 }),
  (0xA0000050200011E0, .ld .b { nw with token := 0, d := 5, a := 4, c := 8 }),
  (0xA0080050200011E0, .ld .h { nw with token := 0, d := 5, a := 4, c := 8 }),
  (0xA0100050200011E0, .ld .w { nw with token := 0, d := 5, a := 4, c := 8 }),
  (0xA0180050200011E0, .ld .d { nw with token := 0, d := 5, a := 4, c := 8 }),
  (0xA0200050200011E0, .ld .q { nw with token := 0, d := 5, a := 4, c := 8 }),
  (0xA040E000200C11E0, .st .b { nw with a := 4, b := 3, c := 8 }),
  (0xA048E000200C11E0, .st .h { nw with a := 4, b := 3, c := 8 }),
  (0xA050E000200C11E0, .st .w { nw with a := 4, b := 3, c := 8 }),
  (0xA058E000200C11E0, .st .d { nw with a := 4, b := 3, c := 8 }),
  (0xA060E000200C11E0, .st .q { nw with a := 4, b := 3, c := 8 }),
  (0xA0800050200011E0, .ldl .b { nw with token := 0, d := 5, a := 4, c := 8 }),
  (0xA0880050200011E0, .ldl .h { nw with token := 0, d := 5, a := 4, c := 8 }),
  (0xA0900050200011E0, .ldl .w { nw with token := 0, d := 5, a := 4, c := 8 }),
  (0xA0980050200011E0, .ldl .d { nw with token := 0, d := 5, a := 4, c := 8 }),
  (0xA0A00050200011E0, .ldl .q { nw with token := 0, d := 5, a := 4, c := 8 }),
  (0xA0C0E000200C11E0, .stl .b { nw with a := 4, b := 3, c := 8 }),
  (0xA0C8E000200C11E0, .stl .h { nw with a := 4, b := 3, c := 8 }),
  (0xA0D0E000200C11E0, .stl .w { nw with a := 4, b := 3, c := 8 }),
  (0xA0D8E000200C11E0, .stl .d { nw with a := 4, b := 3, c := 8 }),
  (0xA0E0E000200C11E0, .stl .q { nw with a := 4, b := 3, c := 8 })]
theorem test_every_word_3 : words3.all (fun p => is (decodeNative p.1) p.2) = true := by decide +kernel

def words4 : List (DWord × Instr) := [
  (0xA1000050200011E0, .lda .b { nw with token := 0, d := 5, a := 4, c := 8 }),
  (0xA1080050200011E0, .lda .h { nw with token := 0, d := 5, a := 4, c := 8 }),
  (0xA1100050200011E0, .lda .w { nw with token := 0, d := 5, a := 4, c := 8 }),
  (0xA1180050200011E0, .lda .d { nw with token := 0, d := 5, a := 4, c := 8 }),
  (0xA140E000200C11E0, .strl .b { nw with a := 4, b := 3, c := 8 }),
  (0xA148E000200C11E0, .strl .h { nw with a := 4, b := 3, c := 8 }),
  (0xA150E000200C11E0, .strl .w { nw with a := 4, b := 3, c := 8 }),
  (0xA158E000200C11E0, .strl .d { nw with a := 4, b := 3, c := 8 }),
  (0xA4000050200C01E0, .atom .add .none { nw with token := 0, d := 5, a := 4, b := 3 }),
  (0xA4080050200C01E0, .atom .add .acq { nw with token := 0, d := 5, a := 4, b := 3 }),
  (0xA4100050200C01E0, .atom .add .rel { nw with token := 0, d := 5, a := 4, b := 3 }),
  (0xA4180050200C01E0, .atom .add .acqrel { nw with token := 0, d := 5, a := 4, b := 3 }),
  (0xA4200050200C01E0, .atom .min .none { nw with token := 0, d := 5, a := 4, b := 3 }),
  (0xA4280050200C01E0, .atom .min .acq { nw with token := 0, d := 5, a := 4, b := 3 }),
  (0xA4300050200C01E0, .atom .min .rel { nw with token := 0, d := 5, a := 4, b := 3 }),
  (0xA4380050200C01E0, .atom .min .acqrel { nw with token := 0, d := 5, a := 4, b := 3 }),
  (0xA4400050200C01E0, .atom .max .none { nw with token := 0, d := 5, a := 4, b := 3 }),
  (0xA4480050200C01E0, .atom .max .acq { nw with token := 0, d := 5, a := 4, b := 3 }),
  (0xA4500050200C01E0, .atom .max .rel { nw with token := 0, d := 5, a := 4, b := 3 }),
  (0xA4580050200C01E0, .atom .max .acqrel { nw with token := 0, d := 5, a := 4, b := 3 }),
  (0xA4600050200C01E0, .atom .and .none { nw with token := 0, d := 5, a := 4, b := 3 }),
  (0xA4680050200C01E0, .atom .and .acq { nw with token := 0, d := 5, a := 4, b := 3 }),
  (0xA4700050200C01E0, .atom .and .rel { nw with token := 0, d := 5, a := 4, b := 3 }),
  (0xA4780050200C01E0, .atom .and .acqrel { nw with token := 0, d := 5, a := 4, b := 3 }),
  (0xA4800050200C01E0, .atom .or .none { nw with token := 0, d := 5, a := 4, b := 3 }),
  (0xA4880050200C01E0, .atom .or .acq { nw with token := 0, d := 5, a := 4, b := 3 }),
  (0xA4900050200C01E0, .atom .or .rel { nw with token := 0, d := 5, a := 4, b := 3 }),
  (0xA4980050200C01E0, .atom .or .acqrel { nw with token := 0, d := 5, a := 4, b := 3 }),
  (0xA4A00050200C01E0, .atom .xor .none { nw with token := 0, d := 5, a := 4, b := 3 }),
  (0xA4A80050200C01E0, .atom .xor .acq { nw with token := 0, d := 5, a := 4, b := 3 }),
  (0xA4B00050200C01E0, .atom .xor .rel { nw with token := 0, d := 5, a := 4, b := 3 }),
  (0xA4B80050200C01E0, .atom .xor .acqrel { nw with token := 0, d := 5, a := 4, b := 3 }),
  (0xA4C00050200C01E0, .atom .xchg .none { nw with token := 0, d := 5, a := 4, b := 3 }),
  (0xA4C80050200C01E0, .atom .xchg .acq { nw with token := 0, d := 5, a := 4, b := 3 })]
theorem test_every_word_4 : words4.all (fun p => is (decodeNative p.1) p.2) = true := by decide +kernel

def words5 : List (DWord × Instr) := [
  (0xA4D00050200C01E0, .atom .xchg .rel { nw with token := 0, d := 5, a := 4, b := 3 }),
  (0xA4D80050200C01E0, .atom .xchg .acqrel { nw with token := 0, d := 5, a := 4, b := 3 }),
  (0xA4E00050200C11E0, .atom .cas .none { nw with token := 0, d := 5, a := 4, b := 3, c := 8 }),
  (0xA4E80050200C11E0, .atom .cas .acq { nw with token := 0, d := 5, a := 4, b := 3, c := 8 }),
  (0xA4F00050200C11E0, .atom .cas .rel { nw with token := 0, d := 5, a := 4, b := 3, c := 8 }),
  (0xA4F80050200C11E0, .atom .cas .acqrel { nw with token := 0, d := 5, a := 4, b := 3, c := 8 }),
  (0xA5200050200C01E0, .atom .minu .none { nw with token := 0, d := 5, a := 4, b := 3 }),
  (0xA5280050200C01E0, .atom .minu .acq { nw with token := 0, d := 5, a := 4, b := 3 }),
  (0xA5300050200C01E0, .atom .minu .rel { nw with token := 0, d := 5, a := 4, b := 3 }),
  (0xA5380050200C01E0, .atom .minu .acqrel { nw with token := 0, d := 5, a := 4, b := 3 }),
  (0xA5400050200C01E0, .atom .maxu .none { nw with token := 0, d := 5, a := 4, b := 3 }),
  (0xA5480050200C01E0, .atom .maxu .acq { nw with token := 0, d := 5, a := 4, b := 3 }),
  (0xA5500050200C01E0, .atom .maxu .rel { nw with token := 0, d := 5, a := 4, b := 3 }),
  (0xA5580050200C01E0, .atom .maxu .acqrel { nw with token := 0, d := 5, a := 4, b := 3 }),
  (0xA800E000200C01E0, .red .add { nw with a := 4, b := 3 }),
  (0xA808E000200C01E0, .red .min { nw with a := 4, b := 3 }),
  (0xA810E000200C01E0, .red .max { nw with a := 4, b := 3 }),
  (0xA818E000200C01E0, .red .and { nw with a := 4, b := 3 }),
  (0xA820E000200C01E0, .red .or { nw with a := 4, b := 3 }),
  (0xA828E000200C01E0, .red .xor { nw with a := 4, b := 3 }),
  (0xA830E000200C01E0, .red .fadd { nw with a := 4, b := 3 }),
  (0xA908E000200C01E0, .red .minu { nw with a := 4, b := 3 }),
  (0xA910E000200C01E0, .red .maxu { nw with a := 4, b := 3 }),
  (0xAA00E000200C01E0, .fredC2 { nw with a := 4, b := 3 }),
  (0xAC00E000000001E0, .fence nw),
  (0xAC080050000001E0, .fissue { nw with token := 0, d := 5 }),
  (0xAC10E000200001E0, .fwait { nw with a := 4 }),
  (0xAC18E000000001E0, .falias nw),
  (0xAC20E000000001E0, .fpath nw),
  (0xB000E000200C11E0, .acopyGl { nw with a := 4, b := 3, c := 8 }),
  (0xB008E000200C11E0, .acopyLg { nw with a := 4, b := 3, c := 8 }),
  (0xB010E000200C11E0, .cwait { nw with a := 4, b := 3, c := 8 }),
  (0xB018E000000001E0, .cfence nw),
  (0xB020E000200001E0, .tcopy { nw with a := 4 })]
theorem test_every_word_5 : words5.all (fun p => is (decodeNative p.1) p.2) = true := by decide +kernel

def words6 : List (DWord × Instr) := [
  (0xB4000050200C11E0, .rlockSrc { nw with token := 0, d := 5, a := 4, b := 3, c := 8 }),
  (0xB4080050200C11E0, .rlockDst { nw with token := 0, d := 5, a := 4, b := 3, c := 8 }),
  (0xB410E000200001E0, .runlock { nw with a := 4 }),
  (0xB418E000200011E0, .pref { nw with a := 4, c := 8 }),
  (0xB8000050200C11E0, .texSample { nw with token := 0, d := 5, a := 4, b := 3, c := 8 }),
  (0xB8080050200011E0, .texLoad { nw with token := 0, d := 5, a := 4, c := 8 }),
  (0xB8100050200C11E0, .texGather { nw with token := 0, d := 5, a := 4, b := 3, c := 8 }),
  (0xB818E000200C01E0, .travResume { nw with a := 4, b := 3 }),
  (0xD000E050200001E0, .tfeed { nw with d := 5, a := 4 }),
  (0xD0080050200001E0, .ttake { nw with token := 0, d := 5, a := 4 }),
  (0xD010E050200C01E0, .tld { nw with d := 5, a := 4, b := 3 }),
  (0xD018E050200C01E0, .tst { nw with d := 5, a := 4, b := 3 }),
  (0xD400E050200C01E0, .mma { nw with d := 5, a := 4, b := 3 }),
  (0xD800E000200001E0, .mzero { nw with a := 4 }),
  (0xD808E000200C01E0, .mscale { nw with a := 4, b := 3 }),
  (0xD810E000200001E0, .mcoopJoin { nw with a := 4 }),
  (0xD8180050200001E0, .mdrain { nw with token := 0, d := 5, a := 4 }),
  (0xD8200050200001E0, .mdrainLg { nw with token := 0, d := 5, a := 4 }),
  (0xD828E000200001E0, .msync { nw with a := 4 }),
  (0xD830E000200001E0, .mwait { nw with a := 4 }),
  (0xDC00E050200C01E0, .sadd { nw with d := 5, a := 4, b := 3 }),
  (0xDC08E050200C01E0, .ssub { nw with d := 5, a := 4, b := 3 }),
  (0xDC10E050200C01E0, .smul { nw with d := 5, a := 4, b := 3 }),
  (0xDC18E050200C01E0, .sand { nw with d := 5, a := 4, b := 3 }),
  (0xDC20E050200C01E0, .sor { nw with d := 5, a := 4, b := 3 }),
  (0xDC28E050200C01E0, .sxor { nw with d := 5, a := 4, b := 3 }),
  (0xDC30E050200C01E0, .sshl { nw with d := 5, a := 4, b := 3 }),
  (0xDC38E050200C01E0, .sshr { nw with d := 5, a := 4, b := 3 }),
  (0xDC40E050200001E0, .smov { nw with d := 5, a := 4 }),
  (0xDC48E05012345678, .smovi { stall := 0, token := 7, d := 5, imm := 0x12345678 }),
  (0xDC50E050200C01E0, .scmp .eq { nw with d := 5, a := 4, b := 3 }),
  (0xDC58E050200C01E0, .scmp .ne { nw with d := 5, a := 4, b := 3 }),
  (0xDC60E050200C01E0, .scmp .lt { nw with d := 5, a := 4, b := 3 }),
  (0xDC68E050200C01E0, .scmp .ge { nw with d := 5, a := 4, b := 3 })]
theorem test_every_word_6 : words6.all (fun p => is (decodeNative p.1) p.2) = true := by decide +kernel

def words7 : List (DWord × Instr) := [
  (0xDC80E050000081E0, .sbrZ { stall := 0, token := 7, d := 5, off := 0x40, msel := 15 }),
  (0xDC88E050000081E0, .sbrNz { stall := 0, token := 7, d := 5, off := 0x40, msel := 15 }),
  (0xDD00E000000001E0, .sexit nw),
  (0xE800E000200C01E0, .trap { nw with a := 4, b := 3 }),
  (0xE808E000000C01E0, .brk { nw with b := 3 }),
  (0xE810E000000C01E0, .snapt { nw with b := 3 }),
  (0xE8180050000C01E0, .getsr { nw with token := 0, d := 5, b := 3 }),
  (0xE820E000200C01E0, .setsr { nw with a := 4, b := 3 })]
theorem test_every_word_7 : words7.all (fun p => is (decodeNative p.1) p.2) = true := by decide +kernel

/-! Every moraine word of R448. -/

def moraineWords : List (Word × Instr) := [
  (0x00221C20, .vldS { nm with d := 1, a := 2, b := 3, pred := 4, t := 1 }),
  (0x04221C20, .vstS { nm with d := 1, a := 2, b := 3, pred := 4, t := 1 }),
  (0x08221C26, .vldG { nm with d := 1, a := 2, b := 3, pred := 4, t := 1, f := 6 }),
  (0x0C221C26, .vstG { nm with d := 1, a := 2, b := 3, pred := 4, t := 1, f := 6 }),
  (0x1022FFF8, .kld { d := 1, a := 2, imm := 0xFFF8 }),
  (0x14220008, .kst { d := 1, a := 2, imm := 8 }),
  (0x18221C00, .viadd { nm with d := 1, a := 2, b := 3, pred := 4 }),
  (0x1C221C00, .visub { nm with d := 1, a := 2, b := 3, pred := 4 }),
  (0x20221C00, .vimul { nm with d := 1, a := 2, b := 3, pred := 4 }),
  (0x24221C40, .vfadd { nm with d := 1, a := 2, b := 3, pred := 4, t := 2 }),
  (0x28221C40, .vfmul { nm with d := 1, a := 2, b := 3, pred := 4, t := 2 }),
  (0x2C221C40, .vfma { nm with d := 1, a := 2, b := 3, pred := 4, t := 2 }),
  (0x30221C45, .vcmp { nm with d := 1, a := 2, b := 3, pred := 4, t := 2, f := 5 }),
  (0x3422040A, .vred { nm with d := 1, a := 2, pred := 4, f := 10 }),
  (0x38220409, .vcvt { nm with d := 1, a := 2, pred := 4, f := 9 }),
  (0x3C220400, .vmov { nm with d := 1, a := 2, pred := 4 }),
  (0x40220400, .vsplat { nm with d := 1, a := 2, pred := 4 }),
  (0x44221C00, .vsel { nm with d := 1, a := 2, b := 3, pred := 4 }),
  (0x48221C05, .vlogic { nm with d := 1, a := 2, b := 3, pred := 4, f := 5 }),
  (0x4C221C00, .viota { nm with d := 1, a := 2, b := 3, pred := 4 }),
  (0x50221803, .plogic { nm with d := 1, a := 2, b := 3, f := 3 }),
  (0x54221810, .kalu { nm with d := 1, a := 2, b := 3, f := 16 }),
  (0x58220100, .kaddi { d := 1, a := 2, imm := 0x100 }),
  (0x5C341234, .kmovi { d := 1, sh := 2, z := true, imm := 0x1234 }),
  (0x60290000, .kget { nm with d := 1, a := 9 }),
  (0x641FFFFF, .br { test := 0, off := 0x1FFFFF }),
  (0x68600005, .bz { test := 3, off := 5 }),
  (0x6C600005, .bnz { test := 3, off := 5 }),
  (0x72600005, .bp { test := 0x13, off := 5 }),
  (0x7402000F, .mqapp { nm with a := 2, f := 15 }),
  (0x78000000, .moraineYield),
  (0x7C000000, .moraineExit)]
theorem test_every_moraine_word : moraineWords.all (fun p => is (decodeMoraine p.1) p.2) = true := by decide +kernel

/-! ### Ill-formed terms, one for each check -/

theorem refused_unused_fields :
    (Instr.ret { nw with d := 1 }).wf = false ∧ (Instr.nop { nw with a := 1 }).wf = false ∧ (Instr.mov { nw with b := 1 }).wf = false ∧
    (Instr.iadd { nw with c := 1 }).wf = false := by decide +kernel
theorem refused_modifiers : (Instr.imul { nw with mod := 1 }).wf = false ∧ (Instr.iadd { nw with mod := 1 }).wf = false := by decide +kernel
theorem refused_masks : (Instr.npenter { nw with msel := 0 }).wf = false ∧ (Instr.iadd { nw with msel := 12 }).wf = false ∧
    (Instr.iadd { nw with msel := 14 }).wf = false := by decide +kernel
theorem refused_reuse : (Instr.mset { nw with reuse := true }).wf = false := by decide +kernel
theorem refused_tokens :
    (Instr.iadd { nw with token := 0 }).wf = false ∧ (Instr.frcp nw).wf = false ∧ (Instr.frcp { nw with token := 6 }).wf = false ∧
    (Instr.fence { nw with token := 6 }).wf = false ∧ (Instr.ld .w nw).wf = false ∧ (Instr.ld .w { nw with d := 0x0FF }).wf = true ∧
    (Instr.movi { stall := 0, token := 0, d := 0, imm := 0 }).wf = false ∧
    (Instr.bra { stall := 0, token := 0, d := 0, off := 0, msel := 15 }).wf = false := by decide +kernel
theorem refused_branch_fields :
    (Instr.bra { stall := 0, token := 7, d := 1, off := 0, msel := 15 }).wf = false ∧
    (Instr.sbrZ { stall := 0, token := 7, d := 1, off := 0, msel := 0 }).wf = false := by decide +kernel
theorem refused_ports : (Instr.exitC { nw with b := 1 }).wf = false ∧ (Instr.exitC { nw with c := 1 }).wf = false := by decide +kernel
theorem refused_conversions : (Instr.cvt { nw with c := 1 }).wf = false ∧ (Instr.cvt { nw with mod := 1 }).wf = false := by decide +kernel
theorem refused_exchanges : (Instr.redx .add { nw with mod := 8 }).wf = false := by decide +kernel
theorem refused_atomics :
    (Instr.atom .add .none { nw with token := 0, c := 1 }).wf = false ∧ (Instr.atom .add .none { nw with token := 0, mod := 2 }).wf = false ∧
    (Instr.atom .add .acq { nw with token := 0, mod := 14 }).wf = false ∧ (Instr.fence { nw with mod := 14 }).wf = false ∧
    (Instr.cfence { nw with mod := 14 }).wf = false := by decide +kernel
theorem refused_ordered_accesses :
    (Instr.lda .q { nw with token := 0 }).wf = false ∧ (Instr.strl .q nw).wf = false ∧ (Instr.lda .w { nw with token := 0, mod := 14 }).wf = false := by
  decide +kernel
theorem refused_tiles :
    (Instr.tfeed { nw with c := 1 }).wf = false ∧ (Instr.tfeed { nw with mod := 3 }).wf = false ∧ (Instr.tfeed { nw with mod := 1, c := 32 }).wf = false ∧
    (Instr.tld { nw with c := 1 }).wf = false ∧ (Instr.tst { nw with c := 1 }).wf = false ∧ (Instr.mma { nw with c := 1 }).wf = false ∧
    (Instr.mdrain { nw with token := 0, c := 1 }).wf = false := by decide +kernel
theorem refused_system_fields :
    (Instr.trap { nw with c := 1 }).wf = false ∧ (Instr.brk { nw with c := 1 }).wf = false ∧ (Instr.snapt { nw with c := 1 }).wf = false ∧
    (Instr.getsr { nw with token := 0, c := 1 }).wf = false ∧ (Instr.setsr { nw with c := 1 }).wf = false := by decide +kernel
theorem refused_moraine :
    (Instr.vldS { nm with t := 3 }).wf = false ∧ (Instr.viadd { nm with f := 1 }).wf = false ∧ (Instr.vmov { nm with b := 1 }).wf = false ∧
    (Instr.kalu { nm with pred := 1 }).wf = false ∧ (Instr.vcmp { nm with d := 8 }).wf = false ∧ (Instr.plogic { nm with d := 8 }).wf = false ∧
    (Instr.plogic { nm with f := 5, b := 1 }).wf = false ∧ (Instr.plogic { nm with f := 5, a := 8 }).wf = false ∧ (Instr.kget { nm with a := 10 }).wf = false ∧
    (Instr.br { test := 1, off := 0 }).wf = false ∧ (Instr.bp { test := 24, off := 0 }).wf = false ∧ (Instr.mqapp { nm with d := 1 }).wf = false := by
  decide +kernel
theorem refused_units :
    (Instr.dieResetFoundation 2).wf = false ∧ (Instr.drainComplete 4).wf = false ∧ (Instr.stop 32).wf = false ∧ (Instr.teamStart 2).wf = false ∧
    (Instr.wavePark 9216).wf = false ∧ (Instr.quarterThrottle 192).wf = false := by decide +kernel

/-! The refit of R463: the union of node 5's and node 6's boxes is node 2's, and two lanes that add to one counter read 0 and
then 1 (R375). -/

theorem test_refit_union :
    [fMinMax fp32 (n4 fp32) false 0x41000000 0x41400000, fMinMax fp32 (n4 fp32) true 0x41300000 0x41700000,
     fMinMax fp32 (n4 fp32) true 0x40A00000 0x40C00000, fMinMax fp32 (n4 fp32) true 0x40400000 0x40800000] =
    [0x41000000, 0x41700000, 0x40C00000, 0x40800000] := by decide +kernel

theorem test_refit_lane_order :
    let a := rmw ms 0 0x2000 4 (fun old => AtomOp.calc .add 4 old 1 0)
    let b := rmw a.1 0 0x2000 4 (fun old => AtomOp.calc .add 4 old 1 0)
    (a.2, b.2) = (0, 1) := by decide +kernel

end Sys2Proof.Tests
end

/-! PROOFS. QRSV, POSTR, RECLD and QPOP (R167, R322-R325): a v register written lane by lane, and each word's cases. -/

namespace Sys2Proof

/-- A change that leaves what the key holds leaves the map. -/
theorem SMap.modify_of_fixed {α : Type} {m : SMap α} {k : Nat} {v : α} {f : α → α} (hk : SMap.find? m k = some v)
    (hf : f v = v) : SMap.modify k f m = m := by
  induction m with
  | nil => rfl
  | cons e m ih =>
    obtain ⟨j, u⟩ := e
    by_cases hj : j = k
    · have hu : u = v := by simpa [SMap.find?, hj] using hk
      simp [SMap.modify, hj, hu, hf]
    · have hm : SMap.find? m k = some v := by simpa [SMap.find?, hj] using hk
      simp [SMap.modify, hj, ih hm]

@[simp] theorem mem_lanesOf {e : Mask} {l : Nat} : l ∈ lanesOf e ↔ l < 64 ∧ e.getLsbD l = true := by
  simp [lanesOf]

theorem lanesOf_nodup (e : Mask) : (lanesOf e).Nodup := List.nodup_range.filter _

end Sys2Proof

namespace Sys2Proof.Machine

/-! ### Dispatch and checks -/

theorem exec_qrsv (w : VWord) (s : State) : exec (.qrsv w) s = execQrsv w s := rfl
theorem exec_postr (w : VWord) (s : State) : exec (.postr w) s = execPostr w s := rfl
theorem exec_recld (w : VWord) (s : State) : exec (.recld w) s = execRecld w s := rfl
theorem exec_qpop (w : VWord) (s : State) : exec (.qpop w) s = execQpop w s := rfl

/-- A word whose operands pass and whose own check fails takes its own fault. -/
theorem checked_own {s : State} {x : WCtx} {ops : List (OpKind2 × BitVec 9)} {lat : Nat} {own : Option FaultInfo} {f : FaultInfo}
    (t : State) (h : issueFault s x ops lat = none) (ho : own = some f) : checked s x ops lat own t = faultWave s x f := by
  simp [checked, h, ho]

/-! ### A v register written in several lanes (R287, R293) -/

/-- No two lanes of v registers have one key. -/
theorem vKey_inj {r r' l l' : Nat} (hl : l < 64) (hl' : l' < 64) : vKey r l = vKey r' l' ↔ r = r' ∧ l = l' := by
  unfold vKey; omega

theorem Wave.getV_writeV_ne (free ready : Nat) (wv : Wave) {r l r' l' : Nat} (x : Word) (h : vKey r' l' ≠ vKey r l) :
    (wv.writeV free ready r l x).getV r' l' = wv.getV r' l' :=
  SMap.get_set_ne _ _ _ h

/-- A lane on which no earlier write is pending holds the value at once. -/
theorem Wave.getV_writeV_quiet {wv : Wave} {r l : Nat} (free ready : Nat) (x : Word) (hs : SMap.sortedFrom 0 wv.v = true)
    (hq : wv.haz.any (fun h => h.key == vKey r l) = false) : (wv.writeV free ready r l x).getV r l = x := by
  have hkeep : keeps free wv (vKey r l) l ready = false := keeps_quiet free wv _ l ready hq
  have hv : (wv.writeV free ready r l x).v = SMap.set 0 (vKey r l) x wv.v := by
    simp [Wave.writeV, Wave.note, Wave.setV, hkeep]
  rw [Wave.getV, hv]
  exact SMap.get_set_sorted hs _ _

theorem Wave.sortedFrom_writeV {wv : Wave} (free ready r l : Nat) (x : Word) (hs : SMap.sortedFrom 0 wv.v = true) :
    SMap.sortedFrom 0 (wv.writeV free ready r l x).v = true :=
  SMap.sortedFrom_set hs _ _

/-- A write leaves nothing pending on other registers. -/
theorem Wave.haz_writeV_ne (free ready : Nat) (wv : Wave) {r l key : Nat} (x : Word) (h : key ≠ vKey r l) :
    (wv.writeV free ready r l x).haz.any (fun h => h.key == key) = wv.haz.any (fun h => h.key == key) := by
  have hkey (z : Haz) : (if z.key = vKey r l then { z with ready := min z.ready ready } else z).key = z.key := by
    split <;> rfl
  have hnew : (vKey r l == key) = false := beq_false_of_ne (Ne.symm h)
  simp [Wave.writeV, Wave.note, Wave.setV, Function.comp_def, hkey, hnew]

/-- One v register written in the lanes of a list, all readable at `ready`. -/
def Wave.writeLanes (free ready : Nat) (wv : Wave) (r : Nat) (ls : List Nat) (f : Nat → Word) : Wave :=
  ls.foldl (fun u l => u.writeV free ready r l (f l)) wv

theorem Wave.writeLanes_cons (free ready : Nat) (wv : Wave) (r j : Nat) (ls : List Nat) (f : Nat → Word) :
    wv.writeLanes free ready r (j :: ls) f = (wv.writeV free ready r j (f j)).writeLanes free ready r ls f := rfl

theorem Wave.writeLanes_frame (free ready : Nat) (wv : Wave) (r : Nat) (ls : List Nat) (f : Nat → Word) :
    wv.writeLanes free ready r ls f = { wv with
      v := (wv.writeLanes free ready r ls f).v
      haz := (wv.writeLanes free ready r ls f).haz
      ops := (wv.writeLanes free ready r ls f).ops } := by
  induction ls generalizing wv with
  | nil => rfl
  | cons j ls ih => rw [Wave.writeLanes_cons, ih, Wave.writeV_frame]

theorem Wave.getV_writeLanes_other (free ready : Nat) (wv : Wave) {r r' l : Nat} (ls : List Nat) (f : Nat → Word)
    (h : ∀ j ∈ ls, vKey r' l ≠ vKey r j) : (wv.writeLanes free ready r ls f).getV r' l = wv.getV r' l := by
  induction ls generalizing wv with
  | nil => rfl
  | cons j ls ih =>
    obtain ⟨hj, hls⟩ := List.forall_mem_cons.mp h
    rw [Wave.writeLanes_cons, ih _ hls, Wave.getV_writeV_ne free ready wv (f j) hj]

theorem Wave.getV_writeLanes_mem {wv : Wave} {r l : Nat} {ls : List Nat} (free ready : Nat) (f : Nat → Word) (hn : ls.Nodup)
    (hb : ∀ j ∈ ls, j < 64) (hl : l ∈ ls) (hs : SMap.sortedFrom 0 wv.v = true)
    (hq : wv.haz.any (fun h => h.key == vKey r l) = false) : (wv.writeLanes free ready r ls f).getV r l = f l := by
  induction ls generalizing wv with
  | nil => cases hl
  | cons j ls ih =>
    obtain ⟨hjls, hn⟩ := List.nodup_cons.mp hn
    have hl64 := hb l hl
    obtain ⟨hj64, hb⟩ := List.forall_mem_cons.mp hb
    rw [Wave.writeLanes_cons]
    by_cases hlj : l = j
    · have hrest : ∀ i ∈ ls, vKey r l ≠ vKey r i := fun i hi he =>
        hjls (hlj ▸ ((vKey_inj hl64 (hb i hi)).mp he).2 ▸ hi)
      subst hlj
      rw [Wave.getV_writeLanes_other _ _ _ ls f hrest, Wave.getV_writeV_quiet free ready (f l) hs hq]
    · have hne : vKey r l ≠ vKey r j := fun he => hlj ((vKey_inj hl64 hj64).mp he).2
      exact ih hn hb (List.mem_of_ne_of_mem hlj hl) (Wave.sortedFrom_writeV free ready r j (f j) hs)
        ((Wave.haz_writeV_ne free ready wv (f j) hne).trans hq)

/-! ### Reservations (R322) -/

section
variable {s : State} {k : Cons} {port : Nat} {e : Edge}

theorem useResv_of_edge (h : portEdge s k.ctx k.img k.node port = some e) (n : Nat) :
    useResv s k port n =
      (updQueue s (qidOf s k.ctx k.img e.dst) (fun q => { q with rv := q.rv - n }), { k with resv := drop port n k.resv }) := by
  simp [useResv, h]

theorem useResv_of_no_edge (h : portEdge s k.ctx k.img k.node port = none) (n : Nat) : useResv s k port n = (s, k) := by
  simp [useResv, h]

end

section
variable {s : State} {x : WCtx} {w : VWord} {tm : Team} (hw : waveOf s w.msel = some x)
  (ht : SMap.find? s.teams x.wv.team = some tm) (hf : issueFault s x [(.uni, w.a)] 0 = none)
include hw ht hf

/-- QRSV writes the consumer that `useResv` gives back into the wave's team. -/
theorem exec_qrsv_eq_useResv :
    let r := useResv s tm.cons w.mod.toNat (min (readUni s x.v x.wv w.a).toNat (SMap.get 0 tm.cons.resv w.mod.toNat))
    exec (.qrsv w) s = .next { r.1 with teams := SMap.modify x.wv.team (fun t => { t with cons := r.2 }) r.1.teams } := by
  have hteam : teamOf s x.wv = some tm := ht
  simp only [exec_qrsv, execQrsv, onWave_of hw, hteam, checked_ok _ hf rfl]

theorem exec_qrsv_of_edge {e : Edge} (he : portEdge s tm.cons.ctx tm.cons.img tm.cons.node w.mod.toNat = some e) :
    let n := min (readUni s x.v x.wv w.a).toNat (SMap.get 0 tm.cons.resv w.mod.toNat)
    exec (.qrsv w) s = .next { s with
      queues := SMap.modify (qidOf s tm.cons.ctx tm.cons.img e.dst) (fun q => { q with rv := q.rv - n }) s.queues
      teams := SMap.modify x.wv.team (fun t => { t with cons := { tm.cons with resv := drop w.mod.toNat n tm.cons.resv } })
        s.teams } := by
  rw [exec_qrsv_eq_useResv hw ht hf, useResv_of_edge he]
  rfl

theorem exec_qrsv_of_no_edge (he : portEdge s tm.cons.ctx tm.cons.img tm.cons.node w.mod.toNat = none) :
    exec (.qrsv w) s = .next s := by
  have hsame : SMap.modify x.wv.team (fun t => { t with cons := tm.cons }) s.teams = s.teams :=
    SMap.modify_of_fixed ht rfl
  rw [exec_qrsv_eq_useResv hw ht hf, useResv_of_no_edge he, hsame]

end

/-! ### Result words (R325) -/

section
variable {s : State} {x : WCtx} {w : VWord} (hw : waveOf s w.msel = some x) (hf : issueFault s x [(.src, w.a)] 0 = none)
include hw hf

theorem exec_postr_of_result (hr : x.nd.result = true) :
    exec (.postr w) s = .next (updLaunch s x.wv.ctx x.wv.tag (fun l => { l with
      results := SMap.set 0 x.wv.node
        ((lanesOf x.e).foldl (fun a k => a ||| readSrc s x.v x.wv .int w.a k) (SMap.get 0 l.results x.wv.node)) l.results })) := by
  rw [exec_postr, execPostr, onWave_of hw, checked_ok _ hf (by simp [hr])]
  rfl

theorem exec_postr_without_result (hr : x.nd.result = false) (he : x.e ≠ 0) :
    exec (.postr w) s = .next (faultWave s x (.of 0x44 0 x.e)) := by
  rw [exec_postr, execPostr, onWave_of hw, checked_own _ hf (if_pos ⟨he, by simp [hr]⟩)]
  rfl

end

/-! ### Reads of the lane's own record (R323) -/

/-- The lanes of a mask whose offset is misaligned, or whose k words from it on leave a record of `size` bytes. -/
def lanesOutside (e : Mask) (off : Nat → Nat) (k size : Nat) : List Nat :=
  (lanesOf e).filter (fun l => off l % 4 != 0 || decide (off l + 4 * k > size))

section
variable {s : State} {x : WCtx} {w : VWord} (hw : waveOf s w.msel = some x)
  (hf : issueFault s x [(.vDst (w.c.toNat - 0x180) 1, w.d), (.src, w.a), (.only ((List.range 16).map (· + 0x181)), w.c)] 1000 = none)
include hw hf

theorem exec_recld_of_within (he : x.e ≠ 0)
    (hb : lanesOutside x.e (fun l => (src s x w.a l).toNat) (w.c.toNat - 0x180) (recSize s x.wv.ctx x.wv.img x.wv.node) = [])
    (hk : tokenFull x.wv w.token = false) :
    exec (.recld w) s = .next (inFlight s x w.token 0 0 ((List.range (w.c.toNat - 0x180)).flatMap (fun j =>
      regWrites (w.d + BitVec.ofNat 9 j) x.e (fun l =>
        ((laneRec x.wv l).map (fun r => r.words.getD ((src s x w.a l).toNat / 4 + j) 0)).getD 0))) x.wv) := by
  unfold lanesOutside at hb
  rw [exec_recld, execRecld, onWave_of hw, checked_ok _ hf (by simp only [hb]), if_neg he, launchRegs_of hk]
  refine congrArg (fun f => Host.Outcome.next (inFlight s x w.token 0 0 ((List.range _).flatMap f) x.wv)) (funext fun j => ?_)
  refine congrArg (regWrites _ x.e) (funext fun l => ?_)
  beta_reduce
  cases laneRec x.wv l <;> rfl

theorem exec_recld_of_outside {l : Nat} {ls : List Nat}
    (hb : lanesOutside x.e (fun l => (src s x w.a l).toNat) (w.c.toNat - 0x180) (recSize s x.wv.ctx x.wv.img x.wv.node) = l :: ls) :
    exec (.recld w) s = .next (faultWave s x (.of 0x43 (src s x w.a l).toNat (maskOf (l :: ls)))) := by
  unfold lanesOutside at hb
  rw [exec_recld, execRecld, onWave_of hw]
  refine congrArg _ (checked_own _ hf ?_)
  simp only [hb]
  rfl

end

/-! ### The register-queue window (R167, R324) -/

/-- A pop writes the head entry of the window to the lanes of e, and moves the window on. -/
theorem popEntry_eq_writeLanes (free ready : Nat) (nd : NodeInfo) (wv : Wave) (d : Nat) (e : Mask) :
    let u := wv.writeLanes free ready d (lanesOf e) (wv.getV (nd.qbase + wv.qh))
    popEntry free ready nd wv d e =
      { u with qh := (u.qh + 1) % nd.qlen, qc := u.qc - 1, qready := SMap.erase u.qh u.qready } := rfl

theorem popEntry_qc (free ready : Nat) (nd : NodeInfo) (wv : Wave) (d : Nat) (e : Mask) :
    (popEntry free ready nd wv d e).qc = wv.qc - 1 := by
  rw [popEntry_eq_writeLanes, Wave.writeLanes_frame]

theorem popEntry_qh (free ready : Nat) (nd : NodeInfo) (wv : Wave) (d : Nat) (e : Mask) :
    (popEntry free ready nd wv d e).qh = (wv.qh + 1) % nd.qlen := by
  rw [popEntry_eq_writeLanes, Wave.writeLanes_frame]

theorem popEntry_frame (free ready : Nat) (nd : NodeInfo) (wv : Wave) (d : Nat) (e : Mask) :
    popEntry free ready nd wv d e = { wv with
      v := (popEntry free ready nd wv d e).v
      haz := (popEntry free ready nd wv d e).haz
      ops := (popEntry free ready nd wv d e).ops
      qc := (popEntry free ready nd wv d e).qc
      qh := (popEntry free ready nd wv d e).qh
      qready := SMap.erase wv.qh wv.qready } := by
  rw [popEntry_eq_writeLanes, Wave.writeLanes_frame]

theorem getV_popEntry (free ready : Nat) (nd : NodeInfo) (wv : Wave) (d : Nat) (e : Mask) (r l : Nat) :
    (popEntry free ready nd wv d e).getV r l =
      (wv.writeLanes free ready d (lanesOf e) (wv.getV (nd.qbase + wv.qh))).getV r l := rfl

/-- A lane of e on whose destination no write is pending holds the head entry's value. -/
theorem getV_popEntry_lane {wv : Wave} {d l : Nat} {e : Mask} (free ready : Nat) (nd : NodeInfo)
    (hs : SMap.sortedFrom 0 wv.v = true) (hl : l < 64) (he : e.getLsbD l = true)
    (hq : wv.haz.any (fun h => h.key == vKey d l) = false) :
    (popEntry free ready nd wv d e).getV d l = wv.getV (nd.qbase + wv.qh) l := by
  rw [getV_popEntry]
  exact Wave.getV_writeLanes_mem free ready _ (lanesOf_nodup e) (fun j hj => (mem_lanesOf.mp hj).1) (mem_lanesOf.mpr ⟨hl, he⟩) hs hq

theorem getV_popEntry_other {d r l : Nat} {e : Mask} (free ready : Nat) (nd : NodeInfo) (wv : Wave) (hl : l < 64)
    (h : r ≠ d ∨ e.getLsbD l = false) : (popEntry free ready nd wv d e).getV r l = wv.getV r l := by
  rw [getV_popEntry]
  refine Wave.getV_writeLanes_other _ _ _ _ _ fun j hj hkey => ?_
  obtain ⟨hj64, hje⟩ := mem_lanesOf.mp hj
  obtain ⟨rfl, rfl⟩ := (vKey_inj hl hj64).mp hkey
  simp [hje] at h

section
variable {s : State} {x : WCtx} {w : VWord} (hw : waveOf s w.msel = some x) (hf : issueFault s x [(.vDst 1 1, w.d)] 2 = none)
  (he : x.e ≠ 0)
include hw hf he

theorem exec_qpop_of_ready (hc : 0 < x.wv.qc) (hr : SMap.get 0 x.wv.qready x.wv.qh = 1) (hp : pendingPops x.wv = []) :
    exec (.qpop w) s = .next (s.setWave x.v (popEntry s.free (lastCycle x.wv x.e + 2) x.nd x.wv w.d.toNat x.e)) := by
  have hown : ¬ (x.e ≠ 0 ∧ x.wv.qc = 0 ∧ !accessAlive s x.wv) := fun h => hc.ne' h.2.1
  rw [exec_qpop, execQpop, onWave_of hw, checked_ok _ hf (if_neg hown), if_neg he, if_pos ⟨hc, hr, hp⟩]

theorem exec_qpop_of_empty (hc : x.wv.qc = 0) (ha : accessAlive s x.wv = false) :
    exec (.qpop w) s = .next (faultWave s x (.of 0x45 0 x.e)) := by
  rw [exec_qpop, execQpop, onWave_of hw, checked_own _ hf (if_pos ⟨he, hc, by simp [ha]⟩)]
  rfl

theorem exec_qpop_of_not_ready (hmay : 0 < x.wv.qc ∨ accessAlive s x.wv = true)
    (hnot : x.wv.qc = 0 ∨ SMap.get 0 x.wv.qready x.wv.qh ≠ 1 ∨ pendingPops x.wv ≠ []) :
    ∃ n, exec (.qpop w) s = .next (s.setWave x.v (x.wv.waitLanes x.cl x.e (fun _ => .pop (n * 256 + w.d.toNat)))) := by
  have hown : ¬ (x.e ≠ 0 ∧ x.wv.qc = 0 ∧ !accessAlive s x.wv) := by
    rintro ⟨-, hc, ha⟩
    rcases hmay with hpos | halive
    · omega
    · simp [halive] at ha
  have hwait : ¬ (x.wv.qc > 0 ∧ SMap.get 0 x.wv.qready x.wv.qh = 1 ∧ pendingPops x.wv = []) := by
    rintro ⟨hc, hr, hp⟩
    rcases hnot with h0 | hr' | hp'
    · omega
    · exact hr' hr
    · exact hp' hp
  rw [exec_qpop, execQpop, onWave_of hw, checked_ok _ hf (if_neg hown), if_neg he, if_neg hwait]
  exact ⟨_, rfl⟩

end

/-- Settles O27: each word's checks pass or give its fault, and then it has its effect alone; QPOP's fold over the lanes
writes each register of a lane once, so a lane with no write pending holds the head entry. -/
theorem reservationsResultsRecordReadsAndPops : Obligations.ReservationsResultsRecordReadsAndPops := by
  unfold Obligations.ReservationsResultsRecordReadsAndPops
  refine ⟨⟨?qrsv, ?postr⟩, ?recld, ?qpop⟩
  case qrsv =>
    intro s x w tm hw ht hf
    exact ⟨fun e he => exec_qrsv_of_edge hw ht hf he, exec_qrsv_of_no_edge hw ht hf⟩
  case postr =>
    intro s x w hw hf
    exact ⟨exec_postr_of_result hw hf, exec_postr_without_result hw hf⟩
  case recld =>
    intro s x w hw k hf he
    refine ⟨exec_recld_of_within hw hf he, ?_⟩
    intro l ls hb
    have hfault := exec_recld_of_outside hw hf hb
    rwa [← hb] at hfault
  case qpop =>
    intro s x w hw hf he
    refine ⟨fun hc hr hp => ?_, exec_qpop_of_empty hw hf he, exec_qpop_of_not_ready hw hf he⟩
    refine ⟨_, exec_qpop_of_ready hw hf he hc hr hp, popEntry_qc .., popEntry_qh .., popEntry_frame .., fun hs r l hl => ⟨?_, ?_⟩⟩
    · rintro rfl hlane hq
      exact getV_popEntry_lane _ _ _ hs hl hlane hq
    · exact getV_popEntry_other _ _ _ _ hl

end Sys2Proof.Machine

/-! PROOFS. The words that write one value, or one pair, in each lane: the integer words (R341, R343, R344), compare, select,
moves and 64-bit addresses (R346, R347), shuffles (R359, R360), reductions and scans (R361). -/

namespace Sys2Proof.Machine

/-! ### Words whose checks pass (R288, R337) -/

/-- A value word whose operands pass writes its results to the lanes of E, and changes nothing else. -/
theorem valueWord_of {s : State} {x : WCtx} {w : VWord} {ops : List (OpKind2 × BitVec 9)} {lat : Nat} {f : WCtx → Nat → Word}
    {g : Nat → Word} (hw : waveOf s w.msel = some x) (hf : issueFault s x ops lat = none) (hg : ∀ l, f x l = g l) :
    valueWord s w ops lat f = .next (s.setWave x.v (x.wv.put s.free lat w.d x.e g)) := by
  rw [valueWord, onWave_of hw, checked_ok _ hf rfl, funext hg]

/-- The same of a word that writes a pair in each lane. -/
theorem pairWord_of {s : State} {x : WCtx} {w : VWord} {ops : List (OpKind2 × BitVec 9)} {lat : Nat} {f : WCtx → Nat → DWord}
    {g : Nat → DWord} (hw : waveOf s w.msel = some x) (hf : issueFault s x ops lat = none) (hg : ∀ l, f x l = g l) :
    pairWord s w ops lat f = .next (s.setWave x.v (x.wv.putPair s.free lat w.d x.e g)) := by
  rw [pairWord, onWave_of hw, checked_ok _ hf rfl, funext hg]

theorem valueWord_congr {s : State} {w : VWord} {ops : List (OpKind2 × BitVec 9)} {lat : Nat} {f g : WCtx → Nat → Word}
    (h : ∀ x l, f x l = g x l) : valueWord s w ops lat f = valueWord s w ops lat g := by
  rw [show f = g from funext fun x => funext (h x)]

/-! ### Readings of a word as an integer (R338) -/

theorem ofInt_asInt (u : Bool) (a : Word) : BitVec.ofInt 32 (asInt u a) = a := by
  cases u <;> simp [asInt]

/-- Either extension of a word to 64 bits holds the integer of its reading. -/
theorem extend_eq_ofInt_asInt (u : Bool) (a : Word) :
    (if u then a.setWidth 64 else a.signExtend 64) = BitVec.ofInt 64 (asInt u a) := by
  cases u
  · rfl
  · simp [asInt]

theorem lt_eq_decide_asInt (u : Bool) (a b : Word) : (if u then a.ult b else a.slt b) = decide (asInt u a < asInt u b) := by
  cases u
  · exact BitVec.slt_eq_decide
  · simp [asInt, BitVec.ult_eq_decide]

theorem le_eq_decide_asInt (u : Bool) (a b : Word) : (if u then a.ule b else a.sle b) = decide (asInt u a ≤ asInt u b) := by
  cases u
  · exact BitVec.sle_eq_decide
  · simp [asInt, BitVec.ule_eq_decide]

theorem sat32_eq_ofInt_clamp32 (y : Int) : sat32 y = BitVec.ofInt 32 (clamp32 y) := by
  unfold sat32
  split
  · rw [show clamp32 y = 2 ^ 31 - 1 by unfold clamp32; omega]; rfl
  · split
    · rw [show clamp32 y = -2 ^ 31 by unfold clamp32; omega]; rfl
    · rw [show clamp32 y = y by unfold clamp32; omega]

/-- A word under .SAT gives the clamp of the exact result, and without it the exact result modulo 2^32. -/
theorem ite_sat32_eq_intResult (sat : Bool) {y : Int} {wrapped : Word} (h : BitVec.ofInt 32 y = wrapped) :
    (if sat then sat32 y else wrapped) = intResult sat y := by
  cases sat
  · exact h.symm
  · exact sat32_eq_ofInt_clamp32 y

/-! ### Major 0x0C (R341) -/

theorem iadd_eq_intResult (sat : Bool) (a b : Word) : iadd sat a b = intResult sat (a.toInt + b.toInt) :=
  ite_sat32_eq_intResult sat (by simp [BitVec.ofInt_add])

theorem isub_eq_intResult (sat : Bool) (a b : Word) : isub sat a b = intResult sat (a.toInt - b.toInt) :=
  ite_sat32_eq_intResult sat (by simp [Int.sub_eq_add_neg, BitVec.ofInt_add, BitVec.ofInt_neg, BitVec.sub_eq_add_neg])

theorem imad_eq_intResult (sat : Bool) (a b c : Word) : imad sat a b c = intResult sat (a.toInt * b.toInt + c.toInt) :=
  ite_sat32_eq_intResult sat (by simp [BitVec.ofInt_add, BitVec.ofInt_mul])

theorem mul_eq_intResult (a b : Word) : a * b = intResult false (a.toInt * b.toInt) := by
  simp [intResult, BitVec.ofInt_mul]

/-- The high word of a 64-bit integer is the integer's quotient by 2^32. -/
theorem high_word_ofInt (y : Int) : (BitVec.ofInt 64 y).extractLsb' 32 32 = BitVec.ofInt 32 (y / 2 ^ 32) := by
  apply BitVec.eq_of_toNat_eq
  rw [BitVec.extractLsb'_toNat, BitVec.toNat_ofInt, BitVec.toNat_ofInt, Nat.shiftRight_eq_div_pow]
  omega

theorem imulh_eq_quotient (u : Bool) (a b : Word) : imulh u a b = BitVec.ofInt 32 (asInt u a * asInt u b / 2 ^ 32) := by
  rw [← high_word_ofInt, BitVec.ofInt_mul, ← extend_eq_ofInt_asInt, ← extend_eq_ofInt_asInt]
  cases u <;> rfl

theorem imin_eq_ite (u : Bool) (a b : Word) : imin u a b = if asInt u b < asInt u a then b else a := by
  simp [imin, lt_eq_decide_asInt]

theorem imax_eq_ite (u : Bool) (a b : Word) : imax u a b = if asInt u a < asInt u b then b else a := by
  simp [imax, lt_eq_decide_asInt]

theorem imin_eq_intResult (u : Bool) (a b : Word) : imin u a b = intResult false (min (asInt u a) (asInt u b)) := by
  rw [imin_eq_ite, intResult, if_neg Bool.false_ne_true]
  split
  · rw [min_eq_right (by omega), ofInt_asInt]
  · rw [min_eq_left (by omega), ofInt_asInt]

theorem imax_eq_intResult (u : Bool) (a b : Word) : imax u a b = intResult false (max (asInt u a) (asInt u b)) := by
  rw [imax_eq_ite, intResult, if_neg Bool.false_ne_true]
  split
  · rw [max_eq_right (by omega), ofInt_asInt]
  · rw [max_eq_left (by omega), ofInt_asInt]

theorem iabs_eq_intResult (a : Word) : iabs a = intResult false |a.toInt| := by
  have hlt : a.slt 0 = decide (a.toInt < 0) := BitVec.slt_eq_decide
  rw [iabs, hlt, intResult, if_neg Bool.false_ne_true]
  by_cases h : a.toInt < 0
  · simp [h, abs_of_neg h, BitVec.ofInt_neg]
  · simp [h, abs_of_nonneg (not_lt.mp h)]

/-! ### Shifts (R343) -/

theorem shl_eq_product (a b : Word) : shl a b = if b.toNat < 32 then BitVec.ofNat 32 (a.toNat * 2 ^ b.toNat) else 0 := by
  unfold shl
  split
  · exact BitVec.eq_of_toNat_eq (by simp [Nat.shiftLeft_eq])
  · rfl

theorem ushiftRight_eq_quotient (a : Word) (n : Nat) : a >>> n = BitVec.ofNat 32 (a.toNat / 2 ^ n) := by
  apply BitVec.eq_of_toNat_eq
  rw [BitVec.toNat_ushiftRight, Nat.shiftRight_eq_div_pow, BitVec.toNat_ofNat,
    Nat.mod_eq_of_lt (lt_of_le_of_lt (Nat.div_le_self _ _) a.isLt)]

theorem shr_eq_quotient (a b : Word) : shr a b = if b.toNat < 32 then BitVec.ofNat 32 (a.toNat / 2 ^ b.toNat) else 0 := by
  rw [shr, ushiftRight_eq_quotient]

/-- A 32-bit integer shifted by 31 places is its sign already. -/
theorem toInt_div_two_pow_min (a : Word) (n : Nat) : a.toInt / 2 ^ min n 31 = a.toInt / 2 ^ min n 32 := by
  have hlo : -2 ^ 31 ≤ a.toInt := BitVec.le_toInt a
  have hhi : a.toInt < 2 ^ 31 := BitVec.toInt_lt
  by_cases h : n < 32
  · rw [min_eq_left (by omega : n ≤ 31), min_eq_left (by omega : n ≤ 32)]
  · rw [min_eq_right (by omega : 31 ≤ n), min_eq_right (by omega : 32 ≤ n)]
    omega

theorem sar_eq_quotient (a b : Word) : sar a b = BitVec.ofInt 32 (a.toInt / 2 ^ min b.toNat 32) := by
  rw [← toInt_div_two_pow_min, sar, ← BitVec.ofInt_toInt (x := a.sshiftRight _), BitVec.toInt_sshiftRight,
    Int.shiftRight_eq_div_pow]
  norm_cast

theorem rotateLeft_eq_or (a b : Word) : a.rotateLeft (b.toNat % 32) =
    BitVec.ofNat 32 (a.toNat * 2 ^ (b.toNat % 32)) ||| BitVec.ofNat 32 (a.toNat / 2 ^ (32 - b.toNat % 32)) := by
  rw [BitVec.rotateLeft_def, Nat.mod_mod, ushiftRight_eq_quotient]
  congr 1
  exact BitVec.eq_of_toNat_eq (by simp [Nat.shiftLeft_eq])

/-! ### Bit counts and bit fields (R343, R344) -/

theorem length_filter_eq_sum_toNat (p : Nat → Bool) (ks : List Nat) :
    (ks.filter p).length = (ks.map (fun k => (p k).toNat)).sum := by
  induction ks with
  | nil => rfl
  | cons k ks ih => cases h : p k <;> simp [h, ih, Nat.add_comm]

theorem popc_eq_sum (a : Word) : popc a = BitVec.ofNat 32 ((List.range 32).map (fun k => (a.getLsbD k).toNat)).sum := by
  rw [popc, length_filter_eq_sum_toNat]

/-- The leading zeros of a word are the first n for which its highest 1 bit is bit 31 − n. -/
theorem find_leading_zeros (a : Nat) (ha : a < 2 ^ 32) :
    (List.range 33).find? (fun n => decide (a < 2 ^ (32 - n) ∧ (n = 32 ∨ 2 ^ (31 - n) ≤ a))) =
      some (if a = 0 then 32 else 31 - Nat.log2 a) := by
  rw [List.find?_range_eq_some]
  split
  case isTrue h =>
    subst h
    simpa using fun j hj => Nat.ne_of_lt hj
  case isFalse h =>
    have hlog : Nat.log2 a < 32 := (Nat.log2_lt h).mpr ha
    refine ⟨?_, by rw [List.mem_range]; omega, fun j hj => ?_⟩
    · have hle : 2 ^ Nat.log2 a ≤ a := Nat.log2_self_le h
      have hlt : a < 2 ^ (Nat.log2 a + 1) := Nat.lt_log2_self
      rw [decide_eq_true_eq, show 32 - (31 - Nat.log2 a) = Nat.log2 a + 1 by omega,
        show 31 - (31 - Nat.log2 a) = Nat.log2 a by omega]
      exact ⟨hlt, .inr hle⟩
    · have hpow : a < 2 ^ (31 - j) := (Nat.log2_lt h).mp (by omega)
      simp only [Bool.not_eq_true', decide_eq_false_iff_not]
      omega

theorem clz_eq_find (a : Word) : clz a = BitVec.ofNat 32 (((List.range 33).find? (fun n =>
    decide (a.toNat < 2 ^ (32 - n) ∧ (n = 32 ∨ 2 ^ (31 - n) ≤ a.toNat)))).getD 0) := by
  have hzero : (a.toNat = 0) = (a = 0) := propext (BitVec.toNat_eq (y := (0 : Word))).symm
  rw [find_leading_zeros a.toNat a.isLt, clz, Option.getD_some]
  simp only [hzero]

theorem sum_bits_lt (f : Nat → Bool) (n : Nat) : ((List.range n).map (fun k => if f k then 2 ^ k else 0)).sum < 2 ^ n := by
  induction n with
  | zero => simp
  | succ n ih =>
    rw [List.range_succ, List.map_append, List.sum_append, List.map_singleton, List.sum_singleton, Nat.pow_succ]
    split <;> omega

/-- A sum of distinct powers of two has just their bits. -/
theorem testBit_sum_bits (f : Nat → Bool) (n j : Nat) :
    ((List.range n).map (fun k => if f k then 2 ^ k else 0)).sum.testBit j = (decide (j < n) && f j) := by
  induction n with
  | zero => simp
  | succ n ih =>
    have hlt := sum_bits_lt f n
    rw [List.range_succ, List.map_append, List.sum_append, List.map_singleton, List.sum_singleton]
    by_cases hn : f n
    · rw [if_pos hn, Nat.add_comm, ← Nat.mul_one (2 ^ n), Nat.two_pow_add_eq_or_of_lt hlt, Nat.testBit_or, ih, Nat.mul_one,
        Nat.testBit_two_pow]
      grind
    · rw [if_neg hn, Nat.add_zero, ih]
      grind

/-- The first n steps of BREV set bit j where bit 31 − j is a 1 among the lowest n. -/
theorem getLsbD_brev_fold (a : Word) {n j : Nat} (hn : n ≤ 32) (hj : j < 32) :
    ((List.range n).foldl (fun r i => if a.getLsbD i then r ||| BitVec.twoPow 32 (31 - i) else r) (0 : Word)).getLsbD j =
      (decide (31 - j < n) && a.getLsbD (31 - j)) := by
  induction n with
  | zero => simp
  | succ n ih =>
    rw [List.range_succ, List.foldl_append, List.foldl_cons, List.foldl_nil]
    by_cases hbit : a.getLsbD n
    · rw [if_pos hbit, BitVec.getLsbD_or, ih (by omega), BitVec.getLsbD_twoPow]
      grind
    · rw [if_neg hbit, ih (by omega)]
      grind

theorem brev_eq_sum (a : Word) :
    brev a = BitVec.ofNat 32 ((List.range 32).map (fun k => if a.getLsbD (31 - k) then 2 ^ k else 0)).sum := by
  apply BitVec.eq_of_getLsbD_eq
  intro j hj
  rw [brev, getLsbD_brev_fold a le_rfl hj, BitVec.getLsbD_ofNat, testBit_sum_bits (fun k => a.getLsbD (31 - k))]
  simp [hj, show 31 - j < 32 by omega]

theorem sext_of_lt {n f : Nat} (hn : n ≠ 0) (hf : f < 2 ^ n) :
    sext n f = if f < 2 ^ (n - 1) then (f : Int) else f - 2 ^ n := by
  simp only [sext, Nat.mod_eq_of_lt hf, hn, ne_eq, not_false_eq_true, true_and, ← not_lt, ite_not]

/-- A field of n bits, extended from its own sign bit or with zeros. -/
theorem extendField_eq_ofInt (u : Bool) {n : Nat} (hn : n ≠ 0) (y : Int) :
    (if u then BitVec.ofNat 32 (y % 2 ^ n).toNat else BitVec.ofInt 32 (sext n (y % 2 ^ n).toNat)) =
      BitVec.ofInt 32 (if u ∨ y % 2 ^ n < 2 ^ (n - 1) then y % 2 ^ n else y % 2 ^ n - 2 ^ n) := by
  have hpow : (0 : Int) < 2 ^ n := by positivity
  obtain ⟨f, hf⟩ : ∃ f : Nat, y % 2 ^ n = f := Int.eq_ofNat_of_zero_le (Int.emod_nonneg y hpow.ne')
  have hlt : f < 2 ^ n := by exact_mod_cast hf ▸ Int.emod_lt_of_pos y hpow
  rw [hf, Int.toNat_natCast]
  cases u
  · rw [sext_of_lt hn hlt]
    norm_cast
    simp
  · simp

theorem bfe_eq_field (u : Bool) (a b c : Word) : bfe u a b c =
    let o := b.toNat % 256
    let n := min (c.toNat % 256) 32
    let f := (asInt u a / 2 ^ o) % 2 ^ n
    if n = 0 then 0 else BitVec.ofInt 32 (if u ∨ f < 2 ^ (n - 1) then f else f - 2 ^ n) := by
  dsimp only [bfe]
  split
  · rfl
  · exact extendField_eq_ofInt u ‹_› _

/-! ### The table of the integer words (R341, R343, R344) -/

/-- An integer word is a value word of its table. -/
theorem exec_of_intOperands {i : Instr} {w : VWord} {ops : List (OpKind2 × BitVec 9)} {lat : Nat} (s : State)
    (hi : intOperands i = some (w, ops, lat)) :
    exec i s = valueWord s w ops lat (fun x l => intTable i (src s x w.a l) (src s x w.b l) (src s x w.c l)) := by
  cases i with
  | iadd w => cases hi; exact valueWord_congr fun x l => iadd_eq_intResult ..
  | isub w => cases hi; exact valueWord_congr fun x l => isub_eq_intResult ..
  | imul w => cases hi; exact valueWord_congr fun x l => mul_eq_intResult ..
  | imulh w => cases hi; exact valueWord_congr fun x l => imulh_eq_quotient ..
  | imad w => cases hi; exact valueWord_congr fun x l => imad_eq_intResult ..
  | imin w => cases hi; exact valueWord_congr fun x l => imin_eq_intResult ..
  | imax w => cases hi; exact valueWord_congr fun x l => imax_eq_intResult ..
  | iabs w => cases hi; exact valueWord_congr fun x l => iabs_eq_intResult ..
  | shl w => cases hi; exact valueWord_congr fun x l => shl_eq_product ..
  | shr w => cases hi; exact valueWord_congr fun x l => shr_eq_quotient ..
  | sar w => cases hi; exact valueWord_congr fun x l => sar_eq_quotient ..
  | rot w => cases hi; exact valueWord_congr fun x l => rotateLeft_eq_or ..
  | bfe w => cases hi; exact valueWord_congr fun x l => bfe_eq_field ..
  | popc w => cases hi; exact valueWord_congr fun x l => popc_eq_sum ..
  | clz w => cases hi; exact valueWord_congr fun x l => clz_eq_find ..
  | brev w => cases hi; exact valueWord_congr fun x l => brev_eq_sum ..
  | andB w => cases hi; rfl
  | orB w => cases hi; rfl
  | xorB w => cases hi; rfl
  | notB w => cases hi; rfl
  | bfi w => cases hi; rfl
  | mov w => cases hi; rfl
  | _ => cases hi

/-- Settles O11: an integer word is the value word of its table, and a value word whose checks pass writes its lanes alone. -/
theorem integerWordsWriteTheirTable : Obligations.IntegerWordsWriteTheirTable := by
  unfold Obligations.IntegerWordsWriteTheirTable
  intro s x i w ops lat hi hw hf
  rw [exec_of_intOperands s hi]
  exact valueWord_of hw hf fun _ => rfl

/-! ### Compares, selects and moves (R346) -/

theorem holds_eq_onInts (cc : Cmp) (u : Bool) (a b : Word) :
    Cmp.holds cc u a b = Cmp.onInts cc (asInt (u && cc.ordered) a) (asInt (u && cc.ordered) b) := by
  cases cc with
  | eq => simp [Cmp.holds, Cmp.onInts, Cmp.ordered, asInt, BitVec.toInt_inj, Bool.beq_eq_decide_eq]
  | ne => simp [Cmp.holds, Cmp.onInts, Cmp.ordered, asInt, BitVec.toInt_inj, bne, Bool.beq_eq_decide_eq]
  | lt => simpa [Cmp.holds, Cmp.onInts, Cmp.ordered] using lt_eq_decide_asInt u a b
  | le => simpa [Cmp.holds, Cmp.onInts, Cmp.ordered] using le_eq_decide_asInt u a b
  | gt => simpa [Cmp.holds, Cmp.onInts, Cmp.ordered] using lt_eq_decide_asInt u b a
  | ge => simpa [Cmp.holds, Cmp.onInts, Cmp.ordered] using le_eq_decide_asInt u b a

section
variable {s : State} {x : WCtx} {w : VWord} (hw : waveOf s w.msel = some x)
include hw

theorem exec_icmp_of {cc : Cmp} (hf : issueFault s x [(.maskOrDst, w.d), (.src, w.a), (.src, w.b)] 2 = none) :
    exec (.icmp cc w) s = .next (s.setWave x.v
      (let out (l : Nat) : Bool := Cmp.holds cc w.mod0 (src s x w.a l) (src s x w.b l)
       Wave.putCmp s.free 2 x.wv w.d x.e (fun l => boolWord (out l)) out)) :=
  (onWave_of hw _).trans (congrArg _ (checked_ok _ hf rfl))

theorem exec_sel_of (hf : issueFault s x [(.dst, w.d), (.src, w.a), (.src, w.b), (.maskSrc, w.c)] 2 = none) :
    exec (.sel w) s = .next (s.setWave x.v (x.wv.put s.free 2 w.d x.e (fun l =>
      src s x (if (readM s x.wv (w.c.toNat - 0x140)).getLsbD l then w.a else w.b) l))) :=
  valueWord_of hw hf fun l => (apply_ite (src s x · l) ..).symm

theorem exec_aadd64_of (hf : issueFault s x [(.dstN 2, w.d), (.srcN 2, w.a), (.src, w.b)] 2 = none) :
    exec (.aadd64 w) s = .next (s.setWave x.v (x.wv.putPair s.free 2 w.d x.e (fun l =>
      BitVec.ofInt 64 (((readPair s x.v x.wv w.a l).toNat : Int) + (src s x w.b l).toInt)))) :=
  pairWord_of hw hf fun l => by simp [BitVec.ofInt_add, BitVec.signExtend]

theorem exec_amad64_of (hf : issueFault s x [(.dstN 2, w.d), (.srcN 2, w.a), (.src, w.b), (.src, w.c)] 4 = none) :
    exec (.amad64 w) s = .next (s.setWave x.v (x.wv.putPair s.free 4 w.d x.e (fun l =>
      BitVec.ofInt 64 (((readPair s x.v x.wv w.a l).toNat : Int) +
        (src s x w.b l).toInt * ((src s x w.c l).toNat : Int))))) :=
  pairWord_of hw hf fun l => by simp [BitVec.ofInt_add, BitVec.ofInt_mul, BitVec.signExtend]

end

/-- A word of selector 15 runs on the head run (R149). -/
theorem waveOf_head_run {s : State} {x : WCtx} (hw : waveOf s 15 = some x) : x.e = x.cl.run := by
  obtain ⟨-, -, -, -, he⟩ := waveOf_spec hw
  exact he

theorem exec_movi_of {s : State} {x : WCtx} {w : LWord} (hw : waveOf s 15 = some x)
    (hf : issueFault s x [(.dst, w.d)] 2 = none) :
    exec (.movi w) s = .next (s.setWave x.v (x.wv.put s.free 2 w.d x.cl.run (fun _ => w.imm))) := by
  rw [← waveOf_head_run hw]
  exact (onWave_of hw _).trans (congrArg _ (checked_ok _ hf rfl))

/-- Settles O12: a compare of words is the compare of their integers, and the pair words add and multiply modulo 2^64. -/
theorem comparesSelectsAndAddressWords : Obligations.ComparesSelectsAndAddressWords := by
  unfold Obligations.ComparesSelectsAndAddressWords
  refine ⟨⟨?icmp, ?sel, ?mov, ?movi⟩, ?aadd64, ?amad64⟩
  case icmp =>
    intro s x cc w hw hf
    rw [exec_icmp_of hw hf]
    simp only [holds_eq_onInts]
    rfl
  case sel => exact fun s x w hw hf => exec_sel_of hw hf
  case mov => exact fun s x w hw hf => valueWord_of hw hf fun _ => rfl
  case movi => exact fun s x w hw hf => exec_movi_of hw hf
  case aadd64 => exact fun s x w hw hf => exec_aadd64_of hw hf
  case amad64 => exact fun s x w hw hf => exec_amad64_of hw hf

/-! ### Shuffles (R359, R360) -/

theorem validSrc_iff (x : WCtx) (g l k : Nat) :
    validSrc x g l k = true ↔ k / g = l / g ∧ x.e.getLsbD k = true ∧ k < x.wv.width := by
  simp [validSrc, and_assoc]

/-- Each SHFL word is the shuffle whose source lane its row names. -/
theorem exec_of_shufTable {i : Instr} {w : VWord} {f : Nat → Nat → Nat → Nat → Option Nat} (s : State)
    (hi : shufTable i = some (w, f)) :
    ∃ kind, exec i s = shufWord kind w s ∧ ∀ g l q, shufLane kind g l q = f g (l / g * g) l q := by
  cases i with
  | shflIdx w => cases hi; exact ⟨0, rfl, fun _ _ _ => rfl⟩
  | shflUp w => cases hi; exact ⟨1, rfl, fun _ _ _ => rfl⟩
  | shflDown w => cases hi; exact ⟨2, rfl, fun _ _ _ => rfl⟩
  | shflXor w => cases hi; exact ⟨3, rfl, fun _ _ _ => rfl⟩
  | _ => cases hi

theorem peers_headD (x : WCtx) (g l : Nat) :
    (peers x g l).headD l = ((lanesOf x.e).find? (fun k => k / g == l / g)).getD l := by
  rw [peers, List.headD_eq_head?_getD, List.head?_filter]

/-- Settles O18: the four shuffles are one value word over the table's source lane, and the head of a lane's peers is the
lowest lane of E in its subgroup. -/
theorem shufflesTakeTheirSourceLane : Obligations.ShufflesTakeTheirSourceLane := by
  unfold Obligations.ShufflesTakeTheirSourceLane
  refine ⟨?shfl, ?bcast⟩
  case shfl =>
    intro s x w i f hi hw hf G
    obtain ⟨kind, hexec, hlane⟩ := exec_of_shufTable s hi
    rw [hexec]
    refine valueWord_of hw hf fun l => ?_
    rw [hlane, show VWord.group w = G from rfl]
    dsimp only [src]
    cases f G (l / G * G) l (readSrc s x.v x.wv .int w.b l).toNat with
    | none => rfl
    | some k => exact if_congr (validSrc_iff x _ l k) rfl rfl
  case bcast =>
    intro s x w hw hf G
    exact valueWord_of hw hf fun l => congrArg (src s x w.a) (peers_headD x G l)

/-! ### Reductions and scans (R361) -/

/-- An integer operator of R361 is the one the tree combines with, and is associative: the shape of the tree does not show. -/
theorem intCombine_spec {op : XOp} {u : Bool} {f : Word → Word → Word} (h : intCombine op u = some f) :
    f = combine op u ∧ Std.Associative (combine op u) := by
  cases op with
  | add => cases h; exact ⟨rfl, ⟨BitVec.add_assoc⟩⟩
  | min =>
    cases h
    have hmin : combine .min u = fun a b => if asInt u b < asInt u a then b else a :=
      funext fun a => funext fun b => imin_eq_ite u a b
    exact ⟨hmin.symm, hmin ▸ ⟨fun a b c => by grind⟩⟩
  | max =>
    cases h
    have hmax : combine .max u = fun a b => if asInt u a < asInt u b then b else a :=
      funext fun a => funext fun b => imax_eq_ite u a b
    exact ⟨hmax.symm, hmax ▸ ⟨fun a b c => by grind⟩⟩
  | and => cases h; exact ⟨rfl, ⟨BitVec.and_assoc⟩⟩
  | or => cases h; exact ⟨rfl, ⟨BitVec.or_assoc⟩⟩
  | xor => cases h; exact ⟨rfl, ⟨BitVec.xor_assoc⟩⟩
  | fadd | fmin | fmax => cases h

/-- A level of the tree over paired positions halves their number. -/
theorem length_treeLevel {op : XOp} {u : Bool} {n : Nat} {ps : List (Option Word)} (hl : ps.length = 2 * n) :
    (treeLevel op u ps).length = n := by
  induction ps using treeLevel.induct generalizing n with
  | case1 a b r ih =>
    rw [List.length_cons, List.length_cons] at hl
    rw [treeLevel, List.length_cons, ih (n := n - 1) (by omega)]
    omega
  | case2 ps hps =>
    match ps with
    | [] =>
      change 0 = 2 * n at hl
      change 0 = n
      omega
    | [p] =>
      change 1 = 2 * n at hl
      omega
    | a :: b :: r => exact absurd rfl (hps a b r)

@[simp] theorem combineOpt_none_left (op : XOp) (u : Bool) (b : Option Word) : combineOpt op u none b = b := by
  cases b <;> rfl

@[simp] theorem combineOpt_none_right (op : XOp) (u : Bool) (a : Option Word) : combineOpt op u a none = a := by
  cases a <;> rfl

/-- Where no position counts, nothing is combined. -/
theorem foldr_combineOpt_none {op : XOp} {u : Bool} {ps : List (Option Word)} (h : ps.reduceOption = []) :
    ps.foldr (combineOpt op u) none = none := by
  induction ps with
  | nil => rfl
  | cons p ps ih =>
    cases p with
    | none => exact ih h
    | some a => cases h

section
variable {op : XOp} {u : Bool} (hassoc : Std.Associative (combine op u))
include hassoc

theorem combineOpt_assoc (a b c : Option Word) :
    combineOpt op u (combineOpt op u a b) c = combineOpt op u a (combineOpt op u b c) := by
  match a, b, c with
  | none, _, _ => simp
  | some _, none, _ => simp
  | some _, some _, none => simp
  | some a, some b, some c => exact congrArg some (hassoc.assoc a b c)

/-- A level of the tree keeps what its positions combine to. -/
theorem foldr_treeLevel (ps : List (Option Word)) :
    (treeLevel op u ps).foldr (combineOpt op u) none = ps.foldr (combineOpt op u) none := by
  induction ps using treeLevel.induct with
  | case1 a b r ih => rw [treeLevel, List.foldr_cons, ih, combineOpt_assoc hassoc]; rfl
  | case2 ps hps => rw [treeLevel]; exact hps

/-- An associative operator's tree is the combination of its positions in order, however they pair. -/
theorem tree_eq_foldr {n : Nat} {ps : List (Option Word)} (hl : ps.length = 2 ^ n) :
    tree op u n ps = ps.foldr (combineOpt op u) none := by
  induction n generalizing ps with
  | zero =>
    obtain ⟨p, rfl⟩ := List.length_eq_one_iff.mp hl
    cases p <;> rfl
  | succ n ih => rw [tree, ih (length_treeLevel (by omega)), foldr_treeLevel hassoc]

/-- The positions that count, combined from the right, are their values folded from the left. -/
theorem foldr_combineOpt {ps : List (Option Word)} {v : Word} {vs : List Word} (h : ps.reduceOption = v :: vs) :
    ps.foldr (combineOpt op u) none = some (vs.foldl (combine op u) v) := by
  induction ps generalizing v vs with
  | nil => cases h
  | cons p ps ih =>
    cases p with
    | none => exact ih h
    | some a =>
      rw [List.reduceOption_cons_of_some] at h
      obtain ⟨rfl, rfl⟩ := List.cons.inj h
      rw [List.foldr_cons]
      cases hr : ps.reduceOption with
      | nil => rw [foldr_combineOpt_none hr]; rfl
      | cons b bs => rw [ih hr, List.foldl_cons, List.foldl_assoc]; rfl

end

theorem reduceOption_map_ite (c : Nat → Bool) (a : Nat → Word) (ks : List Nat) :
    (ks.map (fun k => if c k then some (a k) else none)).reduceOption = (ks.filter c).map a := by
  induction ks with
  | nil => rfl
  | cons k ks ih => cases h : c k <;> simp [h, ih]

/-- The positions of a subgroup whose lane is in E are the lanes of E in that subgroup, in the same order. -/
theorem filter_positions_eq_filter_lanesOf (e : Mask) (p : Nat → Bool) {g : Nat} (l : Nat) (hg : 0 < g) :
    (List.range' (l / g * g) g).filter (fun k => e.getLsbD k && p k) =
      (lanesOf e).filter (fun k => k / g == l / g && p k) := by
  refine List.Pairwise.eq_of_mem_iff (r := (· < ·)) ((List.pairwise_lt_range' ..).filter _)
    ((List.pairwise_lt_range.filter _).filter _) fun k => ?_
  have hgroup : k / g = l / g ↔ l / g * g ≤ k ∧ k < l / g * g + g := by
    rw [Nat.div_eq_iff hg]
    omega
  have hlane : e.getLsbD k = true → k < 64 := BitVec.lt_of_getLsbD
  simp only [List.mem_filter, List.mem_range'_1, mem_lanesOf, Bool.and_eq_true, beq_iff_eq, hgroup]
  tauto

/-- The values at the positions that count are those of the counted lanes of E, in ascending order. -/
theorem reduceOption_positions (e : Mask) (p : Nat → Bool) (a : Nat → Word) {g : Nat} (l : Nat) (hg : 0 < g) :
    ((List.range g).map (fun j =>
      if e.getLsbD (l / g * g + j) && p (l / g * g + j) then some (a (l / g * g + j)) else none)).reduceOption =
      ((lanesOf e).filter (fun k => k / g == l / g && p k)).map a := by
  rw [← filter_positions_eq_filter_lanesOf e p l hg, ← reduceOption_map_ite, List.range'_eq_map_range, List.map_map]
  rfl

/-- The floating-point operators take no notice of .U. -/
theorem combine_of_float {op : XOp} {u : Bool} (h : intCombine op u = none) : combine op u = combine op false := by
  cases op with
  | fadd | fmin | fmax => rfl
  | _ => cases h

theorem tree_congr {op : XOp} {u v : Bool} (h : combine op u = combine op v) (n : Nat) (ps : List (Option Word)) :
    tree op u n ps = tree op v n ps := by
  have hopt (a b : Option Word) : combineOpt op u a b = combineOpt op v a b := by
    simp only [combineOpt, h]
  have hlevel (ps : List (Option Word)) : treeLevel op u ps = treeLevel op v ps := by
    induction ps using treeLevel.induct with
    | case1 a b r ih => rw [treeLevel, treeLevel, hopt, ih]
    | case2 ps hps => rw [treeLevel, treeLevel] <;> exact hps
  induction n generalizing ps with
  | zero => rfl
  | succ n ih => rw [tree, tree, hlevel, ih]

theorem reduceLanes_of_int {op : XOp} {u : Bool} {f : Word → Word → Word} (h : intCombine op u = some f) (n s0 : Nat)
    (counted : Nat → Bool) (a : Nat → Word) : reduceLanes op u n s0 counted a =
      (tree op u n ((List.range (2 ^ n)).map (fun j => if counted (s0 + j) then some (a (s0 + j)) else none))).getD 0 := by
  cases op with
  | fadd | fmin | fmax => cases h
  | _ => rfl

theorem reduceLanes_of_float {op : XOp} {u : Bool} (h : intCombine op u = none) (n s0 : Nat)
    (counted : Nat → Bool) (a : Nat → Word) : reduceLanes op u n s0 counted a =
      nanToCanonical ((tree op false n
        ((List.range (2 ^ n)).map (fun j => if counted (s0 + j) then some (a (s0 + j)) else none))).getD 0) := by
  rw [← tree_congr (combine_of_float h)]
  cases op with
  | fadd | fmin | fmax => rfl
  | _ => cases h

theorem exec_of_reduceRow {i : Instr} {w : VWord} {op : XOp} {scan : Bool} (s : State)
    (hi : reduceRow i = some (w, op, scan)) : exec i s = reduceWord scan op w s := by
  cases i with
  | redx op w => cases hi; rfl
  | scanx op w => cases hi; rfl
  | _ => cases hi

/-- Settles O19: an associative operator makes the tree a fold over the subgroup's lanes of E; the others keep the tree, whose
NaN is made canonical. -/
theorem reductionsCombineTheirSubgroup : Obligations.ReductionsCombineTheirSubgroup := by
  unfold Obligations.ReductionsCombineTheirSubgroup
  intro s x w i op scan hi hw hf _ G counted vals
  rw [exec_of_reduceRow s hi]
  refine ⟨fun f hint => valueWord_of hw hf fun l => ?int, fun hfloat => valueWord_of hw hf fun l => ?float⟩
  case int =>
    obtain ⟨rfl, hassoc⟩ := intCombine_spec hint
    have hvals := reduceOption_positions x.e (fun k => !scan || decide (k ≤ l)) (src s x w.a) l
      (Nat.two_pow_pos (w.mod.toNat % 8))
    refine (reduceLanes_of_int hint ..).trans ?_
    rw [tree_eq_foldr hassoc (by simp), VWord.group]
    cases hv : vals l with
    | nil => rw [foldr_combineOpt_none (hvals.trans hv)]; rfl
    | cons v vs => rw [foldr_combineOpt hassoc (hvals.trans hv)]; rfl
  case float => exact reduceLanes_of_float hfloat ..

end Sys2Proof.Machine
